-- ==== Sys2Proof/Word.lean ====
section
/-! DEFINITION. The word types of the PL14 and their plainest arithmetic: bytes and words are bit vectors where the
manual treats them as bits (R19, R20); counts, numbers of units and times are `Nat`. -/
namespace Sys2Proof

abbrev Byte := BitVec 8
abbrev W16 := BitVec 16
abbrev W32 := BitVec 32
abbrev W64 := BitVec 64

/-- `v[hi:lo]` as a number (R21). -/
def bits (v hi lo : Nat) : Nat := (v >>> lo) % 2 ^ (hi + 1 - lo)

/-- `v` with the bits `[hi:lo]` replaced by `f`. -/
def setBits (v hi lo f : Nat) : Nat :=
  v - ((bits v hi lo) <<< lo) + ((f % 2 ^ (hi + 1 - lo)) <<< lo)

/-- Two's complement reading of the low `w` bits of `v`. -/
def sext (w v : Nat) : Int :=
  if v % 2 ^ w < 2 ^ (w - 1) then (v % 2 ^ w : Nat) else (v % 2 ^ w : Nat) - (2 : Int) ^ w

/-- The low `w` bits of an integer, as an unsigned number. -/
def wrapInt (w : Nat) (i : Int) : Nat := (i % (2 : Int) ^ w).toNat

/-- Bytes to a number, the byte at the lowest address holding bits [7:0] (R19). -/
def leNat : List Byte → Nat
  | [] => 0
  | b :: bs => b.toNat + 256 * leNat bs

/-- The `n` little-endian bytes of a number (R19). -/
def natLe : Nat → Nat → List Byte
  | 0, _ => []
  | n + 1, v => BitVec.ofNat 8 v :: natLe n (v / 256)

/-- Serial-number arithmetic (R328): `a` precedes `b` modulo `2^w`. -/
def precedes (w a b : Nat) : Bool :=
  let d := (b + 2 ^ w - a % 2 ^ w) % 2 ^ w
  1 ≤ d && d < 2 ^ (w - 1)

/-- The distance from `a` to `b` modulo `2^w` (R328). -/
def distance (w a b : Nat) : Nat := (b + 2 ^ w - a % 2 ^ w) % 2 ^ w

/-- `n` divided by `d`, rounded up. -/
def ceilDiv (n d : Nat) : Nat := (n + d - 1) / d

/-- The position of the highest set bit of a positive number. -/
def log2 (n : Nat) : Nat := Nat.log2 n

end Sys2Proof
end

