-- ==== Sys2Proof/Syntax.lean ====
section
/-! DEFINITION. The commands of the block: one constructor of `Instr` for each row of spec/opcode_table.json, with the
operands that say which unit the event concerns and which values arrive from outside it. -/
namespace Sys2Proof

/-- The agents that make register accesses (R17, R497). -/
inductive Agent where
  | host | firmware
  deriving DecidableEq, Repr, Inhabited

/-- Width of a register or aperture access in bytes: 1, 2, 4 or 8 (R16). -/
inductive AccSize where
  | b1 | b2 | b4 | b8
  deriving DecidableEq, Repr, Inhabited

/-- The fields of the base word of Table 05.1 but the operation, and the extension word (R147, R148). -/
structure Enc where
  ext  : Bool
  dst  : BitVec 8
  sa   : BitVec 8
  sb   : BitVec 8
  sc   : BitVec 8
  pneg : Bool
  pred : BitVec 3
  mod  : BitVec 20
  xw   : W64
  deriving DecidableEq, Repr, Inhabited

/-- A core instruction issued by one group of one core (R92): its base word and the word after it, as fetched (R147). -/
structure Issue where
  core : Fin 256
  grp  : Fin 64
  base : W64
  ext  : W64
  deriving DecidableEq, Repr, Inhabited

/-- A routed Stairway message: the header of Table 13.4 with its byte mask and its 64 bytes of data (R386). -/
structure Msg where
  opc    : BitVec 8
  starve : Bool
  poison : Bool
  dst    : BitVec 10
  src    : BitVec 10
  span   : Fin 64
  txn    : BitVec 12
  hops   : BitVec 4
  addr   : BitVec 56
  aux    : BitVec 8
  mask   : W64
  data   : List Byte
  deriving DecidableEq, Repr, Inhabited

/-- The Meta0-State MetaValue of a host request (R252). -/
inductive Meta where
  | i | s | a
  deriving DecidableEq, Repr, Inhabited

/-- State of a coherent sector (R243, R254). -/
inductive Coh where
  | i | s | e | m
  deriving DecidableEq, Repr, Inhabited

/-- What an L2 array error is (Table 07.7). -/
inductive L2Err where
  | dataSingle | dataMulti | tagParity
  deriving DecidableEq, Repr, Inhabited

/-- What a memory-side cache error is (Table 07.7). -/
inductive MscErr where
  | data | tag
  deriving DecidableEq, Repr, Inhabited

/-- The engines that carry out transfers (R226, R335). -/
inductive XUnit where
  | core (c : Fin 256)
  | channel (n : Fin 32)
  deriving DecidableEq, Repr, Inhabited

/-- The transports of the SPDM responder (R444). -/
inductive Transport where
  | doe | mctpSmbus | mctpCxl
  deriving DecidableEq, Repr, Inhabited

/-- The advice codes of R291. -/
inductive Advice where
  | willneed | cold | pin | unpin
  deriving DecidableEq, Repr, Inhabited

/-- The answer of a host CXL.cache request (R254). -/
inductive CacheRsp where
  | data (st : Coh) (bytes : List Byte) (poison : Bool)
  | completion
  | error
  deriving DecidableEq, Repr, Inhabited

/-- Payload of a received IDENT flit (Table 13.2) with the outcome of its CRC check. -/
structure IdentPayload where
  crcOk     : Bool
  stairwell : W32
  chip      : BitVec 10
  port      : BitVec 3
  acked     : Bool
  tray      : W16
  major     : BitVec 8
  minor     : BitVec 8
  credits   : List Nat
  newel     : W64
  arrival   : W64
  deriving DecidableEq, Repr, Inhabited

/-- What checking a received flit gives: it is good, its tag or its FEC fails, or its TYPE is reserved (R384, R388). -/
inductive FlitCheck where
  | good | tag | fec | type
  deriving DecidableEq, Repr, Inhabited

/-- An event message of the PTP grandmaster, corrected by its correction field (R397): a Sync, of a one-step master with its departure t1,
the Follow_Up of a two-step one, and the Delay_Resp with the arrival t4 of the slave's request. -/
inductive PtpMsg where
  | sync (domain : Byte) (seq : W16) (t1 : Option W64)
  | followUp (domain : Byte) (seq : W16) (t1 : W64)
  | delayResp (domain : Byte) (seq : W16) (t4 : W64)
  deriving DecidableEq, Repr, Inhabited

/-- Power measured over one governor iteration, in W (R466, R468), and the change of every lever: the amounts that the
iteration sets from the per-tile measurements, in MHz for clocks and in per cent for rates. -/
structure PowerSample where
  avg1ms   : Nat
  avg10ms  : Nat
  hbm      : Nat
  compute  : Nat
  memory   : Nat
  links    : Nat
  other    : Nat
  tileStep : Nat
  linkStep : Nat
  hbmStep  : Nat
  galStep  : Nat
  fabStep  : Nat
  deriving DecidableEq, Repr, Inhabited

/-- The commands of the block, one for each row of spec/opcode_table.json. -/
inductive Instr where
  -- registers, resets and the control signals
  | registerWrite (a : Agent) (off : BitVec 25) (size : AccSize) (v : W64)
  | coldReset
  | coldResetRelease (smbAddr : BitVec 2)
  | fastClocksStart
  | warmReset
  | warmResetRelease
  | loupeFreezeRise
  | coolantStop
  | thermalSample (temps : List (Fin 408 × Int))
  | railFault (rail : Fin 5)
  | refclkHostLoss
  | refclkSerdesLoss
  -- integer instructions
  | add (i : Issue) | sub (i : Issue) | mul (i : Issue) | mulh (i : Issue) | muladd (i : Issue) | bool (i : Issue)
  | shift (i : Issue) | testi (i : Issue) | choose (i : Issue) | copy (i : Issue) | seti (i : Issue)
  | addw (i : Issue) | bitop (i : Issue) | xlane (i : Issue) | poll (i : Issue)
  -- float instructions
  | addf (i : Issue) | mulf (i : Issue) | fmaf (i : Issue) | minf (i : Issue) | maxf (i : Issue) | testf (i : Issue)
  | fmap (i : Issue) | addp (i : Issue) | mulp (i : Issue) | spf (i : Issue)
  -- conversion, quantisation, memory, matrix
  | cvt (i : Issue) | qnt (i : Issue) | stq (i : Issue)
  | ld (i : Issue) | st (i : Issue) | ldloc (i : Issue) | stloc (i : Issue) | rmw (i : Issue) | rmwl (i : Issue)
  | mma (i : Issue) | mld (i : Issue)
  | loadResponse (c : Fin 256) (k : Nat) (err : Bool)
  | storeAcknowledgement (c : Fin 256) (k : Nat) (err : Bool)
  | xfer (i : Issue)
  | transferComplete (u : XUnit) (err : Bool)
  | xwait (i : Issue) | tbrWait (i : Issue) | tbrPass (i : Issue) | fence (i : Issue) | lwait (i : Issue)
  | br (i : Issue) | bri (i : Issue)
  | yield (c : Fin 256) (g : Fin 64)
  | exit (i : Issue) | nop (i : Issue) | gets (i : Issue)
  -- teams
  | teamPlacement (c : Fin 256) (slot : Fin 16) (q : Fin 4096) (seq : W32)
  | coreFaultRecord (c : Fin 256)
  | preempt (a : Agent) (c : Fin 256) (teams : BitVec 16)
  | preemptComplete (c : Fin 256)
  | resume (a : Agent) (c : Fin 256) (teams : BitVec 16)
  | resumeRestore (c : Fin 256) (slot : Fin 16)
  | discard (a : Agent) (c : Fin 256) (teams : BitVec 16)
  | cntClr (a : Agent) (c : Fin 256)
  | fmtSrSeed (a : Agent) (c : Fin 256) (seed : W64)
  | mergeEntryTimeout (c : Fin 256) (k : Nat)
  | peerTimeout (c : Fin 256) (k : Nat)
  -- arrays and caches
  | icacheParityError (c : Fin 256) (set : Fin 128) (way : Fin 4)
  | l1ParityError (c : Fin 256) (set : Fin 128) (way : Fin 8) (cycle : Nat)
  | l2Error (slice : Fin 64) (set : Fin 1024) (way : Fin 16) (sector : Fin 2) (kind : L2Err)
  | galleryError (bank : Fin 256) (w : BitVec 23) (multi : Bool)
  | mscError (addr : BitVec 46) (kind : MscErr)
  | hbmError (addr : BitVec 46) (uncorrectable : Bool)
  | patrolScrub (addr : BitVec 46)
  | hbmRefresh (stack : Fin 8)
  | clean (a : Agent) (ch : Fin 8) (part : Fin 16)
  | invalidate (a : Agent) (ch : Fin 8) (part : Fin 16)
  | cleanAndInvalidate (a : Agent) (ch : Fin 8) (part : Fin 16)
  | preloadAndLock (a : Agent) (ch : Fin 8) (part : Fin 16)
  | unlock (a : Agent) (ch : Fin 8) (part : Fin 16)
  | maintenanceDone (ch : Fin 8)
  | wayPowerRequest (a : Agent) (target : BitVec 16)
  | wayPowerDone
  -- coherence: Stairway messages
  | rds (m : Msg) | rdm (m : Msg) | upg (m : Msg) | wbm (m : Msg) | evs (m : Msg) | wrf (m : Msg) | wrp (m : Msg)
  | fwds (m : Msg) | fwdm (m : Msg) | rcls (m : Msg) | rcli (m : Msg) | inv (m : Msg)
  | datas (m : Msg) | datam (m : Msg) | grantm (m : Msg) | wbs (m : Msg) | rcldata (m : Msg) | invack (m : Msg)
  | fwdack (m : Msg) | wback (m : Msg) | wrack (m : Msg) | retry (m : Msg)
  | retryResend (addr : BitVec 56)
  | done (m : Msg)
  | holdEnd (addr : BitVec 56)
  | homeTxnTimeout (addr : BitVec 46)
  -- coherence: host
  | memRd (addr : BitVec 46) (mv : Meta)
  | memRdData (addr : BitVec 46)
  | memInv (addr : BitVec 46) (mv : Meta)
  | memInvNT (addr : BitVec 46) (mv : Meta)
  | memClnEvct (addr : BitVec 46) (mv : Meta)
  | memSpecRd (addr : BitVec 46)
  | biConflict (addr : BitVec 46)
  | memWr (addr : BitVec 46) (mv : Meta) (data : List Byte) (poison : Bool)
  | memWrPtl (addr : BitVec 46) (mv : Meta) (data : List Byte) (mask : W64)
  | biRspI (addr : BitVec 46) | biRspS (addr : BitVec 46) | biRspE (addr : BitVec 46)
  | memRdFwd (addr : BitVec 46) (grant : Coh)
  | memWrFwd (addr : BitVec 46)
  | snpInv (addr : BitVec 52) | snpData (addr : BitVec 52) | snpCur (addr : BitVec 52)
  | biasFlipToHost (a : Agent) (pages : BitVec 16)
  | biasFlipToDevice (a : Agent) (pages : BitVec 16)
  | biasFlipDone
  | purgeWalkDone
  -- translation
  | pageTableWalk (k : Nat)
  | faultBatch (err : Bool)
  | faultStallLimit (k : Nat)
  | faultRespRetry (a : Agent) (seq : W32)
  | fail (a : Agent) (seq : W32)
  | retryTag (a : Agent) (tag : W16)
  | ringEnable (a : Agent) (size : BitVec 5) (vec : BitVec 11)
  | ringConsWrite (a : Agent) (v : W32)
  | invalidateTag (a : Agent) (ch : Fin 4) (tag : W16)
  | invalidateEveryTag (a : Agent) (ch : Fin 4)
  | invalidationDone (ch : Fin 4)
  | drainLimit (ch : Fin 4)
  | create (a : Agent) (ch : Fin 4) (tag : W16) (part : Fin 16) (priv : Bool)
  | destroy (a : Agent) (ch : Fin 4) (tag : W16)
  | setRoot (a : Agent) (ch : Fin 4) (tag : W16)
  | translationPrefetch (a : Agent) (ch : Fin 4) (tag : W16)
  | dataPrefetch (a : Agent) (ch : Fin 4) (tag : W16)
  | dataPrefetchAndLock (a : Agent) (ch : Fin 4) (tag : W16)
  | advise (a : Agent) (ch : Fin 4) (tag : W16) (adv : Advice)
  | windowRefresh (a : Agent) (all : Bool) (idx : BitVec 12)
  | windowRefreshDone
  | wrd (m : Msg) | wwr (m : Msg) | watom (m : Msg)
  | wrdrsp (m : Msg) | wwrack (m : Msg) | watomrsp (m : Msg) | werr (m : Msg)
  -- the host endpoint
  | configRequest (write : Bool) (off : BitVec 12) (size : AccSize) (v : W32)
  | doorbell (q : Fin 4096) (v : W64)
  | cqCons (q : Fin 4096) (v : W64)
  | bar4Read (off : BitVec 31) (size : AccSize)
  | bar4Write (off : BitVec 31) (size : AccSize) (v : W64)
  | cxlReset
  | getVersion (t : Transport)
  | getCapabilities (t : Transport)
  | negotiateAlgorithms (t : Transport) (acceptable : Bool)
  | getCertificate (t : Transport) (slot : Fin 8) (offset length : W16)
  | challenge (t : Transport) (slot : Fin 8) (nonce : BitVec 256)
  | getMeasurements (t : Transport) (index : Byte) (nonce : BitVec 256)
  | keyExchange (t : Transport) (slot : Fin 8)
  | heartbeat (t : Transport) (session : W32)
  | keyUpdate (t : Transport) (session : W32)
  | getQuote (t : Transport) (nonce : BitVec 256) (part : Byte)
  | getLog (t : Transport) (first : W32) (count : Nat)
  | getPqChain (t : Transport)
  | doeDiscovery (index : Byte)
  | cdatTableAccess (entry : W16)
  | cxlCacheResponse (addr : BitVec 52) (rsp : CacheRsp)
  | cxlIoCompletion (tag : Nat) (bytes : List Byte) (ok : Bool)
  | registerRead (a : Agent) (off : BitVec 25) (size : AccSize)
  | linkDown | uncorr | ideFail | viral
  | moduleRetrain (m : Fin 4)
  | retrainDone
  | holdLimit
  | releaseResume (a : Agent) (key : Byte)
  | releaseDiscard (a : Agent) (key : Byte)
  | vectorDelivery (v : Fin 2048)
  | completionTimeout (tag : Nat)
  | ideKm (stream : Fin 2) (secure : Bool) (transcript : BitVec 384)
  -- submission
  | descriptorFetch (q : Fin 4096) (err : Bool)
  | refetch (q : Fin 4096)
  | commandStart (q : Fin 4096)
  | kernel (q : Fin 4096) (seq : W32)
  | model (q : Fin 4096) (seq : W32)
  | transfer (q : Fin 4096) (seq : W32)
  | nopDescriptor (q : Fin 4096) (seq : W32)
  | qualify (q : Fin 4096) (seq : W32) (longest : List Nat) (tierFull : Bool)
  | completionRecord (cq : Fin 4096)
  | coalTimeout (cq : Fin 4096)
  | bgAge (q : Fin 4096)
  | createSq (a : Agent) (ch : Fin 4) (q : Fin 4096) (cls : BitVec 2) (part : Fin 16) (log2 : BitVec 5)
  | createCq (a : Agent) (ch : Fin 4) (q : Fin 4096) (part : Fin 16) (log2 : BitVec 5)
  | destroySq (a : Agent) (ch : Fin 4) (q : Fin 4096)
  | destroyCq (a : Agent) (ch : Fin 4) (q : Fin 4096)
  | resetSq (a : Agent) (ch : Fin 4) (q : Fin 4096)
  | drainSq (a : Agent) (ch : Fin 4) (q : Fin 4096)
  | cancelSq (a : Agent) (ch : Fin 4) (q : Fin 4096)
  | readSq (a : Agent) (ch : Fin 4) (q : Fin 4096)
  | readCq (a : Agent) (ch : Fin 4) (q : Fin 4096)
  -- the tier manager
  | register (a : Agent) (ch : Fin 4) (id : W16) (tier : BitVec 2) (part : Fin 16) (src : Bool)
  | unregister (a : Agent) (ch : Fin 4) (id : W16) (part : Fin 16)
  | reside (a : Agent) (ch : Fin 4) (id : W16) (part : Fin 16) (arg : BitVec 2)
  | openStream (a : Agent) (ch : Fin 4) (id : W16) (part : Fin 16)
  | closeStream (a : Agent) (ch : Fin 4) (id : W16) (part : Fin 16)
  | extend (a : Agent) (ch : Fin 4) (id : W16) (part : Fin 16)
  | readImage (a : Agent) (ch : Fin 4) (id : W16) (part : Fin 16)
  | readStream (a : Agent) (ch : Fin 4) (id : W16) (part : Fin 16)
  | layerLaunch (q : Fin 4096) (seq : W32)
  | pageMove (k : Nat) (err : Bool)
  | tierLateLimit (q : Fin 4096) (seq : W32)
  | data (ch : Fin 4) (req : W32) (offset : Nat) (bytes : List Byte)
  | error (ch : Fin 4) (code : W32)
  | srtRepeat (ch : Fin 4)
  | rdmaReadResponse (ch : Fin 4) (psn : BitVec 24) (bytes : List Byte) (ce : Bool)
  | rnrNak (ch : Fin 4)
  | roceRetry (ch : Fin 4)
  -- Stairway ports
  | trainingComplete (p : Fin 8)
  | portStateTimeout (p : Fin 8)
  | identSend (p : Fin 8)
  | ident (p : Fin 8) (d : IdentPayload)
  | keyswitch (p : Fin 8) (seq : BitVec 12) (epoch : W32) (authentic : FlitCheck)
  | normalFlit (p : Fin 8) (seq : BitVec 12) (authentic : FlitCheck) (msgs : List Msg)
  | ack (p : Fin 8) (seq : BitVec 12)
  | nak (p : Fin 8) (seq : BitVec 12)
  | credit (p : Fin 8) (vc : Fin 6) (count : W16)
  | ackTimer (p : Fin 8)
  | silent (p : Fin 8) | stall (p : Fin 8) (vc : Fin 6) | loss (p : Fin 8) | keyRollover (p : Fin 8)
  | retrain (a : Agent) (p : Fin 8) | contain (a : Agent) (p : Fin 8) | disable (a : Agent) (p : Fin 8)
  | portLeave (a : Agent) (p : Fin 8)
  | timeExchange
  | timeReq (p : Fin 8) (src : BitVec 10) (t1 : W64)
  | timeRsp (p : Fin 8) (t1 t2 t3 t4 : W64)
  | ptpMessage (port : Fin 16) (offset : PtpMsg)
  | slip (m : Msg) | jobCancel (m : Msg)
  | lastGasp (p : Fin 8) (m : Msg)
  | leave (p : Fin 8) (m : Msg)
  | join (m : Msg) | mail (m : Msg)
  -- Landings
  | landingFire (part : Fin 16) (idx : Fin 256)
  | arm (a : Agent) (set : Fin 2) | cancel (a : Agent) (set : Fin 2) | cancelAndPropagate (a : Agent) (set : Fin 2)
  | clear (a : Agent) (set : Fin 2) | read (a : Agent) (set : Fin 2)
  | slipPrediction (part : Fin 16) (job : W16) (work : Nat) (clockMHz : Nat)
  -- Ethernet
  | neighborSolicitation (port : Fin 16) (target : BitVec 128) (src : BitVec 128)
  | echoRequest (port : Fin 16) (src : BitVec 128) (bytes : List Byte)
  | frameDrop (port : Fin 16)
  | telemetry
  -- the Setting and Clasp
  | settingLoad (a : Agent) (len : BitVec 23)
  | settingStoreLoad (a : Agent)
  | settingLoadDone (stackOk : BitVec 8) (stackType : BitVec 3)
  | begin (a : Agent) (id : W16)
  | stage (a : Agent) (id : W16)
  | commit (a : Agent) (id : W16)
  | commitAt (a : Agent) (id : W16) (part : Fin 16) (lidx : Fin 256)
  | rollback (a : Agent) (id : W16)
  | claspTimeout
  | commitDone
  | stop (a : Agent) (part : Fin 16)
  | run (a : Agent) (part : Fin 16)
  | partitionStopped (part : Fin 16)
  -- security
  | loadFirmware (a : Agent) (ch : Fin 2)
  | raiseSvn (a : Agent) (ch : Fin 2)
  | install (a : Agent) (ch : Fin 2) (part : Fin 16) (slot : Fin 64)
  | erase (a : Agent) (ch : Fin 2) (part : Fin 16) (slot : Fin 64)
  | rekey (a : Agent) (ch : Fin 2) (part : Fin 16)
  | claim (a : Agent) (ch : Fin 2)
  | transferOwnership (a : Agent) (ch : Fin 2)
  | setEndpointId (eid : Byte)
  | alertResponse
  -- power
  | governorIteration (p : PowerSample)
  | fastLimiter
  | droop (tile : Fin 256)
  | droopEnd (tile : Fin 256)
  | idleEntry (c : Fin 256) | napEntry (c : Fin 256) | offEntry (c : Fin 256) | wakeDone (c : Fin 256)
  | hbmTempRead (stack : Fin 8) (celsius : Nat)
  | watchdog (cc : Fin 8)
  | coreStopTimeout (c : Fin 256)
  -- errors, counters and Loupe
  | openClear (a : Agent) (idx : Fin 512)
  | errLoupeFreeze (a : Agent) (key : Byte)
  | cntClear (a : Agent) (run : Bool)
  | extest (pins : List Bool) | idcode | samplePreload (pins : List Bool) | clamp | bypass
  | loupeSel (chain : W16) (offset : W32)
  | loupeRead
  | loupeFreeze
  | status
  | loupeInfo (chain : W16)
  | sidebandLoupeRead (chain : W16) (offset : W32) (count : Nat)
  | logRead (log : Byte) (first : Nat) (count : Nat)
  | freeze
  | linkUp (modules : BitVec 4)
  | ethernetLinkUp (port : Fin 16)
  | ethernetLinkDown (port : Fin 16)
  | keyswitchSend (p : Fin 8)
  | keyFlitLimit (p : Fin 8)
  | debugUnlock (a : Agent) (ch : Fin 2)
  | securityCommandDone (ch : Fin 2)
  | tierCommandDone (ch : Fin 4)
  | translationCommandDone (ch : Fin 4)
  | vddAonLoss
  | tapReset
  deriving DecidableEq, Repr

end Sys2Proof
end

