-- ==== Sys2Proof/WellFormed.lean ====
section
/-! DEFINITION. Which commands are well formed: the operands that a type does not already bound (lengths of data, alignment
of addresses, the opcode of a Stairway message). -/
namespace Sys2Proof

/-- A routed message carries 64 bytes of data (R386). -/
def Msg.dataOk (m : Msg) : Bool := m.data.length == 64

/-- A message with opcode `opc` of Table 13.5. -/
def Msg.wf (opc : Nat) (m : Msg) : Bool := m.dataOk && m.opc.toNat == opc

/-- The opcodes of routed messages (Table 13.5). -/
def opcodeOk (o : Nat) : Bool :=
  (0x10 ≤ o && o ≤ 0x16) || (0x20 ≤ o && o ≤ 0x24) || (0x30 ≤ o && o ≤ 0x3A) || (0x40 ≤ o && o ≤ 0x42) ||
    (0x50 ≤ o && o ≤ 0x53) || (0x60 ≤ o && o ≤ 0x67)

/-- Host accesses of memory name a 64-byte line (R252, R254). -/
def lineOk {w : Nat} (a : BitVec w) : Bool := a.toNat % 64 == 0

def CacheRsp.wf : CacheRsp → Bool
  | .data _ b _ => b.length == 64
  | .completion => true
  | .error => true

/-- An access size that the bits of a value fit (R16). -/
def AccSize.bytes : AccSize → Nat
  | .b1 => 1 | .b2 => 2 | .b4 => 4 | .b8 => 8

def sizeFits (sz : AccSize) (v : Nat) : Bool := v < 2 ^ (8 * sz.bytes)

/-- Is the command well formed? -/
def Instr.wf : Instr → Bool
  | .registerWrite _ _ sz v => sizeFits sz v.toNat
  | .thermalSample t => (t.map (·.1)).dedup.length == t.length
  | .rds m => m.wf 0x10 | .rdm m => m.wf 0x11 | .upg m => m.wf 0x12 | .wbm m => m.wf 0x13 | .evs m => m.wf 0x14
  | .wrf m => m.wf 0x15 | .wrp m => m.wf 0x16
  | .fwds m => m.wf 0x20 | .fwdm m => m.wf 0x21 | .rcls m => m.wf 0x22 | .rcli m => m.wf 0x23 | .inv m => m.wf 0x24
  | .datas m => m.wf 0x30 | .datam m => m.wf 0x31 | .grantm m => m.wf 0x32 | .wbs m => m.wf 0x33
  | .rcldata m => m.wf 0x34 | .invack m => m.wf 0x35 | .fwdack m => m.wf 0x36 | .wback m => m.wf 0x37
  | .wrack m => m.wf 0x38 | .retry m => m.wf 0x39 | .done m => m.wf 0x3A
  | .retryResend a => lineOk a
  | .holdEnd a => lineOk a
  | .homeTxnTimeout a => lineOk a
  | .memRd a _ => lineOk a | .memRdData a => lineOk a | .memInv a _ => lineOk a | .memInvNT a _ => lineOk a
  | .memClnEvct a _ => lineOk a | .memSpecRd a => lineOk a | .biConflict a => lineOk a
  | .memWr a _ d _ => lineOk a && d.length == 64
  | .memWrPtl a _ d _ => lineOk a && d.length == 64
  | .biRspI a => lineOk a | .biRspS a => lineOk a | .biRspE a => lineOk a
  | .memRdFwd a _ => lineOk a | .memWrFwd a => lineOk a
  | .snpInv a => lineOk a | .snpData a => lineOk a | .snpCur a => lineOk a
  | .wrd m => m.wf 0x40 | .wwr m => m.wf 0x41 | .watom m => m.wf 0x42
  | .wrdrsp m => m.wf 0x50 | .wwrack m => m.wf 0x51 | .watomrsp m => m.wf 0x52 | .werr m => m.wf 0x53
  | .configRequest _ off sz v => sizeFits sz v.toNat && sz != .b8 && off.toNat % sz.bytes == 0
  | .bar4Read off sz => off.toNat % sz.bytes == 0
  | .bar4Write off sz v => sizeFits sz v.toNat && off.toNat % sz.bytes == 0
  | .normalFlit _ _ _ ms => ms.all Msg.dataOk
  | .slip m => m.wf 0x62 | .jobCancel m => m.wf 0x63
  | .lastGasp _ m => m.wf 0x64
  | .leave _ m => m.wf 0x65
  | .join m => m.wf 0x66 | .mail m => m.wf 0x67
  | .cxlCacheResponse a r => lineOk a && r.wf
  | .data _ _ _ b => b.length ≤ 4096
  | .rdmaReadResponse _ _ b _ => b.length ≤ 4096
  | _ => true

end Sys2Proof
end

