-- ==== Sys2Proof/Decode.lean ====
section
/-! DEFINITION. What words spell. No row of spec/opcode_table.json gives bits, so no table word spells a command; a core
instruction comes as the words that the core has fetched, whose fields are read here (R147, R148). -/
namespace Sys2Proof

/-- The command that a table word spells: no row gives bits, so none. -/
def decodeTableWord (_nbits _w : Nat) : Option Instr := none

/-- The fields of a base word, with the extension word where bit 63 says that one follows (Table 05.1). -/
def Enc.ofWords (base ext : W64) : Enc :=
  { ext := base.getLsbD 63, dst := base.extractLsb' 48 8, sa := base.extractLsb' 40 8, sb := base.extractLsb' 32 8,
    sc := base.extractLsb' 24 8, pneg := base.getLsbD 23, pred := base.extractLsb' 20 3, mod := base.extractLsb' 0 20,
    xw := if base.getLsbD 63 then ext else 0 }

/-- The fields of an instruction at issue. -/
def Issue.w (i : Issue) : Enc := Enc.ofWords i.base i.ext

/-- OP, bits [62:56] of the base word: the opcode byte without its EXT bit (R148). -/
def Issue.opc (i : Issue) : Nat := (i.base.extractLsb' 56 7).toNat

end Sys2Proof
end

