-- ==== Sys2Proof/Config.lean ====
section
/-! DEFINITION. What one part fixes and what the manual leaves open: constants without a body, so that no proof can see a
value of theirs and every claim holds whatever they are. -/
namespace Sys2Proof.Config

/-- Fresh values for what the manual leaves open, applied to the counter `State.freeCtr` (log entry 5). -/
opaque freeByte : Nat → Byte
opaque freeW32 : Nat → W32
opaque freeW64 : Nat → W64

/-- The order of the bytes of a register unit in its image in a save frame: which byte of the unit's registers stands at a place
(Table 03.7 gives the image's place and size). -/
opaque regOrder : Nat → Nat

/-- A byte of HBM that nothing has written since the memory keys were drawn (R168, R452): by key generation and address. -/
opaque hbmByte : Nat → Nat → Byte

/-- EP_SERIAL and ETH_MAC_BASE, held in fuses (R18, R326, R412). -/
opaque serial : W64
opaque macBase : BitVec 48

/-- SEC_DEBUG_NONCE: the n-th value of the root of trust's random generator (R18, R459). -/
opaque debugNonce : Nat → W64

/-- The SHA-384 of the root-of-trust ROM (R441) and the debug policy fuses measured with it. -/
opaque romDigest : BitVec 384
opaque policyFuses : Byte


/-- The firmware versions that the Inventory reports (R313). -/
opaque rotVersion : W32
opaque fwVersion : List Byte → W32

/-- Does an ECDSA P-384 or an ML-DSA-87 signature verify: public key, message, signature (R414, R442, R438, R459)? -/
opaque ecdsaOk : List Byte → List Byte → List Byte → Bool
opaque mldsaOk : List Byte → List Byte → List Byte → Bool

/-- Stabor's firmware keys in the ROM (Table 15.2), and the split of a firmware image: its security version number. -/
opaque fwKeyEc : List Byte
opaque fwKeyMl : List Byte
opaque fwSvn : List Byte → Nat

/-- AES-256-GCM opening: key, nonce, additional data, ciphertext with tag; `none` when the tag fails. Sealing: ciphertext and tag
(R449, R451, R453). -/
opaque gcmOpen : List Byte → List Byte → List Byte → List Byte → Option (List Byte)
opaque gcmSeal : List Byte → List Byte → List Byte → List Byte → List Byte
opaque gcmTag : List Byte → List Byte → List Byte → List Byte → BitVec 128

/-- The shared secrets of a model-key blob, from the partition's private keys of a generation: of the ML-KEM-1024 ciphertext and of the
owner's ephemeral ECDH P-384 key (R449). -/
opaque ssKem : Nat → List Byte → BitVec 256
opaque ssEcdh : Nat → List Byte → BitVec 384

/-- Z of a link: the agreement of the chip's own link agreement key, which the fused seed gives, with the neighbour's public key (R437,
R454). -/
opaque linkZ : List Byte → List Byte

/-- The Delay_Req of a PTP slave, by domain and sequence number: IEEE 1588-2019 gives its form (R397). -/
opaque ptpDelayReq : Nat → W16 → List Byte

/-- The spill key of a partition, by the generation of the memory keys it was drawn with (R453). -/
opaque spillKey : Nat → Nat → List Byte

/-- Public keys of a partition's key generation: ML-KEM-1024 (1,568 bytes) and ECDH P-384 (97 bytes) (R448). -/
opaque kemPub : Nat → Nat → BitVec 12544
opaque ecdhPub : Nat → Nat → BitVec 776

/-- Signatures over bytes of the alias keys that the fused seed gives with H0 and H1 (R437, R446), and the certificate chains that end
with those keys (Table 15.6). -/
opaque aliasEc : List Byte → List Byte → BitVec 768
opaque aliasMl : List Byte → List Byte → BitVec 37016
opaque certChain : List Byte → List Byte
opaque pqChain : List Byte → List Byte

/-- A message of a session, encrypted and authenticated: session, generation of its keys, number of the message, message (R444; its form
is not the manual's). -/
opaque secured : Nat → Nat → Nat → List Byte → List Byte

/-- The response of the SPDM responder to a message whose content SPDM 1.3 defines (R444): message code, arguments. -/
opaque spdmBody : Nat → List Byte → List Byte

/-- Results of SPF (R155 bounds their error, not their value) by FUNC and operand. -/
opaque spf : Nat → W32 → W32

/-- The order in which the additions of one accumulation are made (R86): which of `n` pending terms is taken next. -/
opaque addOrder : Nat → Nat → Nat

/-- The order in which the stochastic draws of one instruction are made (R68, R70): a rearrangement by draw index. -/
opaque drawOrder : Nat → Nat → Nat

/-- How a combining tree splits the additions of a floating-point atomic at a node (R109): by the atomic, its address, the node
and the number of terms. -/
opaque treeSplit : Nat → Nat → Nat → Nat → Nat

/-- The set of the memory-side cache in which a line of HBM stands (R218, log entry 10). -/
opaque mscSet : Nat → Nat

/-- The set of the second level of translation, by slice, that holds a leaf: by its tag, virtual address and size (R276, log entry
114). -/
opaque stlbSet : Nat → Nat → Nat → Nat

/-- The order in which the TAG of a directory entry holds the granule's address bits: bits with lower keys stand lower (Table 08.1, log
entry 112). -/
opaque tagOrder : Nat → Nat

/-- Stairway hop counts from chip to chip: a chip's Setting names only the first port of its own routes (R249, log entry 11). -/
opaque hopCount : Nat → Nat → Nat

/-- Length of a Loupe chain whose layout the manual does not give, and its words, by chip start, chain and offset (R501). -/
opaque chainLen : Nat → BitVec 24
opaque chainWord : Nat → Nat → Nat → W32

/-- Where the directory entries stand in the chain of an L2 slice. -/
opaque dirPlace : Nat → BitVec 24

end Sys2Proof.Config
end

