-- ==== Sys2Proof/Machine/SMap.lean ====
section
/-! DEFINITION. Sparse maps: a list of (key, value) pairs with strictly rising keys and no entry equal to what an unlisted
key reads as, so that equal maps are equal data. Registers, memory, cache ways, directory entries, queues and cores are held
in this form. -/
namespace Sys2Proof.Machine

/-- A sparse map from `Nat` to `α`; what an unlisted key reads as is given to each operation. -/
abbrev SMap (α : Type) := List (Nat × α)

/-- The value at a key. -/
def SMap.get {α : Type} (d : Nat → α) : SMap α → Nat → α
  | [], k => d k
  | (j, v) :: r, k => if k = j then v else SMap.get d r k

/-- Put an entry before the first with a greater key. -/
def SMap.put {α : Type} : SMap α → Nat → α → SMap α
  | [], k, v => [(k, v)]
  | (j, w) :: r, k, v => if k < j then (k, v) :: (j, w) :: r else (j, w) :: SMap.put r k v

/-- Take a key out. -/
def SMap.del {α : Type} : SMap α → Nat → SMap α
  | [], _ => []
  | (j, w) :: r, k => if k = j then SMap.del r k else (j, w) :: SMap.del r k

/-- Write a value, keeping the canonical form: a key that reads as if unlisted is not listed. -/
def SMap.set {α : Type} [DecidableEq α] (d : Nat → α) (m : SMap α) (k : Nat) (v : α) : SMap α :=
  if v = d k then m.del k else (m.del k).put k v

/-- Every listed key is above `b`, the keys rise strictly, and no entry equals what an unlisted key reads as. -/
def SMap.wfFrom {α : Type} [DecidableEq α] (d : Nat → α) : Option Nat → SMap α → Bool
  | _, [] => true
  | b, (k, v) :: r => (match b with | none => true | some j => decide (j < k)) && decide (v ≠ d k) && SMap.wfFrom d (some k) r

/-- The canonical form of a sparse map. -/
def SMap.wf {α : Type} [DecidableEq α] (d : Nat → α) (m : SMap α) : Bool := SMap.wfFrom d none m

end Sys2Proof.Machine
end

