-- ==== Sys2Proof/Machine/TypesCore.lean ====
section
/-! DEFINITION. The state of the cores: groups, paths, teams, barriers, requests to memory, the store queue, the merging
buffer, the transfer engine and the cache tags ("Cores, teams and thread groups", "Memory ordering and visibility",
"Caches and the Gallery"). -/
namespace Sys2Proof.Machine

/-- Region types of Table 06.1, in the encoding of TYPE in Table 09.2. -/
inductive MType where
  | wb | wt | streaming | wtm | device
  deriving DecidableEq, Repr

/-- Where a physical address leads (R266, Table 09.1). -/
inductive Tgt where
  /-- Coherent HBM or Gallery: home chip and canonical local address. -/
  | coh (chip : Nat) (loc : Nat)
  /-- Host memory through CXL.cache, or through CXL.io while Cache_Enable is 0 (R508). -/
  | host (addr : Nat)
  /-- A remote window: receiving chip, window, offset (R293). -/
  | window (chip win off : Nat)
  /-- The register image: BAR0 offset. -/
  | reg (off : Nat)
  /-- An error response. -/
  | err
  deriving DecidableEq, Repr

/-- An entry of a reconvergence stack: RECONV or PENDING (R95, R96). -/
structure PathEnt where
  recon : Bool
  pc    : W64
  mask  : W32
  deriving DecidableEq, Repr

/-- Why a group does not issue (R92). -/
inductive Hold where
  /-- Ready. -/
  | none
  /-- The instruction waits for the translations with these numbers and issues again after them. -/
  | xlate (ids : List Nat)
  /-- FENCE: waits for the loads and the buffered stores with these numbers (R176, R177). -/
  | fence (loads stores : List Nat)
  /-- XWAIT: until at most `n` of the group's transfers are outstanding (R161). -/
  | xwait (n : Nat)
  /-- LWAIT on a Flight entry; the outcome goes to register `dst` of the lanes in `mask` (R162). -/
  | lwait (idx : Nat) (dst : Nat) (mask : W32)
  /-- TBR.WAIT on a barrier (R111). -/
  | tbr (id : Nat)
  /-- A release, an arrival or a store that has not executed: it waits for the buffered stores and the requests with these numbers
  and issues again after them (R114, R173, R180, R190). -/
  | after (ids : List Nat)
  deriving DecidableEq, Repr

/-- A group: its paths, registers and waits (R95 to R98, Table 00.9, R120). -/
structure Group where
  team  : Nat
  gidx  : Nat
  live  : W32
  act   : W32
  pc    : W64
  stack : List PathEnt
  bb    : Nat
  x     : SMap W32
  u     : SMap W32
  p     : SMap W32
  hold  : Hold
  gstat : W32
  xseq  : Nat
  deriving DecidableEq, Repr

/-- States of a team (CORE_TEAM_STATE.STATE). -/
inductive TeamSt where
  | placing | running | stopping | saving | preempted | restoring
  deriving DecidableEq, Repr

/-- A barrier of a team: its phase, the expected count (`none`: "all") and the groups that have arrived (R111). -/
structure Barrier where
  active   : Bool
  expect   : Option Nat
  arrivals : List Nat
  deriving DecidableEq, Repr

/-- A team in a team slot (R101, R111, R120). -/
structure Team where
  st     : TeamSt
  cls    : Nat
  tag    : Nat
  part   : Nat
  priv   : Bool
  g      : Nat
  r      : Nat
  l      : Nat
  q      : Nat
  seq    : Nat
  tx     : Nat
  ty     : Nat
  tz     : Nat
  units  : List Nat
  lunits : List Nat
  bars   : SMap Barrier
  /-- The groups in the order of their latest arrivals, the last to arrive first (R113). -/
  arrs   : List Nat
  loc    : SMap Byte
  saved  : List Group
  /-- The group slots of the saved groups, which name the places of their records in the frame (Table 03.7). -/
  gslots : List Nat
  err    : Bool
  errMask : W32
  errAddr : W64
  errPc  : W64
  errG   : Nat
  /-- Preempted by firmware for a Class 0 command, to be resumed when that releases the core (R348). -/
  lent   : Bool
  deriving DecidableEq, Repr

/-- The operations of atomics (AOP of Table 05.4). -/
inductive AOp where
  | add | fadd | smin | smax | umin | umax | and | or | xor | xchg | cas
  deriving DecidableEq, Repr

/-- One access of a lane of a request to memory: `n` bytes that stand at offset `off` of the lane's value. -/
structure LaneAcc where
  lane : Nat
  off  : Nat
  n    : Nat
  va   : W64
  tgt  : Tgt
  ty   : MType
  b    : Nat
  c    : Nat
  deriving DecidableEq, Repr

/-- What an outstanding request returns (R167, R508, R135). -/
inductive ReqKind where
  /-- Load of `size` bytes, sign-extended or not. -/
  | ld (size : Nat) (sx : Bool)
  /-- Atomic; `ret` says whether the old value is written. -/
  | rmw (op : AOp) (w64 ret : Bool)
  /-- Fragment load: its words, the descriptor, first row, K offset, and the tag bits of each row as they were read. -/
  | mld (enc : Enc) (desc : List Byte) (rw0 k0 : Nat) (tags : List Nat)
  deriving DecidableEq, Repr

/-- An outstanding load, atomic or fragment load of a group, which is named by its team slot and its index. -/
structure MemReq where
  id    : Nat
  team  : Nat
  gidx  : Nat
  pc    : W64
  kind  : ReqKind
  dst   : Nat
  cnt   : Nat
  acq   : Bool
  after : List Nat
  tag   : Nat
  lanes : List LaneAcc
  /-- Bytes that the store queue or the merging buffer supplied at issue (R177, R181), by physical address. -/
  fwd   : List (Nat × Byte)
  /-- Accesses that have been made, by their place in `lanes`: bytes, or an error. -/
  got   : List (Nat × Option (List Byte))
  /-- Combined compare-and-swaps through a window: by place, the old value that the message on its way expects (R108, R293). -/
  tries : List (Nat × Nat)
  deriving DecidableEq, Repr

/-- A byte of a buffered store: its offset in the 64-byte block and its value. -/
abbrev BlkByte := Nat × Byte

/-- An entry of the store queue: up to 64 bytes of one block (R177), with the group that wrote it, by team slot and index. `after`
holds the earlier Device-Strict accesses that a Device-Strict one waits for (R171). -/
structure StoreEnt where
  id    : Nat
  team  : Nat
  gidx  : Nat
  tag   : Nat
  part  : Nat
  ty    : MType
  tgt   : Tgt
  bytes : List BlkByte
  after : List Nat
  sent  : Bool
  q     : Nat
  seq   : Nat
  pc    : W64
  va    : W64
  mask  : W32
  deriving DecidableEq, Repr

/-- A group that has written into an entry of the merging buffer, by team slot and index, with the address of its last instruction that
did, and that one's address and lanes there. -/
structure MergeBy where
  team : Nat
  gidx : Nat
  pc   : W64
  va   : W64
  mask : W32
  deriving DecidableEq, Repr

/-- Team slot and index of the group. -/
def MergeBy.grp (m : MergeBy) : Nat × Nat := (m.team, m.gidx)

/-- An entry of the write-through merging buffer (R180). -/
structure MergeEnt where
  id     : Nat
  tag    : Nat
  part   : Nat
  tgt    : Tgt
  bytes  : SMap (Option Byte)
  grps   : List MergeBy
  closed : Bool
  sent   : Bool
  cmds   : List (Nat × Nat)
  deriving DecidableEq, Repr

/-- A transfer command in a core's engine (R161, R226, R227): source and destination, length, shape word and progress in
bytes; `after` holds the stores that its reads wait for (R178), `pend` its writes that are not acknowledged, each by the generation in which
it was translated, `gen` the present generation, which each withdrawal of its tag's translations ends (R287, R288), and `bad` is the
address at which it failed. -/
structure Xfer where
  id    : Nat
  team  : Nat
  gidx  : Nat
  seq   : Nat
  sl    : Bool
  dl    : Bool
  hint  : Nat
  src   : W64
  dst   : W64
  len   : Nat
  shape : W32
  done  : Nat
  after : List Nat
  pend  : List Nat
  gen   : Nat
  failed : Bool
  bad   : W64
  pc    : W64
  deriving DecidableEq, Repr

/-- A tag of an L1 or instruction cache (R199, R202); `line` is the address divided by 128, `asid` the context of an
instruction line. -/
structure L1Line where
  valid : Bool
  used  : Bool
  asid  : Nat
  line  : Nat
  deriving DecidableEq, Repr

/-- A fault chosen for recording (R116, R117). -/
structure FaultRec where
  team : Nat
  ctx  : Nat
  grp  : Nat
  code : Nat
  tag  : Nat
  pc   : W64
  mask : W32
  addr : W64
  q    : Nat
  seq  : Nat
  deriving DecidableEq, Repr

/-- Sleep states of a core (Table 16.2). -/
inductive Sleep where
  | active | idle | nap | off
  deriving DecidableEq, Repr

/-- What an instruction that waits in the middle of its work keeps: a number that names it, the value of FMT_GUARD_CTL at its issue
(R75), and the bytes that its reads of other memory than the L2's have brought, by virtual address. -/
structure Kept where
  id    : Nat
  team  : Nat
  gidx  : Nat
  gctl  : W64
  reads : List (Nat × List Byte)
  deriving DecidableEq, Repr

/-- A core (Table 03.1, R91). `groups` maps group slots, `teams` team slots. -/
structure Core where
  teams  : SMap (Option Team)
  groups : SMap (Option Group)
  ctxs   : List (Option Nat)
  reqs   : List MemReq
  sq     : List StoreEnt
  mb     : List MergeEnt
  xfers  : List Xfer
  kept   : List Kept
  /-- The group whose miss of the instruction cache is outstanding, by team slot and index (R199). -/
  imiss  : Option (Nat × Nat)
  nextId : Nat
  l1     : SMap L1Line
  ic     : SMap L1Line
  l1cnt  : SMap (Nat × Nat)
  sr     : W64
  fault  : Option FaultRec
  sleep  : Sleep
  waking : Bool
  /-- An entry into Nap waits for the drain of the buffered stores (R186, R464). -/
  draining : Bool
  /-- When the first instruction of a command's kernel issued here, by queue and SEQ (Table 11.7). -/
  began  : List (Nat × Nat × W64)
  deriving DecidableEq, Repr

end Sys2Proof.Machine
end

