-- ==== Sys2Proof/Machine/TypesMem.lean ====
section
/-! DEFINITION. The state of the caches, the home agent, the coherence of peers and the host, and address translation
("Caches and the Gallery", "Coherence and the home agent", "Address translation and faults"). -/
namespace Sys2Proof.Machine

/-- A 64-byte sector of an L2 line (R205, R243, R254): its state, poison and bytes. A sector of memory of this chip is
clean in S and dirty in M. -/
structure Sector where
  st     : Coh
  poison : Bool
  data   : List Byte
  deriving DecidableEq, Repr

/-- A way of an L2 set (R205 to R209, R236). `line` names the 128-byte line: chip number and canonical local address, or
host address, divided by 128. `keep`: the sectors whose refetch holds the way for the line (Table 07.7). `dup0`, `dup1`: the second
copies of the sectors' dirty bits; the first copies are the states. -/
structure L2Line where
  valid  : Bool
  host   : Bool
  line   : Nat
  age    : Nat
  fresh  : Bool
  lock   : Option Nat
  rows   : BitVec 16
  keep   : BitVec 2
  dup0   : Bool
  dup1   : Bool
  s0     : Sector
  s1     : Sector
  deriving DecidableEq, Repr

/-- A sector held by the memory-side cache (R216 to R218). -/
structure MscSec where
  dirty  : Bool
  poison : Bool
  data   : List Byte
  deriving DecidableEq, Repr

/-- A way of the memory-side cache (R216 to R218): an HBM line by its address divided by 128, its age, and the sectors it holds. -/
structure MscLine where
  line : Nat
  age  : Nat
  s0   : Option MscSec
  s1   : Option MscSec
  deriving DecidableEq, Repr

/-- The state in which a controller holds its HBM stack (R223, R225). -/
inductive HbmSt where
  | powerDown | on | selfRefresh
  deriving DecidableEq, Repr

/-- States of a directory entry (Table 08.1). -/
inductive DirSt where
  | free | s | m
  deriving DecidableEq, Repr

/-- A directory entry (Table 08.1): `gran` is the canonical local address of the granule; `ptrs` the peer holders while
CV is 0; `vec` the coarse vector. -/
structure DirEnt where
  gran : Nat
  age  : Nat
  st   : DirSt
  h    : Bool
  cv   : Bool
  ptrs : List Nat
  vec  : BitVec 16
  deriving DecidableEq, Repr

/-- Who asks the home for a line (R232). -/
inductive Rqr where
  | peer (span : Nat) (chip : Nat) (txn : Nat)
  | host (mv : Meta)
  | local_
  deriving DecidableEq, Repr

/-- What is asked of the home (Table 08.3). -/
inductive HOp where
  | rds | rdm | upg | wrf | wrp | wbm
  | hostRead | hostInv
  | memWr | memWrPtl
  | localRead | localWrite
  | evict
  /-- A read whose requester has become silent while others were awaited (R261). -/
  | discard
  deriving DecidableEq, Repr

/-- A request at a home slice (R233); `rsv` says that it took a reserved entry of the conflict queue. -/
structure HReq where
  gran   : Nat
  rq     : Rqr
  op     : HOp
  starve : Bool
  rsv    : Bool
  mask   : W64
  data   : List Byte
  poison : Bool
  deriving DecidableEq, Repr

/-- An answer that a transaction waits for (R245, R259). -/
inductive HWait where
  | invAck (span : Nat)
  | fwdAck (span : Nat)
  | rclData (span : Nat)
  | wbS (span : Nat)
  | biRsp
  | hostGrant
  deriving DecidableEq, Repr

/-- An open transaction of the home (R232, R245): the answers awaited, whether the grant has been sent and its Done has
arrived, whether the requester held S, whether a sharer serves it, and whether data was lost (R259). A granted transaction of a
local requester stays open until its access is applied. -/
structure HTxn where
  req     : HReq
  waits   : List HWait
  granted : Bool
  done    : Bool
  inX     : Bool
  fwd     : Bool
  lost    : Bool
  deriving DecidableEq, Repr

/-- Who waits for the acknowledgement of an uncached write: a store-queue or merging-buffer entry, a transfer of a core or of
a chip-level channel, or nobody. -/
inductive Who where
  | nobody
  /-- A completion record of a queue; the last entry of a batch of the fault ring that ends before record `n`, and an earlier one. -/
  | record (cq : Nat) (intr : Bool)
  | ring (n : Nat)
  | ringPart
  | store (core id : Nat)
  | merge (core id : Nat)
  /-- A write that came in through a window: the chip that waits, its transaction and its address. -/
  | win (chip txn addr : Nat)
  /-- A transfer of a core's engine or of a chip-level channel, with the generation of its translation. -/
  | xfer (core id gen : Nat)
  | chan (n gen : Nat)
  deriving DecidableEq, Repr

/-- A request that this chip has outstanding at a peer home (R234, R246): its granule by global address; for a read, the age
of the fill (`none`: no place in the L2) and the partition; for a write, its bytes. -/
structure PReq where
  gran    : Nat
  op      : HOp
  txn     : Nat
  retries : Nat
  waiting : Bool
  starve  : Bool
  age     : Option Nat
  part    : Nat
  data    : List Byte
  mask    : W64
  who     : Who
  deriving DecidableEq, Repr

/-- An entry of the write-back buffer (R247). -/
structure WbEnt where
  gran    : Nat
  data    : List Byte
  poison  : Bool
  txn     : Nat
  retries : Nat
  waiting : Bool
  starve  : Bool
  deriving DecidableEq, Repr

/-- A CXL.cache request of the L2 that the host has not answered (Table 08.6). -/
inductive HcOp where
  | rdShared | rdOwn | rdOwnNoData | woWrInvF | woWrInv | cleanEvictNoData | dirtyEvict | clflush
  deriving DecidableEq, Repr

/-- `lock`: the line is to be locked when the request is served (R228). -/
structure HcReq where
  addr : Nat
  op   : HcOp
  age  : Option Nat
  part : Nat
  data : List Byte
  mask : W64
  who  : Who
  lock : Bool
  deriving DecidableEq, Repr

/-- A bias flip in progress (R258): first page, pages, direction, and whether it has started: it waits for the open
transactions of its pages (Table 08.9). -/
structure BiasFlip where
  addr    : Nat
  pages   : Nat
  toHost  : Bool
  started : Bool
  deriving DecidableEq, Repr

/-- A context (R268). -/
structure Ctx where
  valid : Bool
  part  : Nat
  priv  : Bool
  root  : Nat
  deriving DecidableEq, Repr

/-- A leaf held by a translation buffer or the second level (R276). -/
structure Tlb where
  tag  : Nat
  va   : Nat
  size : Nat
  pa   : Nat
  w    : Bool
  ty   : MType
  used : Bool
  deriving DecidableEq, Repr

/-- Who waits for a translation: a group at its fetch or load/store engine, a transfer, a chip-level channel (R277). -/
inductive Stream where
  | group (core team gidx : Nat)
  | xfer (core id : Nat)
  | chan (n : Nat)
  deriving DecidableEq, Repr

/-- Where a request that missed stands. -/
inductive WalkSt where
  | walking
  | stalled (seq : Nat)
  | queueWait (kind level : Nat)
  | leaf (t : Tlb)
  | failed
  deriving DecidableEq, Repr

/-- A request that missed the buffers (R277 to R285). -/
structure WalkReq where
  id     : Nat
  stream : Stream
  buf    : Nat
  tag    : Nat
  part   : Nat
  va     : Nat
  mask   : W32
  write  : Bool
  fetch  : Bool
  cls    : Nat
  st     : WalkSt
  /-- Its result serves this request alone (R287). -/
  only   : Bool
  /-- It holds a walker, or shares the walk of one that does (R278). -/
  started : Bool
  /-- It has faulted, so that its fault-stall limit counts (R284). -/
  faulted : Bool
  deriving DecidableEq, Repr

/-- A fault record (Table 09.5). -/
structure FRec where
  seq     : Nat
  va      : Nat
  kind    : Nat
  level   : Nat
  tag     : Nat
  write   : Bool
  fetch   : Bool
  failed  : Bool
  ovf     : Bool
  ukind   : Nat
  unit    : Nat
  part    : Nat
  cls     : Nat
  joined  : Nat
  newel   : W64
  opn     : Bool
  written : Bool
  deriving DecidableEq, Repr

/-- A cached window entry (R296): its 16 bytes as they were read. -/
structure WinEnt where
  idx : Nat
  lo  : Nat
  hi  : Nat
  deriving DecidableEq, Repr

/-- Who made a read or an atomic that leaves the chip: an access of a request of a core, by its place, or a unit of the chip
that reads by address, or that fetches an image from a host physical address (by the number of its `Pull`). -/
inductive IoWho where
  | lane (core req i : Nat)
  /-- An instruction that waits, by the number of what it keeps. -/
  | kept (core id : Nat)
  | xfer (core id : Nat)
  | chan (n : Nat)
  | unit
  | raw (n : Nat)
  deriving DecidableEq, Repr

/-- The owner of a read for which nobody waits any more. -/
def IoWho.dead : IoWho := .kept 256 0

/-- An access that held a physical address from a translation when that was withdrawn (R287): a load, an atomic or a buffered store of a
core by number; the writes of a transfer up to a generation; a read or an atomic that has left the chip. -/
inductive OldAcc where
  | core (c id : Nat)
  | xfer (c id gen : Nat)
  | chan (n q seq gen : Nat)
  | io (tag addr : Nat) (w : IoWho)
  | win (txn chip : Nat) (w : IoWho)
  deriving DecidableEq, Repr

/-- What a translation channel is carrying out (R287 to R291). -/
inductive XltOp where
  | none
  | inval (all : Bool) (tag : Nat) (destroy : Bool) (olds : List OldAcc)
  /-- Create, a prefetch or advise, as the command's registers name it: of a prefetch the pages done, and how many of them were
  skipped. -/
  | run (pages skipped : Nat)
  deriving DecidableEq, Repr

/-- A window access that this chip has sent (R293): a read or an atomic of `owner` with its answer once it has come (bytes with
poison, or `none` for an error response), or a write of `who`. -/
structure WinAcc where
  txn   : Nat
  chip  : Nat
  addr  : Nat
  len   : Nat
  wr    : Bool
  owner : IoWho
  who   : Who
  ans   : Option (Option (List Byte × Bool))
  deriving DecidableEq, Repr

end Sys2Proof.Machine
end

