-- ==== Sys2Proof/Machine/TypesIo.lean ====
section
/-! DEFINITION. The state of the always-on domain, the logs, the endpoint, the queues, the tier manager, the Stairway and
Ethernet ports, Newel and the Flights, the Setting and Clasp, the root of trust and the governor. -/
namespace Sys2Proof.Machine

/-- Device states of Table 17.1, as the sideband reports them (Table 17.14). -/
inductive DevSt where
  | vestibule | service | stopped | frozen
  deriving DecidableEq, Repr

/-- JTAG instructions of Table 17.13. -/
inductive JInstr where
  | extest | idcode | sample | clamp | loupeSel | loupeRead | loupeFreeze | bypass
  deriving DecidableEq, Repr

/-- The always-on domain: pins, latches, Newel, the JTAG TAP and fuses (R28, R35 to R38, R393, R438, R442, R476, R491,
R502). -/
structure Aon where
  /-- cold_rst_n is low. -/
  cold     : Bool
  /-- warm_rst_n is low, or a CXL Reset is in progress. -/
  warm     : Bool
  /-- The fast clocks run. -/
  fast     : Bool
  dev      : DevSt
  /-- vdd_aon is up. -/
  vdd      : Bool
  smbAddr  : BitVec 2
  /-- therm_trip_n is driven low. -/
  trip     : Bool
  /-- smb_alert_n is driven low. -/
  alert    : Bool
  /-- refclk_host is lost and the internal oscillator holds the always-on clock. -/
  osc      : Bool
  serdesOk : Bool
  /-- Always-on latch of the causes of a stop: coolant, thermal trip, rail (PWR_STOP_CAUSE). -/
  stopLatch : BitVec 3
  /-- Always-on latch of the first Fatal error: code, unit kind, unit. -/
  fatalLatch : Option (Nat × Nat × Nat)
  newel    : W64
  jir      : JInstr
  selChain : W16
  selOff   : W32
  jpins    : List Bool
  tdo      : List Bool
  owners   : List (List Byte)
  fuseSvn  : Nat
  nonceCtr : Nat
  eid      : Byte
  deriving DecidableEq, Repr

/-- An error-log entry (Table 17.9). -/
structure ErrEnt where
  newel : W64
  addr  : Nat
  code  : Nat
  cls   : Nat
  nested : Bool
  esc   : Bool
  opn   : Bool
  pinned : Bool
  fence : Bool
  part  : Option Nat
  ukind : Nat
  unit  : Nat
  info  : Nat
  seq   : Nat
  deriving DecidableEq, Repr

/-- A violation-log entry (Table 17.10). -/
structure VEnt where
  newel  : W64
  data   : W64
  off    : Nat
  size   : Nat
  reason : Nat
  agent  : Agent
  seq    : Nat
  deriving DecidableEq, Repr

/-- Holding words of an agent for 32-bit accesses to 64-bit registers (R17): the register and the word. -/
structure HoldWord where
  rd : Option (Nat × W32)
  wr : Option (Nat × W32)
  deriving DecidableEq, Repr

/-- States of the endpoint (Table 10.9). -/
inductive ContSt where
  | normal | frozen | releasing
  deriving DecidableEq, Repr

/-- An outstanding CXL.io non-posted request (R317), with its answer once it has one: bytes, or an error response. -/
structure IoTag where
  tag   : Nat
  addr  : Nat
  len   : Nat
  owner : IoWho
  ans   : Option (Option (List Byte × Bool))
  deriving DecidableEq, Repr

/-- Messages that leave the block on the host link. -/
inductive HostMsg where
  | cfgRsp (v : W32) | cfgUr
  | cpl (data : List Byte) (poison : Bool) | cplAbort | cplUr
  | regRsp (v : W64) | regErr
  | memRd (tag addr len : Nat) | memWr (addr : Nat) (data : List Byte)
  | msi (vec : Nat) (addr : W64) (data : W32)
  | ndr (addr : Nat) (k : Nat)
  | drs (addr : Nat) (data : List Byte) (poison : Bool)
  | bisnp (addr : Nat) (k : Nat)
  | d2hReq (addr : Nat) (op : HcOp) (data : List Byte)
  | d2hRsp (addr : Nat) (k : Nat) (data : List Byte)
  | doe (data : List Byte)
  deriving DecidableEq, Repr

/-- A held outbound request (R320, R321); `bad` says that it has been poisoned. -/
structure Held where
  msg  : HostMsg
  who  : Who
  bad  : Bool
  deriving DecidableEq, Repr

/-- The DOE mailbox: double words written of a request and not yet sent, those of the answer not yet read, and the Busy and Error bits of its
Status register (R300, R308). -/
structure DoeBox where
  wr   : List W32
  rd   : List W32
  busy : Bool
  err  : Bool
  deriving DecidableEq, Repr

/-- The endpoint (R299 to R325). `failed`: the UCIe modules that have failed since the host trained the link (R318). `cfg` and `comp`
hold the writable words of configuration space and of the component registers as they differ from reset; `inv` is the Inventory table as
it was last written, with its generation. -/
structure Endpoint where
  cfg     : SMap W32
  msix    : SMap W32
  comp    : SMap W32
  linkUp  : Bool
  modules : BitVec 4
  failed  : BitVec 4
  retrain : Bool
  cont    : ContSt
  hold    : List Held
  tags    : List IoTag
  ideSec  : BitVec 2
  ideKeys : BitVec 2
  cdatSeq : W32
  invGen  : W32
  inv     : List Byte
  doe     : DoeBox
  tx      : List HostMsg
  deriving DecidableEq, Repr

/-- States of a submission queue (SQ_CMD_STATUS.QSTATE). -/
inductive QSt where
  | disabled | enabled | error | drained
  deriving DecidableEq, Repr

/-- States of a command taken from a queue (R336, R342). -/
inductive CmdSt where
  | fetched
  | waitLanding
  | running
  | done
  deriving DecidableEq, Repr

/-- A descriptor accepted by a queue and the command it asks for. `blk` is the launch block of the kernel that runs (Table
11.3), `args` its launch values from u0 on, `inlen` the input length of a MODEL command that has been taken up, `db` is when its doorbell came and `ref` when its start
bound began (Table 11.7), `landed` that its Landing has fired, `lastW` when its last data write was performed (R341), `refetched` how often it was re-fetched, `aged` says that BG_AGE has passed (R346), `begun` that its work has been handed
out (the launched layer of a MODEL command), `stepAt` when the step began, `longest` the longest step so far in ns and `bound`
the certified bound (zero: none), `missed` that a bound of the promise was exceeded (R350), `seen` the cores on which a team of the
kernel that runs has been placed (R200). -/
structure Cmd where
  seq     : Nat
  desc    : List Byte
  blk     : List Byte
  args    : List W32
  inlen   : Option Nat
  aged    : Bool
  begun   : Bool
  stepAt  : W64
  longest : Nat
  bound   : Nat
  missed  : Bool
  st      : CmdSt
  refetched : Nat
  db      : W64
  ref     : W64
  landed  : Bool
  lastW   : Option W64
  class0  : Bool
  voided  : Nat
  placed  : Nat
  total   : Nat
  step    : Nat
  layer   : Nat
  pub     : Bool
  status  : Nat
  detail  : Nat
  steps   : Nat
  cancel  : Bool
  cores   : List Nat
  seen    : List Nat
  deriving DecidableEq, Repr

/-- A submission queue (R327, R338). Of the descriptor at HEAD: `half`, its first half once that has come with a matching SEQ; `miss`, the
re-fetches issued since the first read mismatched; `ret`, how many of them have returned (R339). -/
structure Sq where
  st    : QSt
  part  : Nat
  cls   : Nat
  tag   : Nat
  cq    : Nat
  base  : Nat
  log2  : Nat
  head  : W32
  tail  : W32
  host  : Bool
  half  : Option (List Byte)
  miss  : Option Nat
  ret   : Nat
  cmds  : List Cmd
  drain : Bool
  dbs   : List (W32 × W64)
  deriving DecidableEq, Repr

/-- A completion record whose command has ended (R341 to R344). -/
structure CqRec where
  sq    : Nat
  seq   : Nat
  user  : W64
  status : Nat
  detail : Nat
  steps : Nat
  flags : Nat
  void  : Nat
  elapsed : Nat
  intr  : Bool
  /-- When the command ended. -/
  fin   : W64
  deriving DecidableEq, Repr

/-- A completion queue (R343 to R345). -/
structure Cq where
  en    : Bool
  part  : Nat
  base  : Nat
  log2  : Nat
  seq   : W32
  cons  : W32
  vec   : Nat
  coalN : Nat
  coalT : Nat
  unsig : Nat
  recs  : List CqRec
  deriving DecidableEq, Repr

/-- A certification (R352). -/
structure Cert where
  part   : Nat
  cores  : Nat
  points : List (Nat × Nat)
  deriving DecidableEq, Repr

/-- Residency states (Table 12.4). -/
inductive Res where
  | home | gallery | locked | changing
  deriving DecidableEq, Repr

/-- A layer of an image: its launch block, with the image's base added to ENTRY (R359), and its weight segment. -/
structure Seg where
  blk  : List Byte
  sofs : Nat
  slen : Nat
  deriving DecidableEq, Repr

/-- A registered image (R359, Table 12.1). -/
structure Image where
  part   : Nat
  home   : Nat
  res    : Res
  /-- The state from which a reside that runs started (Table 12.4). -/
  was    : Res
  lost   : Bool
  layers : Nat
  wfmt   : Nat
  kvb    : Nat
  outb   : Nat
  window : Nat
  maxctx : Nat
  ilen   : Nat
  table  : Nat
  inb    : Nat
  digest : List Byte
  va     : Nat
  segs   : List Seg
  deriving DecidableEq, Repr

/-- A stream (R365, R366). -/
structure TStream where
  image  : Nat
  part   : Nat
  maxpos : Nat
  pos    : Nat
  broken : Bool
  va     : Nat
  deriving DecidableEq, Repr

/-- What a page belongs to (R368): home copy of an image, its tier-0 copy, or a stream page with its layer. -/
inductive POwner where
  | image (id : Nat)
  | copy (id : Nat)
  | stream (id : Nat) (layer : Nat)
  | input (id : Nat)
  deriving DecidableEq, Repr

/-- A 64 KiB page of the tier manager (R358, R369, R370). `phys` is its local address, `pool` says whose count it uses, `c0`
that it uses the reserved Gallery quota (R368); `nonce` and `tag` belong to a page in tier 2 (R453). -/
structure Page where
  owner  : POwner
  idx    : Nat
  part   : Nat
  tier   : Nat
  pool   : Bool
  age    : W64
  c0     : Bool
  pinned : Bool
  phys   : Nat
  lost   : Bool
  nonce  : List Byte
  tag    : List Byte
  deriving DecidableEq, Repr

/-- A move of a page in progress (R358): the place that waits for it, whose count that place uses, and the entry of a prefetch
Flight that it belongs to: queue, SEQ and global layer (R371). -/
structure Move where
  owner : POwner
  idx   : Nat
  toT   : Nat
  part  : Nat
  phys  : Nat
  pool  : Bool
  c0    : Bool
  cmd   : Option (Nat × Nat × Nat)
  deriving DecidableEq, Repr

/-- A sector of a weight segment that the entry of a prefetch Flight has still to read into the L2: queue, SEQ and global layer of the
entry, image and byte offset (R371). -/
structure Bring where
  q   : Nat
  seq : Nat
  ent : Nat
  img : Nat
  ofs : Nat
  deriving DecidableEq, Repr

/-- A catalogue fetch of a register command (R376, R409, R410): its endpoint entry, the bytes that have come by offset, how far
they have been asked for, how often each range of 64 KiB has been asked for again, the next request number and expected PSN, and the port. -/
structure Fetch where
  ch     : Nat
  roce   : Bool
  entry  : List Byte
  total  : Nat
  got    : SMap (Option Byte)
  asked  : Nat
  tries  : SMap Nat
  reqNo  : Nat
  psn    : Nat
  port   : Nat
  deriving DecidableEq, Repr

/-- States of a Stairway port (Table 13.1). -/
inductive PortSt where
  | down | train | ident | key | up | contained | disabled
  deriving DecidableEq, Repr

/-- A message that a flit carries: link-local, or routed (Table 13.5). -/
inductive LinkMsg where
  | ack (seq : BitVec 12) | nak (seq : BitVec 12) | credit (vc n : Nat) | routed (m : Msg)
  deriving DecidableEq, Repr

/-- A flit held in the replay buffer, with the key epoch it belongs to (R385, R388); `ks` marks a KEYSWITCH flit. -/
structure Flit where
  seq   : BitVec 12
  ks    : Bool
  epoch : W32
  msgs  : List LinkMsg
  deriving DecidableEq, Repr

/-- A Stairway port (R382 to R389): the tray that the neighbour has named, what the IDENT exchange has come to, the credits held per virtual channel, the next SEQ of
each direction, whether flits are discarded until a SEQ arrives, the SEQ of the last NAK received and how often in a row, flits
received since the last ACK, the replay buffer, messages that wait for credits, and the key epochs. `tx`: the flits that have left, as
their 256 bytes. -/
structure Port where
  st      : PortSt
  nTray   : Option W16
  heard   : Bool
  matched : Bool
  sentAck : Bool
  rxAck   : Bool
  credits : SMap Nat
  txSeq   : BitVec 12
  rxSeq   : BitVec 12
  naking  : Bool
  nakSeq  : BitVec 12
  nakCnt  : Nat
  unacked : Nat
  replay  : List Flit
  queue   : List Msg
  epoch   : W32
  rxEpoch : W32
  /-- Flits sent under the keys of this link (R385), and the stamp of the last TIME_REQ that left (R394). -/
  txCnt   : W64
  t1      : Option W64
  /-- NEWEL of the first IDENT with ACKED sent and received; the pseudo-random key and the info, without the epoch, from which the keys of
  the sending direction follow (R454). -/
  ownN    : Option W64
  peerN   : Option W64
  prk     : List Byte
  info    : List Byte
  tx      : List (List Byte)
  deriving DecidableEq, Repr

/-- States of a span member (STW_SPAN_STATE). -/
inductive SpanSt where
  | none | active | silent | left
  deriving DecidableEq, Repr

/-- The PTP slave (R397): the two-step Sync whose Follow_Up has not come with its arrival, the departure and arrival of the last whole
Sync, the Delay_Req in progress with its departure, and the sequence number of the next. -/
structure PtpSlave where
  sync : Option (W16 × W64)
  pair : Option (W64 × W64)
  dreq : Option (W16 × W64)
  next : W16
  deriving DecidableEq, Repr

/-- Newel's servo (R393 to R395): the rate's correction in ppm, what it has made of a nanosecond so far in millionths, good exchanges in a row, the
port on which an exchange is in progress, and the PTP slave. -/
structure Servo where
  rate : Int
  frac : Int
  good : Nat
  pend : Option Nat
  ptp  : PtpSlave
  deriving DecidableEq, Repr

/-- States of a Landing entry (Table 13.6). -/
inductive LSt where
  | empty | armed | fired | cancelled
  deriving DecidableEq, Repr

/-- A Landing entry (Table 13.6). -/
structure Landing where
  time0  : W64
  time   : W64
  jseq   : W32
  job    : Nat
  slot   : Nat
  period : Nat
  work   : Nat
  slip   : Nat
  gen    : Nat
  st     : LSt
  late   : Bool
  /-- When it last fired (R349), and how often since it was armed (R405). -/
  firedAt : W64
  fires   : Nat
  deriving DecidableEq, Repr

/-- A Slip notice kept for a job (R404). -/
structure SlipNote where
  job : Nat
  s   : W32
  d   : Nat
  deriving DecidableEq, Repr

/-- An Ethernet port (R407). -/
structure EthPort where
  link : Bool
  tx   : List (List Byte)
  deriving DecidableEq, Repr

/-- A record of a Setting (R415). -/
structure SRec where
  key : Nat
  idx : Nat
  val : List Byte
  deriving DecidableEq, Repr

/-- An image that is being fetched from a host physical address in CXL.io reads (R419, R424): what has come so far, and
whether a read has failed. -/
structure Pull where
  addr : Nat
  len  : Nat
  buf  : List Byte
  bad  : Bool
  deriving DecidableEq, Repr

/-- States of a Clasp transaction (Table 14.5). -/
inductive ClaspSt where
  | idle | opn | pending
  deriving DecidableEq, Repr

/-- A Clasp transaction (R422 to R429): the staging set, the digests of the deltas and the RWT staging copies by register
offset, with the mask of the bits that were written. -/
structure Clasp where
  st      : ClaspSt
  id      : Nat
  owner   : Agent
  staged  : List SRec
  deltas  : List (List Byte)
  rwt     : SMap (W64 × W64)
  land    : Option (Nat × Nat)
  busy    : Bool
  deriving DecidableEq, Repr

/-- An event of the Hallmark's log (Table 15.4). -/
structure HEvent where
  ty     : Nat
  reg    : Nat
  index  : Nat
  newel  : W64
  digest : List Byte
  seq    : Nat
  deriving DecidableEq, Repr

/-- An SPDM session (R444), with the number of messages sent under its keys. -/
structure Session where
  id        : W32
  transport : Transport
  keyGen    : Nat
  sent      : Nat
  deriving DecidableEq, Repr

/-- Keys of a partition (R448, R450, R452, R453). -/
structure PKeys where
  defd   : Bool
  epoch  : Nat
  keyGen : Nat
  spill  : Nat
  slots  : SMap (List Byte)
  deriving DecidableEq, Repr

/-- The root of trust (R436 to R459). -/
structure Rot where
  hm      : SMap (List Byte)
  log     : List HEvent
  hmSeq   : Nat
  sess    : List Session
  nextSess : Nat
  neg     : SMap Bool
  keys    : SMap PKeys
  memGen  : Nat
  fw      : Option (List Byte × Nat)
  /-- An image was refused and no firmware runs: the control cores are held (R442). -/
  refused : Bool
  /-- H0 and H1 when firmware first started: what the alias keys are derived from (R437). -/
  alias_  : Option (List Byte)
  smbTx   : List (List Byte)
  deriving DecidableEq, Repr

/-- The power controls (R462 to R474): thermal steps of the sensors, ceilings in MHz, lever positions in per cent. -/
structure Power where
  steps   : SMap Nat
  temps   : SMap Int
  gov     : SMap Nat
  fastLim : SMap Nat
  /-- The lowered clock of R406, by 65,536 × partition + job. -/
  slipClk : SMap Nat
  fabGov  : Nat
  galGov  : Nat
  linkPct : Nat
  hbmPct  : Nat
  hbmHot  : BitVec 8
  hbmT    : SMap Nat
  noFloor : BitVec 16
  okFor   : Nat
  sinceWd : Nat
  droop   : SMap Bool
  droops  : Nat
  telemN  : Nat
  sample  : PowerSample
  deriving DecidableEq, Repr

end Sys2Proof.Machine
end

