-- ==== Sys2Proof/Machine/State.lean ====
section
/-! DEFINITION. The state of the PL14 and its value at reset, and the reasons a command can stop. -/
namespace Sys2Proof.Machine

/-- Reasons to stop with a fault. No command of this model raises one: every event of the manual has an effect on the
state, and a core's own faults are effects (R115). -/
inductive Fault where
  /-- Raised by no command; safe. -/
  | outsideManual
  deriving DecidableEq, Repr

/-- Reasons to refuse a command. -/
inductive Refusal where
  /-- Raised by an arm of `exec` whose command has no meaning yet; safe. -/
  | notModelled (mnemonic : String)
  deriving DecidableEq, Repr

/-- The state of the block. -/
structure State where
  /-- The always-on domain. -/
  aon      : Aon
  /-- The fields of the registers of BAR0, by offset of the register. -/
  regs     : SMap W64
  /-- Holding words of R17, per agent. -/
  holdHost : HoldWord
  holdFw   : HoldWord
  /-- The error log and the violation log (R494, R497), by index, with the next sequence numbers. -/
  errs     : SMap (Option ErrEnt)
  errSeq   : W32
  vlog     : SMap (Option VEnt)
  vSeq     : W32
  /-- The cores. -/
  cores    : SMap Core
  /-- Bytes of HBM and Gallery by canonical local address (R192, R194). -/
  mem      : List Host.Cell
  /-- Poison bits of Gallery sectors and the HBM poison tables, by sector address (R220, R224). -/
  gpoison  : SMap Bool
  hpoison  : SMap Bool
  /-- Generation of the HBM contents and keys (R452). -/
  hbmGen   : Nat
  /-- States of the HBM stacks (R223, R225). -/
  hbmSt    : SMap HbmSt
  /-- The L2 by slice, set and way; the memory-side cache by set and way. -/
  l2       : SMap L2Line
  msc      : SMap MscLine
  /-- How many lines of its range the preload of a maintenance channel has acted on (R212). -/
  mntPos   : SMap Nat
  /-- Home agent: directory by slice, set and way; open transactions; conflict queue (R232, R233, R238). -/
  dir      : SMap DirEnt
  txns     : List HTxn
  conflict : List HReq
  /-- As a peer: requests outstanding, write-back buffer, granules in their minimum hold, messages that wait for it. -/
  preqs    : List PReq
  wbuf     : List WbEnt
  inHold   : List Nat
  delayed  : List Msg
  /-- Sectors that arrived for a requester without a place in the L2 (R206, R228): address, state, poison, bytes. -/
  rbuf     : List (Nat × Sector)
  nextTxn  : Nat
  /-- Inv messages sent after late answers, by granule and member (R260); BIConflicts that wait for their answer (R253). -/
  lateInv  : List (Nat × Nat)
  biConf   : List Nat
  /-- CXL.cache requests outstanding (R254), the bias flip in progress (R258), walks of R261 (`none`: the host). -/
  hcReqs   : List HcReq
  flip     : Option BiasFlip
  purges   : List (Option Nat)
  /-- Translation (R268, R276 to R296). -/
  ctxs     : SMap Ctx
  tlbs     : SMap (List Tlb)
  stlb     : List Tlb
  walks    : List WalkReq
  nextWalk : Nat
  frecs    : List FRec
  fseq     : W32
  xops     : SMap XltOp
  wins     : List WinEnt
  /-- The inbound writes that the refresh in progress awaits: those that used the copies it has dropped (R296). -/
  winOld   : List Who
  winOut   : List WinAcc
  ep       : Endpoint
  /-- What the host has sent and the endpoint has not yet taken up, in order: it waits for a retrain or for what came before (R306, R318). -/
  inWait   : List Instr
  /-- Queues, commands and certifications (R327, R352). -/
  sqs      : SMap Sq
  cqs      : SMap Cq
  certs    : SMap (Option Cert)
  /-- The queue whose turn came last, by partition and class (R346). -/
  turns    : SMap Nat
  chanXf   : SMap (Option Xfer)
  /-- The tier manager (R357 to R376). -/
  imgs     : SMap (Option Image)
  streams  : SMap (Option TStream)
  pages    : List Page
  moves    : List Move
  /-- Sectors that entries of prefetch Flights have still to read (R371). -/
  brings   : List Bring
  /-- Pages whose promotion WILLNEED has asked for and that have still to go up (R375). -/
  advised  : List (POwner × Nat)
  fetches  : List Fetch
  /-- When the queue pair of a TIER channel last sent a CNP (R410). -/
  cnps     : SMap (Option W64)
  /-- Stairway (R379 to R392). -/
  ports    : SMap Port
  inbox    : List (Nat × Msg)
  left     : List Nat
  leaves   : List (Nat × Nat)
  joined   : List Nat
  servo    : Servo
  /-- Flights by partition and index (256 × p + i), Slip notices kept, ends of the open Gallery slots by partition. -/
  flights  : SMap Landing
  notes    : List SlipNote
  slots    : SMap W64
  /-- Nominal work since the last firing, in MHz × ns, by 65,536 × partition + job (R403). -/
  jobWork  : SMap (Option Nat)
  eth      : SMap EthPort
  /-- The Setting in force, its digests, the Setting store, and the images being fetched: 0 a Setting, 1 a delta, 2 and 3 those of
  the security channels (R413 to R433). -/
  setting  : List SRec
  effDig   : List Byte
  loadDig  : List Byte
  store    : List Byte
  pulls    : SMap (Option Pull)
  clasp    : Clasp
  rot      : Rot
  pwr      : Power
  /-- The model's own field: how many free values have been taken (log entry 5). -/
  freeCtr  : Nat
  /-- Commands that wait, the front first. -/
  pending  : List Instr
  deriving DecidableEq, Repr

/-- An empty team-less group of registers, used where a slot holds none. -/
def Barrier.empty : Barrier := ⟨false, none, []⟩

def L1Line.empty : L1Line := ⟨false, false, 0, 0⟩

/-- The generator's state for seed zero (R68). -/
def srZero : W64 := 0x9E3779B97F4A7C15#64

/-- A core that holds nothing; without a Setting it stays in Off (R463). -/
def Core.empty : Core :=
  { teams := [], groups := [], ctxs := [none, none, none, none], reqs := [], sq := [], mb := [], xfers := [], kept := [], imiss := none, nextId := 0,
    l1 := [], ic := [], l1cnt := [], sr := srZero, fault := none, sleep := .off, waking := false, draining := false, began := [] }

def Sector.empty : Sector := ⟨.i, false, []⟩

/-- A way with no line: invalid, with age 3 (R210). -/
def L2Line.empty : L2Line := ⟨false, false, 0, 3, false, none, 0, 0, false, false, Sector.empty, Sector.empty⟩

def MscLine.empty : MscLine := ⟨0, 0, none, none⟩

def DirEnt.empty : DirEnt := ⟨0, 0, .free, false, false, [], 0⟩

def Ctx.empty : Ctx := ⟨false, 0, false, 0⟩

def Sq.empty : Sq :=
  { st := .disabled, part := 0, cls := 0, tag := 0, cq := 0, base := 0, log2 := 0, head := 0, tail := 0, host := false,
    half := none, miss := none, ret := 0, cmds := [], drain := false, dbs := [] }

def Cq.empty : Cq :=
  { en := false, part := 0, base := 0, log2 := 0, seq := 0, cons := 0, vec := 0, coalN := 0, coalT := 0, unsig := 0, recs := [] }

/-- A Stairway port after cold reset (Table 13.1), with no credits. -/
def Port.empty : Port :=
  { st := .down, nTray := none, heard := false, matched := false, sentAck := false, rxAck := false, credits := [], txSeq := 0,
    rxSeq := 0, naking := false, nakSeq := 0, nakCnt := 0, unacked := 0, replay := [], queue := [], epoch := 0, rxEpoch := 0,
    txCnt := 0, t1 := none, ownN := none, peerN := none, prk := [], info := [], tx := [] }

def Landing.empty : Landing := ⟨0, 0, 0, 0, 0, 0, 0, 0, 0, .empty, false, 0, 0⟩

def EthPort.empty : EthPort := ⟨false, []⟩

/-- 48 zero bytes: a Hallmark register at cold reset (R440). -/
def zeros48 : List Byte := List.replicate 48 0

def PKeys.empty : PKeys := ⟨false, 0, 0, 0, []⟩

def Clasp.empty : Clasp :=
  { st := .idle, id := 0, owner := .host, staged := [], deltas := [], rwt := [], land := none, busy := false }

def PowerSample.zero : PowerSample := ⟨0, 0, 0, 0, 0, 0, 0, 0, 0, 0, 0, 0⟩

/-- The governor at reset: every ceiling at its maximum (Table 16.1), every lever at 100 %. -/
def Power.empty : Power :=
  { steps := [], temps := [], gov := [], fastLim := [], slipClk := [], fabGov := 1600, galGov := 1000, linkPct := 100,
    hbmPct := 100, hbmHot := 0, hbmT := [], noFloor := 0, okFor := 0, sinceWd := 0, droop := [], droops := 0, telemN := 0,
    sample := PowerSample.zero }

def Endpoint.empty : Endpoint :=
  { cfg := [], msix := [], comp := [], linkUp := false, modules := 0, failed := 0, retrain := false, cont := .normal, hold := [],
    tags := [], ideSec := 0, ideKeys := 0, cdatSeq := 0, invGen := 0, inv := [], doe := ⟨[], [], false, false⟩, tx := [] }

def Rot.empty : Rot :=
  { hm := [], log := [], hmSeq := 0, sess := [], nextSess := 0, neg := [], keys := [], memGen := 0, fw := none, refused := false, alias_ := none, smbTx := [] }

def Servo.empty : Servo := ⟨0, 0, 0, none, ⟨none, none, none, 0⟩⟩

/-- The always-on domain in cold reset: cold_rst_n low, fast clocks off, IDCODE selected (R502), no owner fused and no
latch set (log entries 2 and 3). -/
def Aon.reset : Aon :=
  { cold := true, warm := false, fast := false, dev := .vestibule, vdd := true, smbAddr := 0, trip := false, alert := false,
    osc := false, serdesOk := true, stopLatch := 0, fatalLatch := none, newel := 0, jir := .idcode, selChain := 0, selOff := 0,
    jpins := [], tdo := [], owners := [], fuseSvn := 0, nonceCtr := 0, eid := 0 }

/-- The block right after reset: cold_rst_n has taken every field to the value that R18 gives, and is still low, so that
COLD_RESET_RELEASE and FAST_CLOCKS_START begin service (R483; log entry 1). -/
def State.reset : State :=
  { aon := Aon.reset, regs := [], holdHost := ⟨none, none⟩, holdFw := ⟨none, none⟩, errs := [], errSeq := 0, vlog := [],
    vSeq := 0, cores := [], mem := [], gpoison := [], hpoison := [], hbmGen := 0, hbmSt := [], l2 := [], msc := [], mntPos := [], dir := [], txns := [],
    conflict := [], preqs := [], wbuf := [], inHold := [], delayed := [], rbuf := [], nextTxn := 0,
    lateInv := [], biConf := [], hcReqs := [], flip := none,
    purges := [], ctxs := [], tlbs := [], stlb := [], walks := [], nextWalk := 0, frecs := [], fseq := 0, xops := [],
    wins := [], winOld := [], winOut := [], ep := Endpoint.empty, inWait := [], sqs := [], cqs := [], certs := [], turns := [], chanXf := [], imgs := [],
    streams := [], pages := [], moves := [], brings := [], advised := [], fetches := [], cnps := [], ports := [], inbox := [], left := [], leaves := [], joined := [],
    servo := Servo.empty, flights := [], notes := [], slots := [], jobWork := [], eth := [], setting := [], effDig := zeros48,
    loadDig := zeros48, store := [], pulls := [], clasp := Clasp.empty, rot := Rot.empty, pwr := Power.empty, freeCtr := 0,
    pending := [] }

end Sys2Proof.Machine
end

