-- ==== Sys2Proof/Machine/Digest.lean ====
section
/-! DEFINITION. SHA-384 with HMAC and HKDF over it, which the Hallmark, the Setting, the images and the keys use (R359, R417, R440, R449,
R454), and CRC-32 (R314, R383). -/
namespace Sys2Proof.Machine

/-! ### SHA-384 (FIPS 180-4) -/

/-- Round constants. -/
def shaK0 : List W64 :=
  [
    0x428A2F98D728AE22, 0x7137449123EF65CD, 0xB5C0FBCFEC4D3B2F, 0xE9B5DBA58189DBBC,
    0x3956C25BF348B538, 0x59F111F1B605D019, 0x923F82A4AF194F9B, 0xAB1C5ED5DA6D8118,
    0xD807AA98A3030242, 0x12835B0145706FBE, 0x243185BE4EE4B28C, 0x550C7DC3D5FFB4E2,
    0x72BE5D74F27B896F, 0x80DEB1FE3B1696B1, 0x9BDC06A725C71235, 0xC19BF174CF692694,
    0xE49B69C19EF14AD2, 0xEFBE4786384F25E3, 0x0FC19DC68B8CD5B5, 0x240CA1CC77AC9C65,
    0x2DE92C6F592B0275, 0x4A7484AA6EA6E483, 0x5CB0A9DCBD41FBD4, 0x76F988DA831153B5,
    0x983E5152EE66DFAB, 0xA831C66D2DB43210, 0xB00327C898FB213F, 0xBF597FC7BEEF0EE4,
    0xC6E00BF33DA88FC2, 0xD5A79147930AA725, 0x06CA6351E003826F, 0x142929670A0E6E70,
    0x27B70A8546D22FFC, 0x2E1B21385C26C926, 0x4D2C6DFC5AC42AED, 0x53380D139D95B3DF,
    0x650A73548BAF63DE, 0x766A0ABB3C77B2A8, 0x81C2C92E47EDAEE6, 0x92722C851482353B]

def shaK1 : List W64 :=
  [
    0xA2BFE8A14CF10364, 0xA81A664BBC423001, 0xC24B8B70D0F89791, 0xC76C51A30654BE30,
    0xD192E819D6EF5218, 0xD69906245565A910, 0xF40E35855771202A, 0x106AA07032BBD1B8,
    0x19A4C116B8D2D0C8, 0x1E376C085141AB53, 0x2748774CDF8EEB99, 0x34B0BCB5E19B48A8,
    0x391C0CB3C5C95A63, 0x4ED8AA4AE3418ACB, 0x5B9CCA4F7763E373, 0x682E6FF3D6B2B8A3,
    0x748F82EE5DEFB2FC, 0x78A5636F43172F60, 0x84C87814A1F0AB72, 0x8CC702081A6439EC,
    0x90BEFFFA23631E28, 0xA4506CEBDE82BDE9, 0xBEF9A3F7B2C67915, 0xC67178F2E372532B,
    0xCA273ECEEA26619C, 0xD186B8C721C0C207, 0xEADA7DD6CDE0EB1E, 0xF57D4F7FEE6ED178,
    0x06F067AA72176FBA, 0x0A637DC5A2C898A6, 0x113F9804BEF90DAE, 0x1B710B35131C471B,
    0x28DB77F523047D84, 0x32CAAB7B40C72493, 0x3C9EBE0A15C9BEBC, 0x431D67C49C100D4C,
    0x4CC5D4BECB3E42B6, 0x597F299CFC657E2A, 0x5FCB6FAB3AD6FAEC, 0x6C44198C4A475817]

/-- The eight working words. -/
structure Sha where
  a : W64
  b : W64
  c : W64
  d : W64
  e : W64
  f : W64
  g : W64
  h : W64
  deriving DecidableEq, Repr

def Sha.init : Sha :=
  ⟨0xCBBB9D5DC1059ED8, 0x629A292A367CD507, 0x9159015A3070DD17, 0x152FECD8F70E5939,
    0x67332667FFC00B31, 0x8EB44A8768581511, 0xDB0C2E0D64F98FA7, 0x47B5481DBEFA4FA4⟩

def shaS (x : W64) (i j k : Nat) : W64 := x.rotateRight i ^^^ x.rotateRight j ^^^ x.rotateRight k
def shaT (x : W64) (i j k : Nat) : W64 := x.rotateRight i ^^^ x.rotateRight j ^^^ (x >>> k)

/-- One round with constant `k` and schedule word `w`. -/
def Sha.round (s : Sha) (k w : W64) : Sha :=
  let t1 := s.h + shaS s.e 14 18 41 + ((s.e &&& s.f) ^^^ (~~~ s.e &&& s.g)) + k + w
  let t2 := shaS s.a 28 34 39 + ((s.a &&& s.b) ^^^ (s.a &&& s.c) ^^^ (s.b &&& s.c))
  ⟨t1 + t2, s.a, s.b, s.c, s.d + t1, s.e, s.f, s.g⟩

/-- The rounds over the remaining constants, with the next sixteen schedule words. -/
def shaRounds : List W64 → List W64 → Sha → Sha
  | [], _, s => s
  | k :: ks, w, s =>
    let at_ := fun i => w.getD i 0
    let next := shaT (at_ 14) 19 61 6 + at_ 9 + shaT (at_ 1) 1 8 7 + at_ 0
    shaRounds ks (w.tail ++ [next]) (s.round k (at_ 0))

/-- Big-endian value of bytes. -/
def beNat (l : List Byte) : Nat := l.foldl (fun n b => n * 256 + b.toNat) 0

/-- The `n` big-endian bytes of a number. -/
def natBe (n v : Nat) : List Byte := (natLe n v).reverse

/-- One 128-byte block. -/
def shaBlock (s : Sha) (m : List Byte) : Sha :=
  let w := (List.range 16).map (fun i => BitVec.ofNat 64 (beNat ((m.drop (8 * i)).take 8)))
  let t := shaRounds (shaK0 ++ shaK1) w s
  ⟨s.a + t.a, s.b + t.b, s.c + t.c, s.d + t.d, s.e + t.e, s.f + t.f, s.g + t.g, s.h + t.h⟩

def shaBlocks : Nat → List Byte → Sha → Sha
  | 0, _, s => s
  | n + 1, m, s => shaBlocks n (m.drop 128) (shaBlock s (m.take 128))

/-- SHA-384 of a byte string. -/
def sha384 (m : List Byte) : List Byte :=
  let n := m.length
  let pad := m ++ [0x80#8] ++ List.replicate ((239 - n % 128) % 128) 0 ++ natBe 16 (8 * n)
  let s := shaBlocks (pad.length / 128) pad Sha.init
  ([s.a, s.b, s.c, s.d, s.e, s.f].map (fun x => natBe 8 x.toNat)).flatten

/-! ### HMAC and HKDF over SHA-384 (RFC 2104, RFC 5869; R449, R454) -/

/-- HMAC-SHA-384 under a key of at most 128 bytes; a longer one is hashed first. -/
def hmac384 (key m : List Byte) : List Byte :=
  let k := if key.length > 128 then sha384 key else key
  let k := k ++ List.replicate (128 - k.length) 0
  sha384 (k.map (· ^^^ 0x5C) ++ sha384 (k.map (· ^^^ 0x36) ++ m))

/-- HKDF's extraction of a pseudo-random key, and its expansion to 32 bytes. -/
def hkdfExtract (salt ikm : List Byte) : List Byte := hmac384 salt ikm
def hkdfExpand (prk info : List Byte) : List Byte := (hmac384 prk (info ++ [1])).take 32

/-! ### CRC-32 (IEEE 802.3) -/

def crcBits : Nat → W32 → W32
  | 0, c => c
  | n + 1, c => crcBits n (if c.getLsbD 0 then (c >>> 1) ^^^ 0xEDB88320#32 else c >>> 1)

/-- CRC-32 of a byte string. -/
def crc32 (m : List Byte) : W32 := ~~~ (m.foldl (fun c b => crcBits 8 (c ^^^ b.setWidth 32)) 0xFFFFFFFF#32)

end Sys2Proof.Machine
end

