-- ==== Sys2Proof/Machine/RegTable.lean ====
section
/-! DEFINITION. The register map of BAR0: every register that a chapter of the manual assigns, with the bits, the access
type, the reset value and the reserved encodings of each of its fields (R8, R13, R14, R16, R18; the register tables that
close the chapters, R125, R90, R230, R264, R298, R326, R356, R378, R412, R435, R461, R480, R506). -/
namespace Sys2Proof.Machine

/-- Access types of Table 00.3; RWS is `rw` with `keep`. -/
inductive RTy where
  | ro | rw | w1c | w1s | wo | rwq | rwt
  deriving DecidableEq, Repr

/-- A field: its bits, its type, whether a warm reset keeps it (R18) and the range of the encodings that are not reserved
where there are others (R14). -/
structure RField where
  hi   : Nat
  lo   : Nat
  ty   : RTy
  keep : Bool
  ok   : Option (Nat × Nat)
  deriving DecidableEq, Repr

/-- A register, or an array of `n1` by `n2` registers with strides `s1` and `s2`; `wide` says that it is 64 bits. -/
structure RRow where
  base : Nat
  n1   : Nat
  s1   : Nat
  n2   : Nat
  s2   : Nat
  wide : Bool
  fs   : List RField
  deriving DecidableEq, Repr

/-- A field of a register at a BAR0 offset. -/
structure FRef where
  off : Nat
  hi  : Nat
  lo  : Nat
  deriving DecidableEq, Repr


/-- The EP_ registers. -/
def rowsEp : List RRow := [
  ⟨0x0, 1, 0x1, 1, 0x1, false, [⟨23, 16, .ro, false, none⟩, ⟨15, 8, .ro, false, none⟩, ⟨7, 0, .ro, false, none⟩]⟩, -- EP_VERSION (R326)
  ⟨0x4, 1, 0x1, 1, 0x1, false, [⟨31, 16, .ro, false, none⟩, ⟨15, 0, .ro, false, none⟩]⟩, -- EP_IDENT (R326)
  ⟨0x8, 1, 0x1, 1, 0x1, true, [⟨63, 0, .ro, true, none⟩]⟩, -- EP_SERIAL (R326)
  ⟨0x10, 1, 0x1, 1, 0x1, false, [⟨11, 8, .ro, false, none⟩, ⟨1, 0, .ro, false, none⟩]⟩, -- EP_STATE (R326)
  ⟨0x80000, 1, 0x1, 1, 0x1, false, [⟨8, 8, .ro, false, none⟩, ⟨6, 4, .ro, false, none⟩, ⟨1, 0, .ro, false, none⟩]⟩, -- EP_INT_MODE (R326)
  ⟨0x80008, 1, 0x1, 1, 0x1, true, [⟨63, 0, .ro, false, none⟩]⟩, -- EP_INT_SUMMARY (R326)
  ⟨0x80100, 64, 0x4, 1, 0x1, false, [⟨31, 0, .w1c, false, none⟩]⟩, -- EP_INT_PEND (R326)
  ⟨0x80400, 1, 0x1, 1, 0x1, false, [⟨31, 30, .ro, false, none⟩, ⟨29, 29, .w1c, false, none⟩, ⟨3, 3, .w1c, false, none⟩, ⟨2, 2, .w1c, false, none⟩, ⟨1, 1, .w1c, false, none⟩, ⟨0, 0, .w1c, false, none⟩]⟩, -- EP_CONT_STATUS (R326)
  ⟨0x80404, 1, 0x1, 1, 0x1, false, [⟨31, 24, .wo, false, none⟩, ⟨0, 0, .wo, false, none⟩]⟩, -- EP_CONT_RELEASE (R326)
  ⟨0x80408, 1, 0x1, 1, 0x1, false, [⟨31, 16, .ro, false, none⟩, ⟨9, 0, .ro, false, none⟩]⟩, -- EP_CONT_HELD (R326)
  ⟨0x8040C, 1, 0x1, 1, 0x1, false, [⟨15, 0, .rw, false, some (10, 65535)⟩]⟩, -- EP_HOLD_LIMIT (R326)
  ⟨0x80410, 1, 0x1, 1, 0x1, false, [⟨9, 0, .rw, false, some (1, 768)⟩]⟩, -- EP_TAG_LIMIT (R326)
  ⟨0x80800, 1, 0x1, 1, 0x1, true, [⟨47, 0, .ro, false, none⟩]⟩, -- EP_CONT_CNT (R326)
  ⟨0x80808, 1, 0x1, 1, 0x1, true, [⟨47, 0, .ro, false, none⟩]⟩, -- EP_HELD_POISON_CNT (R326)
  ⟨0x80810, 1, 0x1, 1, 0x1, true, [⟨47, 0, .ro, false, none⟩]⟩, -- EP_REFUSED_CNT (R326)
  ⟨0x80818, 1, 0x1, 1, 0x1, true, [⟨47, 0, .ro, false, none⟩]⟩, -- EP_RETRAIN_CNT (R326)
  ⟨0x80820, 1, 0x1, 1, 0x1, true, [⟨47, 0, .ro, false, none⟩]⟩] -- EP_CPL_TIMEOUT_CNT (R326)

/-- The SET_ registers. -/
def rowsSet : List RRow := [
  ⟨0x10000, 1, 0x1, 1, 0x1, false, [⟨1, 0, .ro, false, none⟩]⟩, -- SET_STATUS (R435)
  ⟨0x10008, 1, 0x1, 1, 0x1, true, [⟨63, 0, .rw, false, none⟩]⟩, -- SET_LOAD_ADDR (R435)
  ⟨0x10010, 1, 0x1, 1, 0x1, false, [⟨31, 31, .w1s, false, none⟩, ⟨30, 30, .rw, false, none⟩, ⟨22, 0, .rw, false, none⟩]⟩, -- SET_LOAD_CMD (R435)
  ⟨0x10014, 1, 0x1, 1, 0x1, false, [⟨31, 31, .w1c, false, none⟩, ⟨30, 28, .ro, false, none⟩, ⟨27, 24, .ro, false, none⟩, ⟨23, 16, .ro, false, none⟩, ⟨15, 0, .ro, false, none⟩]⟩, -- SET_LOAD_STATUS (R435)
  ⟨0x10040, 6, 0x8, 1, 0x1, true, [⟨63, 0, .ro, false, none⟩]⟩, -- SET_DIGEST (R435)
  ⟨0x10080, 1, 0x1, 1, 0x1, false, [⟨15, 0, .rw, false, none⟩]⟩, -- SET_PART_RUN (R435)
  ⟨0x10084, 1, 0x1, 1, 0x1, false, [⟨31, 16, .ro, false, none⟩, ⟨15, 0, .ro, false, none⟩]⟩, -- SET_PART_STATE (R435)
  ⟨0x10100, 1, 0x1, 1, 0x1, false, [⟨31, 31, .w1s, false, none⟩, ⟨30, 28, .rw, false, some (0, 4)⟩, ⟨27, 24, .rw, false, none⟩, ⟨23, 16, .rw, false, none⟩, ⟨15, 0, .rw, false, none⟩]⟩, -- SET_CLASP_CMD (R435)
  ⟨0x10108, 1, 0x1, 1, 0x1, true, [⟨63, 0, .rw, false, none⟩]⟩, -- SET_CLASP_ADDR (R435)
  ⟨0x10110, 1, 0x1, 1, 0x1, false, [⟨20, 0, .rw, false, none⟩]⟩, -- SET_CLASP_LEN (R435)
  ⟨0x10114, 1, 0x1, 1, 0x1, false, [⟨31, 31, .w1c, false, none⟩, ⟨30, 28, .ro, false, none⟩, ⟨23, 16, .ro, false, none⟩, ⟨15, 0, .ro, false, none⟩]⟩, -- SET_CLASP_STATUS (R435)
  ⟨0x10118, 1, 0x1, 1, 0x1, false, [⟨31, 30, .ro, false, none⟩, ⟨29, 29, .ro, false, none⟩, ⟨28, 17, .ro, false, none⟩, ⟨15, 0, .ro, true, none⟩]⟩, -- SET_CLASP_STATE (R435)
  ⟨0x1011C, 1, 0x1, 1, 0x1, false, [⟨15, 0, .rw, false, none⟩]⟩, -- SET_CLASP_TIMEOUT (R435)
  ⟨0x10800, 1, 0x1, 1, 0x1, true, [⟨47, 0, .ro, false, none⟩]⟩, -- SET_LOAD_CNT (R435)
  ⟨0x10808, 1, 0x1, 1, 0x1, true, [⟨47, 0, .ro, false, none⟩]⟩, -- SET_COMMIT_CNT (R435)
  ⟨0x10810, 1, 0x1, 1, 0x1, true, [⟨47, 0, .ro, false, none⟩]⟩, -- SET_ROLLBACK_CNT (R435)
  ⟨0x10818, 1, 0x1, 1, 0x1, true, [⟨47, 0, .ro, false, none⟩]⟩] -- SET_REFUSE_CNT (R435)

/-- The ERR_ registers. -/
def rowsErr : List RRow := [
  ⟨0x20000, 1, 0x1, 1, 0x1, false, [⟨31, 31, .rw, true, none⟩, ⟨30, 30, .rw, true, none⟩, ⟨29, 28, .rw, true, none⟩, ⟨23, 23, .rw, false, none⟩, ⟨22, 22, .rw, false, none⟩, ⟨21, 21, .rw, false, none⟩, ⟨10, 0, .rw, false, none⟩]⟩, -- ERR_CTL (R506)
  ⟨0x20004, 1, 0x1, 1, 0x1, false, [⟨31, 31, .w1c, true, none⟩, ⟨30, 30, .ro, true, none⟩, ⟨29, 20, .ro, true, none⟩, ⟨8, 0, .ro, true, none⟩]⟩, -- ERR_STATUS (R506)
  ⟨0x20008, 1, 0x1, 1, 0x1, false, [⟨15, 0, .ro, false, none⟩]⟩, -- ERR_OPEN_PART (R506)
  ⟨0x2000C, 1, 0x1, 1, 0x1, false, [⟨5, 0, .ro, true, none⟩]⟩, -- ERR_VIOL_HEAD (R506)
  ⟨0x20010, 1, 0x1, 1, 0x1, true, [⟨63, 56, .ro, true, none⟩, ⟨55, 52, .ro, true, none⟩, ⟨47, 32, .ro, true, none⟩, ⟨0, 0, .ro, true, none⟩]⟩, -- ERR_LAST_FATAL (R506)
  ⟨0x20020, 1, 0x1, 1, 0x1, false, [⟨31, 24, .wo, false, none⟩, ⟨0, 0, .wo, false, none⟩]⟩, -- ERR_LOUPE (R506)
  ⟨0x20040, 1, 0x1, 1, 0x1, true, [⟨45, 0, .rw, true, none⟩]⟩, -- ERR_TRACE_BASE (R506)
  ⟨0x20048, 1, 0x1, 1, 0x1, false, [⟨31, 31, .rw, true, none⟩, ⟨30, 30, .w1c, true, none⟩, ⟨20, 16, .rw, true, some (10, 24)⟩]⟩, -- ERR_TRACE_CTL (R506)
  ⟨0x20050, 1, 0x1, 1, 0x1, true, [⟨63, 0, .ro, true, none⟩]⟩, -- ERR_TRACE_PROD (R506)
  ⟨0x20800, 1, 0x1, 1, 0x1, true, [⟨47, 0, .ro, true, none⟩]⟩, -- ERR_DISCARD_CNT (R506)
  ⟨0x20808, 1, 0x1, 1, 0x1, true, [⟨47, 0, .ro, true, none⟩]⟩, -- ERR_CORR_CNT (R506)
  ⟨0x20810, 1, 0x1, 1, 0x1, true, [⟨47, 0, .ro, true, none⟩]⟩, -- ERR_DEFER_CNT (R506)
  ⟨0x20818, 1, 0x1, 1, 0x1, true, [⟨47, 0, .ro, true, none⟩]⟩, -- ERR_CONTAIN_CNT (R506)
  ⟨0x20820, 1, 0x1, 1, 0x1, true, [⟨47, 0, .ro, true, none⟩]⟩, -- ERR_VIOL_CNT (R506)
  ⟨0x20828, 1, 0x1, 1, 0x1, true, [⟨47, 0, .ro, true, none⟩]⟩] -- ERR_DROP_CNT (R506)

/-- The PWR_ registers. -/
def rowsPwr : List RRow := [
  ⟨0x30000, 1, 0x1, 1, 0x1, false, [⟨15, 0, .rw, true, none⟩]⟩, -- PWR_CAP (R480)
  ⟨0x30004, 1, 0x1, 1, 0x1, false, [⟨5, 4, .rwt, false, some (0, 2)⟩, ⟨3, 2, .rwt, false, some (0, 2)⟩, ⟨1, 0, .rwt, false, some (0, 2)⟩]⟩, -- PWR_PRIO (R480)
  ⟨0x30008, 1, 0x1, 1, 0x1, false, [⟨31, 31, .ro, false, none⟩, ⟨30, 30, .ro, false, none⟩, ⟨29, 29, .ro, false, none⟩, ⟨28, 28, .ro, false, none⟩, ⟨15, 0, .ro, false, none⟩]⟩, -- PWR_STATUS (R480)
  ⟨0x3000C, 1, 0x1, 1, 0x1, false, [⟨2, 2, .ro, true, none⟩, ⟨1, 1, .ro, true, none⟩, ⟨0, 0, .ro, true, none⟩]⟩, -- PWR_STOP_CAUSE (R480)
  ⟨0x30010, 1, 0x1, 1, 0x1, false, [⟨31, 16, .ro, false, none⟩, ⟨15, 0, .ro, false, none⟩]⟩, -- PWR_POWER (R480)
  ⟨0x30018, 1, 0x1, 1, 0x1, true, [⟨63, 48, .ro, false, none⟩, ⟨47, 32, .ro, false, none⟩, ⟨31, 16, .ro, false, none⟩, ⟨15, 0, .ro, false, none⟩]⟩, -- PWR_POWER_CAT (R480)
  ⟨0x30020, 1, 0x1, 1, 0x1, false, [⟨31, 24, .ro, false, none⟩, ⟨8, 0, .ro, false, none⟩]⟩, -- PWR_TEMP (R480)
  ⟨0x30024, 1, 0x1, 1, 0x1, false, [⟨31, 30, .ro, false, none⟩, ⟨27, 16, .ro, false, none⟩, ⟨15, 14, .ro, false, none⟩, ⟨11, 0, .ro, false, none⟩]⟩, -- PWR_DOM_CLK (R480)
  ⟨0x30028, 1, 0x1, 1, 0x1, false, [⟨31, 16, .rw, false, some (1, 65535)⟩, ⟨15, 0, .rw, false, some (1, 65535)⟩]⟩, -- PWR_SLEEP_CFG (R480)
  ⟨0x3002C, 1, 0x1, 1, 0x1, false, [⟨7, 0, .rw, false, some (70, 105)⟩]⟩, -- PWR_HBM_TLIM (R480)
  ⟨0x30030, 1, 0x1, 1, 0x1, false, [⟨9, 0, .rw, false, some (0, 1000)⟩]⟩, -- PWR_TELEM_CTL (R480)
  ⟨0x30034, 1, 0x1, 1, 0x1, false, [⟨31, 27, .rw, false, none⟩, ⟨10, 0, .rw, false, none⟩]⟩, -- PWR_INT_CTL (R480)
  ⟨0x30038, 1, 0x1, 1, 0x1, false, [⟨4, 4, .w1c, false, none⟩, ⟨3, 3, .w1c, false, none⟩, ⟨2, 2, .w1c, false, none⟩, ⟨1, 1, .w1c, false, none⟩, ⟨0, 0, .w1c, false, none⟩]⟩, -- PWR_INT_STATUS (R480)
  ⟨0x30100, 256, 0x4, 1, 0x1, false, [⟨31, 30, .ro, false, none⟩, ⟨29, 28, .ro, false, none⟩, ⟨27, 27, .ro, false, none⟩, ⟨19, 8, .ro, false, none⟩, ⟨7, 0, .ro, false, none⟩]⟩, -- PWR_TILE (R480)
  ⟨0x30800, 1, 0x1, 1, 0x1, true, [⟨63, 0, .ro, true, none⟩]⟩, -- PWR_ENERGY_TOTAL (R480)
  ⟨0x30808, 1, 0x1, 1, 0x1, true, [⟨63, 0, .ro, true, none⟩]⟩, -- PWR_ENERGY_COMPUTE (R480)
  ⟨0x30810, 1, 0x1, 1, 0x1, true, [⟨63, 0, .ro, true, none⟩]⟩, -- PWR_ENERGY_MEMORY (R480)
  ⟨0x30818, 1, 0x1, 1, 0x1, true, [⟨63, 0, .ro, true, none⟩]⟩, -- PWR_ENERGY_LINKS (R480)
  ⟨0x30820, 1, 0x1, 1, 0x1, true, [⟨63, 0, .ro, true, none⟩]⟩, -- PWR_ENERGY_HBM (R480)
  ⟨0x30840, 1, 0x1, 1, 0x1, true, [⟨47, 0, .ro, false, none⟩]⟩, -- PWR_THROTTLE_CNT (R480)
  ⟨0x30848, 1, 0x1, 1, 0x1, true, [⟨47, 0, .ro, false, none⟩]⟩, -- PWR_DROOP_CNT (R480)
  ⟨0x30850, 1, 0x1, 1, 0x1, true, [⟨47, 0, .ro, false, none⟩]⟩, -- PWR_CAP_BIND_CNT (R480)
  ⟨0x30858, 1, 0x1, 1, 0x1, true, [⟨47, 0, .ro, false, none⟩]⟩, -- PWR_FAST_LIMIT_CNT (R480)
  ⟨0x30860, 1, 0x1, 1, 0x1, true, [⟨47, 0, .ro, false, none⟩]⟩] -- PWR_FLOOR_REL_CNT (R480)

/-- The NWL_ registers. -/
def rowsNwl : List RRow := [
  ⟨0x40000, 1, 0x1, 1, 0x1, true, [⟨63, 0, .ro, true, none⟩]⟩, -- NWL_TIME (R412)
  ⟨0x40008, 1, 0x1, 1, 0x1, false, [⟨31, 16, .ro, false, none⟩, ⟨15, 12, .ro, false, none⟩, ⟨10, 8, .ro, false, none⟩, ⟨7, 7, .ro, false, none⟩, ⟨3, 3, .w1c, false, none⟩, ⟨2, 2, .ro, false, none⟩, ⟨1, 0, .ro, false, none⟩]⟩, -- NWL_STATUS (R412)
  ⟨0x4000C, 1, 0x1, 1, 0x1, false, [⟨31, 31, .rwt, false, none⟩, ⟨23, 16, .rwt, false, some (1, 255)⟩, ⟨15, 8, .rwt, false, none⟩, ⟨7, 0, .rwt, false, some (1, 255)⟩]⟩, -- NWL_SLIP_CFG (R412)
  ⟨0x40040, 16, 0x4, 1, 0x1, false, [⟨31, 31, .ro, true, none⟩, ⟨8, 0, .ro, true, none⟩]⟩, -- NWL_FLIGHT (R412)
  ⟨0x40100, 2, 0x40, 1, 0x1, false, [⟨11, 8, .rw, false, none⟩, ⟨7, 0, .rw, false, none⟩]⟩, -- NWL_LAND_SEL (R412)
  ⟨0x40108, 2, 0x40, 4, 0x8, true, [⟨63, 0, .rw, false, none⟩]⟩, -- NWL_LAND_DATA (R412)
  ⟨0x40128, 2, 0x40, 1, 0x1, false, [⟨31, 31, .w1s, false, none⟩, ⟨2, 0, .rw, false, some (0, 4)⟩]⟩, -- NWL_LAND_CMD (R412)
  ⟨0x4012C, 2, 0x40, 1, 0x1, false, [⟨31, 31, .w1c, false, none⟩, ⟨30, 28, .ro, false, none⟩]⟩, -- NWL_LAND_STATUS (R412)
  ⟨0x40800, 1, 0x1, 1, 0x1, true, [⟨47, 0, .ro, false, none⟩]⟩, -- NWL_FIRE_CNT (R412)
  ⟨0x40808, 1, 0x1, 1, 0x1, true, [⟨47, 0, .ro, false, none⟩]⟩, -- NWL_CANCEL_CNT (R412)
  ⟨0x40810, 1, 0x1, 1, 0x1, true, [⟨47, 0, .ro, false, none⟩]⟩, -- NWL_SLIP_SENT_CNT (R412)
  ⟨0x40818, 1, 0x1, 1, 0x1, true, [⟨47, 0, .ro, false, none⟩]⟩, -- NWL_SLIP_RCVD_CNT (R412)
  ⟨0x40820, 1, 0x1, 1, 0x1, true, [⟨47, 0, .ro, false, none⟩]⟩, -- NWL_SLIP_NS_CNT (R412)
  ⟨0x40828, 1, 0x1, 1, 0x1, true, [⟨47, 0, .ro, false, none⟩]⟩] -- NWL_SLIP_MISS_CNT (R412)

/-- The XLT_ registers. -/
def rowsXlt : List RRow := [
  ⟨0x50000, 1, 0x1, 1, 0x1, false, [⟨25, 16, .ro, true, none⟩]⟩, -- XLT_CFG (R298)
  ⟨0x50008, 1, 0x1, 1, 0x1, true, [⟨45, 0, .ro, true, none⟩]⟩, -- XLT_CTX_BASE (R298)
  ⟨0x50010, 1, 0x1, 1, 0x1, true, [⟨51, 0, .rwq, false, none⟩]⟩, -- XLT_HOST_BASE (R298)
  ⟨0x50018, 1, 0x1, 1, 0x1, true, [⟨45, 0, .ro, true, none⟩]⟩, -- XLT_WIN_BASE (R298)
  ⟨0x50100, 4, 0x20, 1, 0x1, true, [⟨63, 0, .rw, false, none⟩]⟩, -- XLT_CMD_ADDR (R298)
  ⟨0x50108, 4, 0x20, 1, 0x1, true, [⟨30, 0, .rw, false, none⟩]⟩, -- XLT_CMD_LEN (R298)
  ⟨0x50110, 4, 0x20, 1, 0x1, false, [⟨31, 31, .w1s, false, none⟩, ⟨29, 26, .rw, false, some (0, 8)⟩, ⟨25, 25, .rw, false, none⟩, ⟨24, 21, .rw, false, none⟩, ⟨20, 18, .rw, false, some (0, 4)⟩, ⟨15, 0, .rw, false, none⟩]⟩, -- XLT_CMD (R298)
  ⟨0x50114, 4, 0x20, 1, 0x1, false, [⟨31, 31, .w1c, false, none⟩, ⟨30, 28, .ro, false, none⟩, ⟨23, 0, .ro, false, none⟩]⟩, -- XLT_CMD_STATUS (R298)
  ⟨0x50200, 1, 0x1, 1, 0x1, true, [⟨45, 0, .rw, false, none⟩]⟩, -- XLT_RING_BASE (R298)
  ⟨0x50208, 1, 0x1, 1, 0x1, false, [⟨31, 31, .rw, false, none⟩, ⟨20, 16, .rw, false, some (6, 16)⟩, ⟨10, 0, .rw, false, none⟩]⟩, -- XLT_RING_CTL (R298)
  ⟨0x5020C, 1, 0x1, 1, 0x1, false, [⟨31, 0, .ro, false, none⟩]⟩, -- XLT_RING_PROD (R298)
  ⟨0x50210, 1, 0x1, 1, 0x1, false, [⟨31, 0, .rw, false, none⟩]⟩, -- XLT_RING_CONS (R298)
  ⟨0x50218, 1, 0x1, 1, 0x1, true, [⟨63, 62, .wo, false, some (1, 3)⟩, ⟨47, 32, .wo, false, none⟩, ⟨31, 0, .wo, false, none⟩]⟩, -- XLT_FAULT_RESP (R298)
  ⟨0x50220, 1, 0x1, 1, 0x1, false, [⟨31, 31, .w1c, false, none⟩, ⟨30, 30, .ro, false, none⟩, ⟨29, 29, .w1c, false, none⟩, ⟨28, 28, .w1c, false, none⟩, ⟨12, 0, .ro, false, none⟩]⟩, -- XLT_FAULT_STATUS (R298)
  ⟨0x50224, 1, 0x1, 1, 0x1, false, [⟨19, 0, .rw, false, some (100, 1000000)⟩]⟩, -- XLT_FAULT_LIMIT (R298)
  ⟨0x50228, 1, 0x1, 1, 0x1, false, [⟨15, 0, .rw, false, some (10, 65535)⟩]⟩, -- XLT_DRAIN_LIMIT (R298)
  ⟨0x50300, 1, 0x1, 1, 0x1, false, [⟨31, 31, .w1s, false, none⟩, ⟨30, 30, .rw, false, none⟩, ⟨11, 0, .rw, false, none⟩]⟩, -- XLT_WIN_CMD (R298)
  ⟨0x50304, 1, 0x1, 1, 0x1, false, [⟨31, 31, .w1c, false, none⟩]⟩, -- XLT_WIN_STATUS (R298)
  ⟨0x50308, 1, 0x1, 1, 0x1, false, [⟨31, 29, .ro, false, none⟩, ⟨21, 12, .ro, false, none⟩, ⟨11, 0, .ro, false, none⟩]⟩, -- XLT_WIN_LAST (R298)
  ⟨0x50400, 1, 0x1, 1, 0x1, true, [⟨47, 0, .ro, false, none⟩]⟩, -- XLT_STLB_HIT_CNT (R298)
  ⟨0x50408, 1, 0x1, 1, 0x1, true, [⟨47, 0, .ro, false, none⟩]⟩, -- XLT_WALK_CNT (R298)
  ⟨0x50410, 1, 0x1, 1, 0x1, true, [⟨47, 0, .ro, false, none⟩]⟩, -- XLT_FAULT_CNT (R298)
  ⟨0x50418, 1, 0x1, 1, 0x1, true, [⟨47, 0, .ro, false, none⟩]⟩, -- XLT_STALL_CNT (R298)
  ⟨0x50420, 1, 0x1, 1, 0x1, true, [⟨47, 0, .ro, false, none⟩]⟩, -- XLT_LIMIT_FAIL_CNT (R298)
  ⟨0x50428, 1, 0x1, 1, 0x1, true, [⟨47, 0, .ro, false, none⟩]⟩, -- XLT_DRAIN_DROP_CNT (R298)
  ⟨0x50430, 1, 0x1, 1, 0x1, true, [⟨47, 0, .ro, false, none⟩]⟩, -- XLT_WIN_REFUSED_CNT (R298)
  ⟨0x50438, 1, 0x1, 1, 0x1, true, [⟨47, 0, .ro, false, none⟩]⟩] -- XLT_STALE_RESP_CNT (R298)

/-- The L2C_ registers. -/
def rowsL2c : List RRow := [
  ⟨0x60000, 1, 0x1, 1, 0x1, false, [⟨31, 29, .ro, true, none⟩, ⟨28, 27, .ro, true, none⟩, ⟨26, 25, .ro, true, none⟩, ⟨23, 16, .ro, true, none⟩]⟩, -- L2C_CFG (R211)
  ⟨0x60040, 16, 0x4, 1, 0x1, false, [⟨20, 16, .ro, true, none⟩, ⟨15, 0, .ro, true, none⟩]⟩, -- L2C_PART_WAYS (R211)
  ⟨0x60080, 1, 0x1, 1, 0x1, false, [⟨31, 31, .w1s, false, none⟩, ⟨30, 30, .w1c, false, none⟩, ⟨15, 0, .rw, false, none⟩]⟩, -- L2C_WAY_PWR (R211)
  ⟨0x60084, 1, 0x1, 1, 0x1, false, [⟨31, 16, .ro, false, none⟩, ⟨15, 0, .ro, false, none⟩]⟩, -- L2C_WAY_STATE (R211)
  ⟨0x60090, 1, 0x1, 1, 0x1, false, [⟨7, 0, .ro, false, none⟩]⟩, -- L2C_MNT_ENG_BUSY (R211)
  ⟨0x600A0, 8, 0x4, 1, 0x1, false, [⟨10, 0, .ro, false, none⟩]⟩, -- L2C_HBM_POISON (R211)
  ⟨0x60100, 8, 0x20, 1, 0x1, true, [⟨45, 0, .rw, false, none⟩]⟩, -- L2C_MNT_ADDR (R211)
  ⟨0x60108, 8, 0x20, 1, 0x1, true, [⟨40, 0, .rw, false, none⟩]⟩, -- L2C_MNT_LEN (R211)
  ⟨0x60110, 8, 0x20, 1, 0x1, false, [⟨31, 31, .w1s, false, none⟩, ⟨19, 16, .rw, false, none⟩, ⟨2, 0, .rw, false, some (0, 4)⟩]⟩, -- L2C_MNT_CMD (R211)
  ⟨0x60114, 8, 0x20, 1, 0x1, false, [⟨31, 31, .w1c, false, none⟩, ⟨30, 28, .ro, false, none⟩]⟩, -- L2C_MNT_STATUS (R211)
  ⟨0x60118, 8, 0x20, 1, 0x1, true, [⟨63, 32, .ro, false, none⟩, ⟨31, 0, .ro, false, none⟩]⟩, -- L2C_MNT_COUNT (R211)
  ⟨0x60400, 64, 0x4, 1, 0x1, false, [⟨31, 24, .ro, true, none⟩, ⟨23, 16, .ro, true, none⟩, ⟨15, 8, .ro, true, none⟩, ⟨7, 0, .ro, true, none⟩]⟩, -- L2C_L1_DIS (R211)
  ⟨0x60800, 1, 0x1, 1, 0x1, true, [⟨47, 0, .ro, false, none⟩]⟩, -- L2C_HIT_CNT (R211)
  ⟨0x60808, 1, 0x1, 1, 0x1, true, [⟨47, 0, .ro, false, none⟩]⟩, -- L2C_MISS_CNT (R211)
  ⟨0x60810, 1, 0x1, 1, 0x1, true, [⟨47, 0, .ro, false, none⟩]⟩, -- L2C_DIRTY_EVICT_CNT (R211)
  ⟨0x60818, 1, 0x1, 1, 0x1, true, [⟨47, 0, .ro, false, none⟩]⟩, -- L2C_MSC_HIT_CNT (R211)
  ⟨0x60820, 1, 0x1, 1, 0x1, true, [⟨47, 0, .ro, false, none⟩]⟩, -- L2C_MSC_DECLINE_CNT (R211)
  ⟨0x60828, 1, 0x1, 1, 0x1, true, [⟨47, 0, .ro, false, none⟩]⟩, -- L2C_LOCK_SHORT_CNT (R211)
  ⟨0x60830, 1, 0x1, 1, 0x1, true, [⟨47, 0, .ro, false, none⟩]⟩] -- L2C_PARITY_CNT (R211)

/-- The HOME_ registers. -/
def rowsHome : List RRow := [
  ⟨0x70000, 1, 0x1, 1, 0x1, false, [⟨22, 16, .ro, true, none⟩, ⟨13, 8, .ro, true, none⟩]⟩, -- HOME_CFG (R264)
  ⟨0x70004, 1, 0x1, 1, 0x1, false, [⟨15, 0, .ro, true, none⟩]⟩, -- HOME_MODE (R264)
  ⟨0x70010, 1, 0x1, 1, 0x1, false, [⟨31, 16, .rwt, false, some (10, 65535)⟩, ⟨7, 0, .rwt, false, none⟩]⟩, -- HOME_TIMING (R264)
  ⟨0x70020, 1, 0x1, 1, 0x1, false, [⟨24, 0, .ro, false, none⟩]⟩, -- HOME_DIR_USED (R264)
  ⟨0x70024, 1, 0x1, 1, 0x1, false, [⟨31, 31, .ro, false, none⟩, ⟨30, 30, .ro, false, none⟩, ⟨5, 0, .ro, false, none⟩]⟩, -- HOME_PURGE (R264)
  ⟨0x70040, 1, 0x1, 1, 0x1, true, [⟨45, 0, .ro, true, none⟩]⟩, -- HOME_BIAS_BASE (R264)
  ⟨0x70048, 1, 0x1, 1, 0x1, true, [⟨45, 0, .rw, false, none⟩]⟩, -- HOME_BIAS_ADDR (R264)
  ⟨0x70050, 1, 0x1, 1, 0x1, false, [⟨31, 31, .w1s, false, none⟩, ⟨30, 30, .rw, false, none⟩, ⟨15, 0, .rw, false, none⟩]⟩, -- HOME_BIAS_CMD (R264)
  ⟨0x70054, 1, 0x1, 1, 0x1, false, [⟨31, 31, .w1c, false, none⟩, ⟨30, 28, .ro, false, none⟩]⟩, -- HOME_BIAS_STATUS (R264)
  ⟨0x70100, 1, 0x1, 1, 0x1, true, [⟨47, 0, .ro, false, none⟩]⟩, -- HOME_RETRY_CNT (R264)
  ⟨0x70108, 1, 0x1, 1, 0x1, true, [⟨47, 0, .ro, false, none⟩]⟩, -- HOME_STARVE_CNT (R264)
  ⟨0x70110, 1, 0x1, 1, 0x1, true, [⟨47, 0, .ro, false, none⟩]⟩, -- HOME_DIR_EVICT_CNT (R264)
  ⟨0x70118, 1, 0x1, 1, 0x1, true, [⟨47, 0, .ro, false, none⟩]⟩, -- HOME_BISNP_CNT (R264)
  ⟨0x70120, 1, 0x1, 1, 0x1, true, [⟨47, 0, .ro, false, none⟩]⟩, -- HOME_BICONFLICT_CNT (R264)
  ⟨0x70128, 1, 0x1, 1, 0x1, true, [⟨47, 0, .ro, false, none⟩]⟩, -- HOME_FWD_CNT (R264)
  ⟨0x70130, 1, 0x1, 1, 0x1, true, [⟨47, 0, .ro, false, none⟩]⟩, -- HOME_TIMEOUT_CNT (R264)
  ⟨0x70138, 1, 0x1, 1, 0x1, true, [⟨47, 0, .ro, false, none⟩]⟩, -- HOME_LATE_CNT (R264)
  ⟨0x70140, 1, 0x1, 1, 0x1, true, [⟨47, 0, .ro, false, none⟩]⟩] -- HOME_HOLD_WAIT_CNT (R264)

/-- The SQ_ registers. -/
def rowsSq : List RRow := [
  ⟨0x90000, 4, 0x40, 1, 0x1, true, [⟨45, 0, .rw, false, none⟩]⟩, -- SQ_CMD_BASE (R356)
  ⟨0x90008, 4, 0x40, 1, 0x1, true, [⟨63, 48, .rw, false, none⟩, ⟨43, 32, .rw, false, none⟩, ⟨31, 0, .rw, false, none⟩]⟩, -- SQ_CMD_ARG (R356)
  ⟨0x90010, 4, 0x40, 1, 0x1, true, [⟨63, 32, .ro, false, none⟩, ⟨31, 0, .ro, false, none⟩]⟩, -- SQ_CMD_VIEW (R356)
  ⟨0x90018, 4, 0x40, 1, 0x1, false, [⟨31, 31, .w1s, false, none⟩, ⟨30, 27, .rw, false, some (0, 8)⟩, ⟨26, 25, .rw, false, some (0, 2)⟩, ⟨24, 21, .rw, false, none⟩, ⟨20, 16, .rw, false, none⟩, ⟨11, 0, .rw, false, none⟩]⟩, -- SQ_CMD (R356)
  ⟨0x9001C, 4, 0x40, 1, 0x1, false, [⟨26, 16, .rw, false, none⟩, ⟨15, 8, .rw, false, none⟩, ⟨7, 0, .rw, false, none⟩]⟩, -- SQ_CMD_CQCFG (R356)
  ⟨0x90020, 4, 0x40, 1, 0x1, false, [⟨31, 31, .w1c, false, none⟩, ⟨30, 28, .ro, false, none⟩, ⟨27, 26, .ro, false, none⟩]⟩, -- SQ_CMD_STATUS (R356)
  ⟨0x90100, 1, 0x1, 1, 0x1, false, [⟨31, 31, .w1c, false, none⟩, ⟨30, 28, .ro, false, none⟩, ⟨11, 0, .ro, false, none⟩]⟩, -- SQ_ERR_INFO (R356)
  ⟨0x90104, 1, 0x1, 1, 0x1, false, [⟨31, 0, .ro, false, none⟩]⟩, -- SQ_ERR_SEQ (R356)
  ⟨0x90200, 1, 0x1, 1, 0x1, false, [⟨15, 0, .rw, false, some (1, 65535)⟩]⟩, -- SQ_SCHED (R356)
  ⟨0x90400, 16, 0x8, 1, 0x1, true, [⟨63, 63, .ro, true, none⟩, ⟨60, 48, .ro, true, none⟩, ⟨43, 40, .ro, true, none⟩, ⟨35, 24, .ro, true, none⟩, ⟨16, 16, .ro, true, none⟩, ⟨8, 0, .ro, true, none⟩]⟩, -- SQ_PART_RES (R356)
  ⟨0x90500, 16, 0x4, 1, 0x1, false, [⟨6, 6, .ro, false, none⟩, ⟨5, 5, .ro, false, none⟩, ⟨3, 3, .ro, false, none⟩, ⟨2, 2, .ro, false, none⟩, ⟨0, 0, .ro, false, none⟩]⟩, -- SQ_C0_COND (R356)
  ⟨0x90600, 1, 0x1, 1, 0x1, false, [⟨11, 0, .rw, false, none⟩]⟩, -- SQ_QUAL_SEL (R356)
  ⟨0x90604, 1, 0x1, 1, 0x1, false, [⟨31, 31, .ro, false, none⟩, ⟨27, 24, .ro, false, none⟩, ⟨23, 20, .ro, false, none⟩, ⟨8, 0, .ro, false, none⟩]⟩, -- SQ_QUAL_HDR (R356)
  ⟨0x90608, 8, 0x8, 1, 0x1, true, [⟨63, 32, .ro, false, none⟩, ⟨31, 0, .ro, false, none⟩]⟩, -- SQ_QUAL_PT (R356)
  ⟨0x90800, 1, 0x1, 1, 0x1, true, [⟨47, 0, .ro, false, none⟩]⟩, -- SQ_DB_CNT (R356)
  ⟨0x90808, 1, 0x1, 1, 0x1, true, [⟨47, 0, .ro, false, none⟩]⟩, -- SQ_DB_BAD_CNT (R356)
  ⟨0x90810, 1, 0x1, 1, 0x1, true, [⟨47, 0, .ro, false, none⟩]⟩, -- SQ_REFETCH_CNT (R356)
  ⟨0x90818, 1, 0x1, 1, 0x1, true, [⟨47, 0, .ro, false, none⟩]⟩, -- SQ_QERR_CNT (R356)
  ⟨0x90820, 1, 0x1, 1, 0x1, true, [⟨47, 0, .ro, false, none⟩]⟩, -- SQ_C0_ADMIT_CNT (R356)
  ⟨0x90828, 1, 0x1, 1, 0x1, true, [⟨47, 0, .ro, false, none⟩]⟩, -- SQ_C0_REFUSE_CNT (R356)
  ⟨0x90830, 1, 0x1, 1, 0x1, true, [⟨47, 0, .ro, false, none⟩]⟩, -- SQ_C0_VOID_CNT (R356)
  ⟨0x90838, 1, 0x1, 1, 0x1, true, [⟨47, 0, .ro, false, none⟩]⟩] -- SQ_C0_MISS_CNT (R356)

/-- The TIER_ registers. -/
def rowsTier : List RRow := [
  ⟨0xA0000, 4, 0x40, 1, 0x1, true, [⟨63, 0, .rw, false, none⟩]⟩, -- TIER_CMD_ADDR (R378)
  ⟨0xA0008, 4, 0x40, 1, 0x1, true, [⟨63, 0, .rw, false, none⟩]⟩, -- TIER_CMD_LEN (R378)
  ⟨0xA0010, 4, 0x40, 1, 0x1, false, [⟨31, 31, .w1s, false, none⟩, ⟨30, 27, .rw, false, some (0, 7)⟩, ⟨26, 25, .rw, false, some (0, 2)⟩, ⟨24, 21, .rw, false, none⟩, ⟨20, 20, .rw, false, none⟩, ⟨15, 0, .rw, false, none⟩]⟩, -- TIER_CMD (R378)
  ⟨0xA0014, 4, 0x40, 1, 0x1, false, [⟨27, 16, .rw, false, none⟩, ⟨7, 0, .rw, false, none⟩]⟩, -- TIER_CMD_AUX (R378)
  ⟨0xA0018, 4, 0x40, 1, 0x1, false, [⟨31, 31, .w1c, false, none⟩, ⟨30, 28, .ro, false, none⟩]⟩, -- TIER_CMD_STATUS (R378)
  ⟨0xA0020, 4, 0x40, 1, 0x1, true, [⟨63, 62, .ro, false, none⟩, ⟨61, 60, .ro, false, none⟩, ⟨59, 59, .ro, false, none⟩, ⟨58, 58, .ro, false, none⟩, ⟨47, 0, .ro, false, none⟩]⟩, -- TIER_CMD_VIEW (R378)
  ⟨0xA0028, 4, 0x40, 1, 0x1, false, [⟨31, 0, .ro, false, none⟩]⟩, -- TIER_CMD_VIEW2 (R378)
  ⟨0xA0030, 4, 0x40, 1, 0x1, true, [⟨63, 0, .rw, false, none⟩]⟩, -- TIER_CAT (R378)
  ⟨0xA0038, 4, 0x40, 1, 0x1, true, [⟨63, 32, .rw, false, none⟩, ⟨31, 31, .rw, false, none⟩, ⟨11, 0, .rw, false, none⟩]⟩, -- TIER_CAT_CTL (R378)
  ⟨0xA0200, 16, 0x8, 1, 0x1, true, [⟨51, 37, .ro, true, none⟩, ⟨36, 16, .ro, true, none⟩, ⟨15, 0, .ro, true, none⟩]⟩, -- TIER_QUOTA (R378)
  ⟨0xA0280, 16, 0x8, 1, 0x1, true, [⟨63, 0, .ro, false, none⟩]⟩, -- TIER_USE (R378)
  ⟨0xA0300, 1, 0x1, 1, 0x1, true, [⟨63, 0, .ro, true, none⟩]⟩, -- TIER_POOL (R378)
  ⟨0xA0308, 1, 0x1, 1, 0x1, true, [⟨63, 0, .ro, false, none⟩]⟩, -- TIER_POOL_USE (R378)
  ⟨0xA0380, 16, 0x8, 1, 0x1, true, [⟨45, 0, .ro, true, none⟩]⟩, -- TIER_VA_ROOT (R378)
  ⟨0xA0400, 1, 0x1, 1, 0x1, false, [⟨3, 0, .rw, false, some (1, 8)⟩]⟩, -- TIER_CTL (R378)
  ⟨0xA0404, 1, 0x1, 1, 0x1, false, [⟨15, 0, .rw, false, some (10, 65535)⟩]⟩, -- TIER_LATE_LIMIT (R378)
  ⟨0xA0800, 1, 0x1, 1, 0x1, true, [⟨47, 0, .ro, false, none⟩]⟩, -- TIER_PROMOTE_CNT (R378)
  ⟨0xA0808, 1, 0x1, 1, 0x1, true, [⟨47, 0, .ro, false, none⟩]⟩, -- TIER_DEMOTE_CNT (R378)
  ⟨0xA0810, 1, 0x1, 1, 0x1, true, [⟨47, 0, .ro, false, none⟩]⟩, -- TIER_POOL_EVICT_CNT (R378)
  ⟨0xA0818, 1, 0x1, 1, 0x1, true, [⟨47, 0, .ro, false, none⟩]⟩, -- TIER_LATE_CNT (R378)
  ⟨0xA0820, 1, 0x1, 1, 0x1, true, [⟨47, 0, .ro, false, none⟩]⟩, -- TIER_FAIL_CNT (R378)
  ⟨0xA0828, 1, 0x1, 1, 0x1, true, [⟨47, 0, .ro, false, none⟩]⟩, -- TIER_ADVICE_SHORT_CNT (R378)
  ⟨0xA0830, 1, 0x1, 1, 0x1, true, [⟨47, 0, .ro, false, none⟩]⟩] -- TIER_FETCH_BYTE_CNT (R378)

/-- The STW_ registers. -/
def rowsStw : List RRow := [
  ⟨0xB0000, 8, 0x100, 1, 0x1, false, [⟨31, 29, .ro, false, none⟩, ⟨28, 20, .w1c, false, none⟩, ⟨19, 10, .ro, false, none⟩, ⟨9, 7, .ro, false, none⟩]⟩, -- STW_PORT_STATUS (R412)
  ⟨0xB0004, 8, 0x100, 1, 0x1, false, [⟨31, 31, .w1s, false, none⟩, ⟨30, 30, .w1c, false, none⟩, ⟨2, 0, .rw, false, some (0, 3)⟩]⟩, -- STW_PORT_CMD (R412)
  ⟨0xB0800, 1, 0x1, 1, 0x1, false, [⟨31, 24, .ro, true, none⟩, ⟨15, 0, .ro, true, none⟩]⟩, -- STW_CFG (R412)
  ⟨0xB0804, 1, 0x1, 1, 0x1, false, [⟨15, 0, .rw, false, some (10, 65535)⟩]⟩, -- STW_PEER_TIMEOUT (R412)
  ⟨0xB0810, 4, 0x4, 1, 0x1, false, [⟨31, 0, .ro, false, none⟩]⟩, -- STW_SPAN_STATE (R412)
  ⟨0xB0900, 1, 0x1, 1, 0x1, true, [⟨47, 0, .ro, false, none⟩]⟩, -- STW_REPLAY_CNT (R412)
  ⟨0xB0908, 1, 0x1, 1, 0x1, true, [⟨47, 0, .ro, false, none⟩]⟩, -- STW_TAG_FAIL_CNT (R412)
  ⟨0xB0910, 1, 0x1, 1, 0x1, true, [⟨47, 0, .ro, false, none⟩]⟩, -- STW_CONTAIN_CNT (R412)
  ⟨0xB0918, 1, 0x1, 1, 0x1, true, [⟨47, 0, .ro, false, none⟩]⟩, -- STW_DISCARD_CNT (R412)
  ⟨0xB0920, 1, 0x1, 1, 0x1, true, [⟨47, 0, .ro, false, none⟩]⟩] -- STW_LEAVE_CNT (R412)

/-- The ETH_ registers. -/
def rowsEth : List RRow := [
  ⟨0xC0000, 1, 0x1, 1, 0x1, false, [⟨27, 16, .ro, true, none⟩, ⟨12, 12, .ro, true, none⟩, ⟨11, 8, .ro, true, none⟩, ⟨6, 4, .ro, true, none⟩, ⟨2, 0, .ro, true, none⟩]⟩, -- ETH_CFG (R412)
  ⟨0xC0008, 1, 0x1, 1, 0x1, true, [⟨47, 0, .ro, true, none⟩]⟩, -- ETH_MAC_BASE (R412)
  ⟨0xC0010, 1, 0x1, 1, 0x1, true, [⟨45, 0, .ro, true, none⟩]⟩, -- ETH_EP_BASE (R412)
  ⟨0xC0100, 16, 0x4, 1, 0x1, false, [⟨31, 31, .ro, false, none⟩, ⟨30, 30, .ro, true, none⟩]⟩, -- ETH_PORT_STATUS (R412)
  ⟨0xC0800, 1, 0x1, 1, 0x1, true, [⟨47, 0, .ro, false, none⟩]⟩, -- ETH_RX_DROP_CNT (R412)
  ⟨0xC0808, 1, 0x1, 1, 0x1, true, [⟨47, 0, .ro, false, none⟩]⟩, -- ETH_SRT_RETX_CNT (R412)
  ⟨0xC0810, 1, 0x1, 1, 0x1, true, [⟨47, 0, .ro, false, none⟩]⟩] -- ETH_ROCE_RETRY_CNT (R412)

/-- The SEC_ registers. -/
def rowsSec : List RRow := [
  ⟨0xD0000, 1, 0x1, 1, 0x1, false, [⟨29, 16, .ro, false, none⟩, ⟨8, 8, .ro, false, none⟩, ⟨7, 7, .ro, false, none⟩, ⟨6, 6, .ro, false, none⟩, ⟨5, 4, .ro, true, none⟩, ⟨3, 1, .ro, true, none⟩, ⟨0, 0, .ro, true, none⟩]⟩, -- SEC_STATUS (R461)
  ⟨0xD0004, 1, 0x1, 1, 0x1, false, [⟨16, 16, .ro, true, none⟩, ⟨15, 0, .ro, true, none⟩]⟩, -- SEC_SEAL (R461)
  ⟨0xD0008, 1, 0x1, 1, 0x1, false, [⟨15, 8, .ro, false, none⟩, ⟨7, 0, .ro, true, none⟩]⟩, -- SEC_FW_SVN (R461)
  ⟨0xD0010, 1, 0x1, 1, 0x1, false, [⟨4, 0, .rw, false, some (0, 23)⟩]⟩, -- SEC_HM_SEL (R461)
  ⟨0xD0018, 6, 0x8, 1, 0x1, true, [⟨63, 0, .ro, false, none⟩]⟩, -- SEC_HM_DATA (R461)
  ⟨0xD0100, 2, 0x40, 1, 0x1, true, [⟨63, 0, .rw, false, none⟩]⟩, -- SEC_CMD_ADDR (R461)
  ⟨0xD0108, 2, 0x40, 1, 0x1, false, [⟨22, 0, .rw, false, none⟩]⟩, -- SEC_CMD_LEN (R461)
  ⟨0xD0110, 2, 0x40, 1, 0x1, false, [⟨31, 31, .w1s, false, none⟩, ⟨30, 27, .rw, false, some (0, 7)⟩, ⟨13, 10, .rw, false, none⟩, ⟨5, 0, .rw, false, none⟩]⟩, -- SEC_CMD (R461)
  ⟨0xD0114, 2, 0x40, 1, 0x1, false, [⟨31, 31, .w1c, false, none⟩, ⟨30, 28, .ro, false, none⟩]⟩, -- SEC_CMD_STATUS (R461)
  ⟨0xD0200, 16, 0x4, 1, 0x1, false, [⟨31, 0, .ro, false, none⟩]⟩, -- SEC_EPOCH (R461)
  ⟨0xD0280, 16, 0x8, 1, 0x1, true, [⟨63, 0, .ro, false, none⟩]⟩, -- SEC_SLOTS (R461)
  ⟨0xD0300, 1, 0x1, 1, 0x1, true, [⟨63, 0, .ro, true, none⟩]⟩, -- SEC_DEBUG_NONCE (R461)
  ⟨0xD0800, 1, 0x1, 1, 0x1, true, [⟨47, 0, .ro, false, none⟩]⟩, -- SEC_UNWRAP_FAIL_CNT (R461)
  ⟨0xD0808, 1, 0x1, 1, 0x1, true, [⟨47, 0, .ro, false, none⟩]⟩, -- SEC_SPILL_FAIL_CNT (R461)
  ⟨0xD0810, 1, 0x1, 1, 0x1, true, [⟨47, 0, .ro, false, none⟩]⟩, -- SEC_HOST_DENY_CNT (R461)
  ⟨0xD0818, 1, 0x1, 1, 0x1, true, [⟨47, 0, .ro, false, none⟩]⟩, -- SEC_SESSION_CNT (R461)
  ⟨0xD0820, 1, 0x1, 1, 0x1, true, [⟨47, 0, .ro, false, none⟩]⟩] -- SEC_LINK_REKEY_CNT (R461)

/-- The CORE_ registers. -/
def rowsCore : List RRow := [
  ⟨0x100000, 256, 0x1000, 1, 0x1, false, [⟨21, 16, .ro, true, none⟩, ⟨15, 12, .ro, true, none⟩, ⟨11, 8, .ro, true, none⟩, ⟨7, 0, .ro, true, none⟩]⟩, -- CORE_ID (R125)
  ⟨0x100004, 256, 0x1000, 1, 0x1, false, [⟨19, 16, .ro, true, none⟩, ⟨15, 15, .ro, false, none⟩, ⟨14, 14, .ro, false, none⟩, ⟨10, 8, .ro, false, none⟩, ⟨4, 0, .ro, false, none⟩]⟩, -- CORE_STATUS (R125)
  ⟨0x100008, 256, 0x1000, 1, 0x1, false, [⟨31, 23, .ro, false, none⟩, ⟨22, 14, .ro, false, none⟩, ⟨13, 7, .ro, false, none⟩, ⟨6, 2, .ro, false, none⟩]⟩, -- CORE_OCC (R125)
  ⟨0x100010, 256, 0x1000, 1, 0x1, false, [⟨31, 31, .w1s, false, none⟩, ⟨30, 30, .w1c, false, none⟩, ⟨15, 0, .rw, false, none⟩]⟩, -- CORE_PREEMPT (R125)
  ⟨0x100014, 256, 0x1000, 1, 0x1, false, [⟨31, 31, .w1s, false, none⟩, ⟨30, 30, .rw, false, none⟩, ⟨15, 0, .rw, false, none⟩]⟩, -- CORE_RESUME (R125)
  ⟨0x100020, 256, 0x1000, 1, 0x1, true, [⟨55, 0, .ro, true, none⟩]⟩, -- CORE_SAVE_BASE (R125)
  ⟨0x100100, 256, 0x1000, 16, 0x4, false, [⟨31, 31, .ro, false, none⟩, ⟨30, 28, .ro, false, none⟩, ⟨27, 26, .ro, false, none⟩, ⟨25, 24, .ro, false, none⟩, ⟨21, 16, .ro, false, none⟩, ⟨15, 0, .ro, false, none⟩]⟩, -- CORE_TEAM_STATE (R125)
  ⟨0x100200, 256, 0x1000, 1, 0x1, false, [⟨31, 31, .w1c, false, none⟩, ⟨19, 16, .ro, false, none⟩, ⟨15, 14, .ro, false, none⟩, ⟨13, 8, .ro, false, none⟩, ⟨7, 0, .ro, false, none⟩]⟩, -- CORE_FAULT_INFO (R125)
  ⟨0x100208, 256, 0x1000, 1, 0x1, true, [⟨63, 48, .ro, false, none⟩, ⟨47, 0, .ro, false, none⟩]⟩, -- CORE_FAULT_PC (R125)
  ⟨0x100210, 256, 0x1000, 1, 0x1, false, [⟨31, 0, .ro, false, none⟩]⟩, -- CORE_FAULT_MASK (R125)
  ⟨0x100218, 256, 0x1000, 1, 0x1, true, [⟨63, 0, .ro, false, none⟩]⟩, -- CORE_FAULT_ADDR (R125)
  ⟨0x100300, 256, 0x1000, 1, 0x1, true, [⟨47, 0, .ro, false, none⟩]⟩, -- CORE_YIELD_CNT (R125)
  ⟨0x100308, 256, 0x1000, 1, 0x1, true, [⟨47, 0, .ro, false, none⟩]⟩, -- CORE_PREEMPT_CNT (R125)
  ⟨0x100310, 256, 0x1000, 1, 0x1, true, [⟨47, 0, .ro, false, none⟩]⟩, -- CORE_SPILL_CNT (R125)
  ⟨0x100318, 256, 0x1000, 1, 0x1, true, [⟨47, 0, .ro, false, none⟩]⟩, -- CORE_COMBINE_CNT (R125)
  ⟨0x100320, 256, 0x1000, 1, 0x1, true, [⟨47, 0, .ro, false, none⟩]⟩] -- CORE_FAULT_CNT (R125)

/-- The FMT_ registers. -/
def rowsFmt : List RRow := [
  ⟨0x100C00, 256, 0x1000, 1, 0x1, false, [⟨13, 13, .rw, false, none⟩, ⟨12, 12, .rw, false, none⟩, ⟨8, 4, .rw, false, some (0, 16)⟩, ⟨3, 3, .w1s, false, none⟩, ⟨1, 0, .rw, false, some (0, 2)⟩]⟩, -- FMT_GUARD_CTL (R88)
  ⟨0x100C04, 256, 0x1000, 1, 0x1, false, [⟨8, 8, .w1c, false, none⟩, ⟨7, 7, .w1c, false, none⟩, ⟨6, 6, .w1c, false, none⟩, ⟨5, 5, .w1c, false, none⟩, ⟨4, 4, .w1c, false, none⟩, ⟨3, 3, .w1c, false, none⟩, ⟨2, 2, .w1c, false, none⟩, ⟨1, 1, .w1c, false, none⟩, ⟨0, 0, .w1c, false, none⟩]⟩, -- FMT_STATUS (R88)
  ⟨0x100C08, 256, 0x1000, 1, 0x1, true, [⟨63, 0, .wo, false, none⟩]⟩, -- FMT_SR_SEED (R88)
  ⟨0x100C10, 256, 0x1000, 1, 0x1, true, [⟨47, 0, .ro, false, none⟩]⟩, -- FMT_CLIP_CNT (R88)
  ⟨0x100C18, 256, 0x1000, 1, 0x1, true, [⟨47, 0, .ro, false, none⟩]⟩, -- FMT_BLOCK_CNT (R88)
  ⟨0x100C20, 256, 0x1000, 1, 0x1, true, [⟨47, 0, .ro, false, none⟩]⟩, -- FMT_FLAG_CNT (R88)
  ⟨0x100C28, 256, 0x1000, 1, 0x1, true, [⟨47, 0, .ro, false, none⟩]⟩, -- FMT_ESC_CNT (R88)
  ⟨0x100C30, 256, 0x1000, 1, 0x1, true, [⟨47, 0, .ro, false, none⟩]⟩] -- FMT_ESC_REFUSED_CNT (R88)

/-- The CNT_ registers. -/
def rowsCnt : List RRow := [
  ⟨0x1400000, 1, 0x1, 1, 0x1, false, [⟨31, 31, .rw, false, none⟩, ⟨30, 30, .w1s, false, none⟩]⟩, -- CNT_CTL (R506)
  ⟨0x1400100, 32, 0x4, 1, 0x1, false, [⟨31, 28, .rw, false, some (0, 11)⟩, ⟨25, 16, .rw, false, none⟩, ⟨7, 0, .rw, false, none⟩]⟩, -- CNT_SEL (R506)
  ⟨0x1400800, 32, 0x8, 1, 0x1, true, [⟨47, 0, .ro, false, none⟩]⟩] -- CNT (R506)

/-- Registers whose reset value is not zero: base, counts, strides, value (R18). -/
def resetRows : List (Nat × Nat × Nat × Nat × Nat × Nat) := [
  (0x0, 1, 0x1, 1, 0x1, 0x120102),
  (0x4, 1, 0x1, 1, 0x1, 0x71401F6C),
  (0x10084, 1, 0x1, 1, 0x1, 0xFFFF),
  (0x10118, 1, 0x1, 1, 0x1, 0xFFFF),
  (0x1011C, 1, 0x1, 1, 0x1, 0x2710),
  (0x20000, 1, 0x1, 1, 0x1, 0x50000000),
  (0x20048, 1, 0x1, 1, 0x1, 0xA0000),
  (0x30000, 1, 0x1, 1, 0x1, 0x578),
  (0x30004, 1, 0x1, 1, 0x1, 0x24),
  (0x30024, 1, 0x1, 1, 0x1, 0x64003E8),
  (0x30028, 1, 0x1, 1, 0x1, 0xA0014),
  (0x3002C, 1, 0x1, 1, 0x1, 0x5F),
  (0x30100, 256, 0x4, 1, 0x1, 0xC0000000),
  (0x4000C, 1, 0x1, 1, 0x1, 0x8014407D),
  (0x50208, 1, 0x1, 1, 0x1, 0x60000),
  (0x50224, 1, 0x1, 1, 0x1, 0x2710),
  (0x50228, 1, 0x1, 1, 0x1, 0x3E8),
  (0x60080, 1, 0x1, 1, 0x1, 0xFFFF),
  (0x60084, 1, 0x1, 1, 0x1, 0xFFFF),
  (0x70010, 1, 0x1, 1, 0x1, 0x320010),
  (0x8040C, 1, 0x1, 1, 0x1, 0x3E8),
  (0x80410, 1, 0x1, 1, 0x1, 0x100),
  (0x90200, 1, 0x1, 1, 0x1, 0x64),
  (0x90500, 16, 0x4, 1, 0x1, 0x1),
  (0xA0400, 1, 0x1, 1, 0x1, 0x2),
  (0xA0404, 1, 0x1, 1, 0x1, 0x7D0),
  (0xB0804, 1, 0x1, 1, 0x1, 0x64),
  (0x100004, 256, 0x1000, 1, 0x1, 0x8000),
  (0x100008, 256, 0x1000, 1, 0x1, 0x80402040),
  (0x100C00, 256, 0x1000, 1, 0x1, 0x100)]

/-- Is `off` the offset of a register of the array (`base`, `n1`, `s1`, `n2`, `s2`)? -/
def atArray (base n1 s1 n2 s2 off : Nat) : Bool :=
  if off < base then false
  else
    let d := off - base
    let i := if n1 ≤ 1 then 0 else d / s1
    let e := d - i * s1
    let j := if n2 ≤ 1 then 0 else e / s2
    i < n1 && j < n2 && (if n1 ≤ 1 then d else e) - j * s2 == 0

/-- The numeric Reset value of the register at `off` (R18): zero where the table says so, and where the Reset entry is
"Setting", "Fuse", "Random" or "—". -/
def resetOf (off : Nat) : Nat :=
  go resetRows
where
  go : List (Nat × Nat × Nat × Nat × Nat × Nat) → Nat
    | [] => 0
    | (b, n1, s1, n2, s2, v) :: r => if atArray b n1 s1 n2 s2 off then v else go r

/-- The rows of the region that holds `off` (Table 00.5). -/
def rowsAt (off : Nat) : List RRow :=

  if off < 0x10000 || (0x80000 ≤ off && off < 0x90000) then rowsEp
  else if off < 0x20000 then rowsSet
  else if off < 0x30000 then rowsErr
  else if off < 0x40000 then rowsPwr
  else if off < 0x50000 then rowsNwl
  else if off < 0x60000 then rowsXlt
  else if off < 0x70000 then rowsL2c
  else if off < 0x80000 then rowsHome
  else if off < 0xA0000 then rowsSq
  else if off < 0xB0000 then rowsTier
  else if off < 0xC0000 then rowsStw
  else if off < 0xD0000 then rowsEth
  else if off < 0xE0000 then rowsSec
  else if off < 0x100000 then []
  else if off < 0x200000 then (if off % 0x1000 < 0xC00 then rowsCore else rowsFmt)
  else if off < 0x1400000 then []
  else rowsCnt

/-- The register that holds the 32-bit word at the aligned offset `off`: its row and its own offset. -/
def findReg (off : Nat) : Option (RRow × Nat) :=
  go (rowsAt off)
where
  go : List RRow → Option (RRow × Nat)
    | [] => none
    | r :: rs =>
      if atArray r.base r.n1 r.s1 r.n2 r.s2 off then some (r, off)
      else if r.wide && 4 ≤ off && atArray r.base r.n1 r.s1 r.n2 r.s2 (off - 4) then some (r, off - 4)
      else go rs

def Reg.EP_VERSION : Nat := 0x0
def Reg.EP_IDENT : Nat := 0x4
def Reg.EP_SERIAL : Nat := 0x8
def Reg.EP_STATE : Nat := 0x10
def Reg.SET_STATUS : Nat := 0x10000
def Reg.SET_LOAD_ADDR : Nat := 0x10008
def Reg.SET_LOAD_CMD : Nat := 0x10010
def Reg.SET_LOAD_STATUS : Nat := 0x10014
def Reg.SET_DIGEST (i : Nat) : Nat := 0x10040 + 0x8 * i
def Reg.SET_PART_RUN : Nat := 0x10080
def Reg.SET_PART_STATE : Nat := 0x10084
def Reg.SET_CLASP_CMD : Nat := 0x10100
def Reg.SET_CLASP_ADDR : Nat := 0x10108
def Reg.SET_CLASP_LEN : Nat := 0x10110
def Reg.SET_CLASP_STATUS : Nat := 0x10114
def Reg.SET_CLASP_STATE : Nat := 0x10118
def Reg.SET_CLASP_TIMEOUT : Nat := 0x1011C
def Reg.SET_LOAD_CNT : Nat := 0x10800
def Reg.SET_COMMIT_CNT : Nat := 0x10808
def Reg.SET_ROLLBACK_CNT : Nat := 0x10810
def Reg.SET_REFUSE_CNT : Nat := 0x10818
def Reg.ERR_CTL : Nat := 0x20000
def Reg.ERR_STATUS : Nat := 0x20004
def Reg.ERR_OPEN_PART : Nat := 0x20008
def Reg.ERR_VIOL_HEAD : Nat := 0x2000C
def Reg.ERR_LAST_FATAL : Nat := 0x20010
def Reg.ERR_LOUPE : Nat := 0x20020
def Reg.ERR_TRACE_BASE : Nat := 0x20040
def Reg.ERR_TRACE_CTL : Nat := 0x20048
def Reg.ERR_TRACE_PROD : Nat := 0x20050
def Reg.ERR_DISCARD_CNT : Nat := 0x20800
def Reg.ERR_CORR_CNT : Nat := 0x20808
def Reg.ERR_DEFER_CNT : Nat := 0x20810
def Reg.ERR_CONTAIN_CNT : Nat := 0x20818
def Reg.ERR_VIOL_CNT : Nat := 0x20820
def Reg.ERR_DROP_CNT : Nat := 0x20828
def Reg.PWR_CAP : Nat := 0x30000
def Reg.PWR_PRIO : Nat := 0x30004
def Reg.PWR_STATUS : Nat := 0x30008
def Reg.PWR_STOP_CAUSE : Nat := 0x3000C
def Reg.PWR_POWER : Nat := 0x30010
def Reg.PWR_POWER_CAT : Nat := 0x30018
def Reg.PWR_TEMP : Nat := 0x30020
def Reg.PWR_DOM_CLK : Nat := 0x30024
def Reg.PWR_SLEEP_CFG : Nat := 0x30028
def Reg.PWR_HBM_TLIM : Nat := 0x3002C
def Reg.PWR_TELEM_CTL : Nat := 0x30030
def Reg.PWR_INT_CTL : Nat := 0x30034
def Reg.PWR_INT_STATUS : Nat := 0x30038
def Reg.PWR_TILE (i : Nat) : Nat := 0x30100 + 0x4 * i
def Reg.PWR_ENERGY_TOTAL : Nat := 0x30800
def Reg.PWR_ENERGY_COMPUTE : Nat := 0x30808
def Reg.PWR_ENERGY_MEMORY : Nat := 0x30810
def Reg.PWR_ENERGY_LINKS : Nat := 0x30818
def Reg.PWR_ENERGY_HBM : Nat := 0x30820
def Reg.PWR_THROTTLE_CNT : Nat := 0x30840
def Reg.PWR_DROOP_CNT : Nat := 0x30848
def Reg.PWR_CAP_BIND_CNT : Nat := 0x30850
def Reg.PWR_FAST_LIMIT_CNT : Nat := 0x30858
def Reg.PWR_FLOOR_REL_CNT : Nat := 0x30860
def Reg.NWL_TIME : Nat := 0x40000
def Reg.NWL_STATUS : Nat := 0x40008
def Reg.NWL_SLIP_CFG : Nat := 0x4000C
def Reg.NWL_FLIGHT (i : Nat) : Nat := 0x40040 + 0x4 * i
def Reg.NWL_LAND_SEL (i : Nat) : Nat := 0x40100 + 0x40 * i
def Reg.NWL_LAND_DATA (i k : Nat) : Nat := 0x40108 + 0x40 * i + 0x8 * k
def Reg.NWL_LAND_CMD (i : Nat) : Nat := 0x40128 + 0x40 * i
def Reg.NWL_LAND_STATUS (i : Nat) : Nat := 0x4012C + 0x40 * i
def Reg.NWL_FIRE_CNT : Nat := 0x40800
def Reg.NWL_CANCEL_CNT : Nat := 0x40808
def Reg.NWL_SLIP_SENT_CNT : Nat := 0x40810
def Reg.NWL_SLIP_RCVD_CNT : Nat := 0x40818
def Reg.NWL_SLIP_NS_CNT : Nat := 0x40820
def Reg.NWL_SLIP_MISS_CNT : Nat := 0x40828
def Reg.XLT_CFG : Nat := 0x50000
def Reg.XLT_CTX_BASE : Nat := 0x50008
def Reg.XLT_HOST_BASE : Nat := 0x50010
def Reg.XLT_WIN_BASE : Nat := 0x50018
def Reg.XLT_CMD_ADDR (i : Nat) : Nat := 0x50100 + 0x20 * i
def Reg.XLT_CMD_LEN (i : Nat) : Nat := 0x50108 + 0x20 * i
def Reg.XLT_CMD (i : Nat) : Nat := 0x50110 + 0x20 * i
def Reg.XLT_CMD_STATUS (i : Nat) : Nat := 0x50114 + 0x20 * i
def Reg.XLT_RING_BASE : Nat := 0x50200
def Reg.XLT_RING_CTL : Nat := 0x50208
def Reg.XLT_RING_PROD : Nat := 0x5020C
def Reg.XLT_RING_CONS : Nat := 0x50210
def Reg.XLT_FAULT_RESP : Nat := 0x50218
def Reg.XLT_FAULT_STATUS : Nat := 0x50220
def Reg.XLT_FAULT_LIMIT : Nat := 0x50224
def Reg.XLT_DRAIN_LIMIT : Nat := 0x50228
def Reg.XLT_WIN_CMD : Nat := 0x50300
def Reg.XLT_WIN_STATUS : Nat := 0x50304
def Reg.XLT_WIN_LAST : Nat := 0x50308
def Reg.XLT_STLB_HIT_CNT : Nat := 0x50400
def Reg.XLT_WALK_CNT : Nat := 0x50408
def Reg.XLT_FAULT_CNT : Nat := 0x50410
def Reg.XLT_STALL_CNT : Nat := 0x50418
def Reg.XLT_LIMIT_FAIL_CNT : Nat := 0x50420
def Reg.XLT_DRAIN_DROP_CNT : Nat := 0x50428
def Reg.XLT_WIN_REFUSED_CNT : Nat := 0x50430
def Reg.XLT_STALE_RESP_CNT : Nat := 0x50438
def Reg.L2C_CFG : Nat := 0x60000
def Reg.L2C_PART_WAYS (i : Nat) : Nat := 0x60040 + 0x4 * i
def Reg.L2C_WAY_PWR : Nat := 0x60080
def Reg.L2C_WAY_STATE : Nat := 0x60084
def Reg.L2C_MNT_ENG_BUSY : Nat := 0x60090
def Reg.L2C_HBM_POISON (i : Nat) : Nat := 0x600A0 + 0x4 * i
def Reg.L2C_MNT_ADDR (i : Nat) : Nat := 0x60100 + 0x20 * i
def Reg.L2C_MNT_LEN (i : Nat) : Nat := 0x60108 + 0x20 * i
def Reg.L2C_MNT_CMD (i : Nat) : Nat := 0x60110 + 0x20 * i
def Reg.L2C_MNT_STATUS (i : Nat) : Nat := 0x60114 + 0x20 * i
def Reg.L2C_MNT_COUNT (i : Nat) : Nat := 0x60118 + 0x20 * i
def Reg.L2C_L1_DIS (i : Nat) : Nat := 0x60400 + 0x4 * i
def Reg.L2C_HIT_CNT : Nat := 0x60800
def Reg.L2C_MISS_CNT : Nat := 0x60808
def Reg.L2C_DIRTY_EVICT_CNT : Nat := 0x60810
def Reg.L2C_MSC_HIT_CNT : Nat := 0x60818
def Reg.L2C_MSC_DECLINE_CNT : Nat := 0x60820
def Reg.L2C_LOCK_SHORT_CNT : Nat := 0x60828
def Reg.L2C_PARITY_CNT : Nat := 0x60830
def Reg.HOME_CFG : Nat := 0x70000
def Reg.HOME_MODE : Nat := 0x70004
def Reg.HOME_TIMING : Nat := 0x70010
def Reg.HOME_DIR_USED : Nat := 0x70020
def Reg.HOME_PURGE : Nat := 0x70024
def Reg.HOME_BIAS_BASE : Nat := 0x70040
def Reg.HOME_BIAS_ADDR : Nat := 0x70048
def Reg.HOME_BIAS_CMD : Nat := 0x70050
def Reg.HOME_BIAS_STATUS : Nat := 0x70054
def Reg.HOME_RETRY_CNT : Nat := 0x70100
def Reg.HOME_STARVE_CNT : Nat := 0x70108
def Reg.HOME_DIR_EVICT_CNT : Nat := 0x70110
def Reg.HOME_BISNP_CNT : Nat := 0x70118
def Reg.HOME_BICONFLICT_CNT : Nat := 0x70120
def Reg.HOME_FWD_CNT : Nat := 0x70128
def Reg.HOME_TIMEOUT_CNT : Nat := 0x70130
def Reg.HOME_LATE_CNT : Nat := 0x70138
def Reg.HOME_HOLD_WAIT_CNT : Nat := 0x70140
def Reg.EP_INT_MODE : Nat := 0x80000
def Reg.EP_INT_SUMMARY : Nat := 0x80008
def Reg.EP_INT_PEND (i : Nat) : Nat := 0x80100 + 0x4 * i
def Reg.EP_CONT_STATUS : Nat := 0x80400
def Reg.EP_CONT_RELEASE : Nat := 0x80404
def Reg.EP_CONT_HELD : Nat := 0x80408
def Reg.EP_HOLD_LIMIT : Nat := 0x8040C
def Reg.EP_TAG_LIMIT : Nat := 0x80410
def Reg.EP_CONT_CNT : Nat := 0x80800
def Reg.EP_HELD_POISON_CNT : Nat := 0x80808
def Reg.EP_REFUSED_CNT : Nat := 0x80810
def Reg.EP_RETRAIN_CNT : Nat := 0x80818
def Reg.EP_CPL_TIMEOUT_CNT : Nat := 0x80820
def Reg.SQ_CMD_BASE (i : Nat) : Nat := 0x90000 + 0x40 * i
def Reg.SQ_CMD_ARG (i : Nat) : Nat := 0x90008 + 0x40 * i
def Reg.SQ_CMD_VIEW (i : Nat) : Nat := 0x90010 + 0x40 * i
def Reg.SQ_CMD (i : Nat) : Nat := 0x90018 + 0x40 * i
def Reg.SQ_CMD_CQCFG (i : Nat) : Nat := 0x9001C + 0x40 * i
def Reg.SQ_CMD_STATUS (i : Nat) : Nat := 0x90020 + 0x40 * i
def Reg.SQ_ERR_INFO : Nat := 0x90100
def Reg.SQ_ERR_SEQ : Nat := 0x90104
def Reg.SQ_SCHED : Nat := 0x90200
def Reg.SQ_PART_RES (i : Nat) : Nat := 0x90400 + 0x8 * i
def Reg.SQ_C0_COND (i : Nat) : Nat := 0x90500 + 0x4 * i
def Reg.SQ_QUAL_SEL : Nat := 0x90600
def Reg.SQ_QUAL_HDR : Nat := 0x90604
def Reg.SQ_QUAL_PT (i : Nat) : Nat := 0x90608 + 0x8 * i
def Reg.SQ_DB_CNT : Nat := 0x90800
def Reg.SQ_DB_BAD_CNT : Nat := 0x90808
def Reg.SQ_REFETCH_CNT : Nat := 0x90810
def Reg.SQ_QERR_CNT : Nat := 0x90818
def Reg.SQ_C0_ADMIT_CNT : Nat := 0x90820
def Reg.SQ_C0_REFUSE_CNT : Nat := 0x90828
def Reg.SQ_C0_VOID_CNT : Nat := 0x90830
def Reg.SQ_C0_MISS_CNT : Nat := 0x90838
def Reg.TIER_CMD_ADDR (i : Nat) : Nat := 0xA0000 + 0x40 * i
def Reg.TIER_CMD_LEN (i : Nat) : Nat := 0xA0008 + 0x40 * i
def Reg.TIER_CMD (i : Nat) : Nat := 0xA0010 + 0x40 * i
def Reg.TIER_CMD_AUX (i : Nat) : Nat := 0xA0014 + 0x40 * i
def Reg.TIER_CMD_STATUS (i : Nat) : Nat := 0xA0018 + 0x40 * i
def Reg.TIER_CMD_VIEW (i : Nat) : Nat := 0xA0020 + 0x40 * i
def Reg.TIER_CMD_VIEW2 (i : Nat) : Nat := 0xA0028 + 0x40 * i
def Reg.TIER_CAT (i : Nat) : Nat := 0xA0030 + 0x40 * i
def Reg.TIER_CAT_CTL (i : Nat) : Nat := 0xA0038 + 0x40 * i
def Reg.TIER_QUOTA (i : Nat) : Nat := 0xA0200 + 0x8 * i
def Reg.TIER_USE (i : Nat) : Nat := 0xA0280 + 0x8 * i
def Reg.TIER_POOL : Nat := 0xA0300
def Reg.TIER_POOL_USE : Nat := 0xA0308
def Reg.TIER_VA_ROOT (i : Nat) : Nat := 0xA0380 + 0x8 * i
def Reg.TIER_CTL : Nat := 0xA0400
def Reg.TIER_LATE_LIMIT : Nat := 0xA0404
def Reg.TIER_PROMOTE_CNT : Nat := 0xA0800
def Reg.TIER_DEMOTE_CNT : Nat := 0xA0808
def Reg.TIER_POOL_EVICT_CNT : Nat := 0xA0810
def Reg.TIER_LATE_CNT : Nat := 0xA0818
def Reg.TIER_FAIL_CNT : Nat := 0xA0820
def Reg.TIER_ADVICE_SHORT_CNT : Nat := 0xA0828
def Reg.TIER_FETCH_BYTE_CNT : Nat := 0xA0830
def Reg.STW_PORT_STATUS (i : Nat) : Nat := 0xB0000 + 0x100 * i
def Reg.STW_PORT_CMD (i : Nat) : Nat := 0xB0004 + 0x100 * i
def Reg.STW_CFG : Nat := 0xB0800
def Reg.STW_PEER_TIMEOUT : Nat := 0xB0804
def Reg.STW_SPAN_STATE (i : Nat) : Nat := 0xB0810 + 0x4 * i
def Reg.STW_REPLAY_CNT : Nat := 0xB0900
def Reg.STW_TAG_FAIL_CNT : Nat := 0xB0908
def Reg.STW_CONTAIN_CNT : Nat := 0xB0910
def Reg.STW_DISCARD_CNT : Nat := 0xB0918
def Reg.STW_LEAVE_CNT : Nat := 0xB0920
def Reg.ETH_CFG : Nat := 0xC0000
def Reg.ETH_MAC_BASE : Nat := 0xC0008
def Reg.ETH_EP_BASE : Nat := 0xC0010
def Reg.ETH_PORT_STATUS (i : Nat) : Nat := 0xC0100 + 0x4 * i
def Reg.ETH_RX_DROP_CNT : Nat := 0xC0800
def Reg.ETH_SRT_RETX_CNT : Nat := 0xC0808
def Reg.ETH_ROCE_RETRY_CNT : Nat := 0xC0810
def Reg.SEC_STATUS : Nat := 0xD0000
def Reg.SEC_SEAL : Nat := 0xD0004
def Reg.SEC_FW_SVN : Nat := 0xD0008
def Reg.SEC_HM_SEL : Nat := 0xD0010
def Reg.SEC_HM_DATA (i : Nat) : Nat := 0xD0018 + 0x8 * i
def Reg.SEC_CMD_ADDR (i : Nat) : Nat := 0xD0100 + 0x40 * i
def Reg.SEC_CMD_LEN (i : Nat) : Nat := 0xD0108 + 0x40 * i
def Reg.SEC_CMD (i : Nat) : Nat := 0xD0110 + 0x40 * i
def Reg.SEC_CMD_STATUS (i : Nat) : Nat := 0xD0114 + 0x40 * i
def Reg.SEC_EPOCH (i : Nat) : Nat := 0xD0200 + 0x4 * i
def Reg.SEC_SLOTS (i : Nat) : Nat := 0xD0280 + 0x8 * i
def Reg.SEC_DEBUG_NONCE : Nat := 0xD0300
def Reg.SEC_UNWRAP_FAIL_CNT : Nat := 0xD0800
def Reg.SEC_SPILL_FAIL_CNT : Nat := 0xD0808
def Reg.SEC_HOST_DENY_CNT : Nat := 0xD0810
def Reg.SEC_SESSION_CNT : Nat := 0xD0818
def Reg.SEC_LINK_REKEY_CNT : Nat := 0xD0820
def Reg.CORE_ID (i : Nat) : Nat := 0x100000 + 0x1000 * i
def Reg.CORE_STATUS (i : Nat) : Nat := 0x100004 + 0x1000 * i
def Reg.CORE_OCC (i : Nat) : Nat := 0x100008 + 0x1000 * i
def Reg.CORE_PREEMPT (i : Nat) : Nat := 0x100010 + 0x1000 * i
def Reg.CORE_RESUME (i : Nat) : Nat := 0x100014 + 0x1000 * i
def Reg.CORE_SAVE_BASE (i : Nat) : Nat := 0x100020 + 0x1000 * i
def Reg.CORE_TEAM_STATE (i k : Nat) : Nat := 0x100100 + 0x1000 * i + 0x4 * k
def Reg.CORE_FAULT_INFO (i : Nat) : Nat := 0x100200 + 0x1000 * i
def Reg.CORE_FAULT_PC (i : Nat) : Nat := 0x100208 + 0x1000 * i
def Reg.CORE_FAULT_MASK (i : Nat) : Nat := 0x100210 + 0x1000 * i
def Reg.CORE_FAULT_ADDR (i : Nat) : Nat := 0x100218 + 0x1000 * i
def Reg.CORE_YIELD_CNT (i : Nat) : Nat := 0x100300 + 0x1000 * i
def Reg.CORE_PREEMPT_CNT (i : Nat) : Nat := 0x100308 + 0x1000 * i
def Reg.CORE_SPILL_CNT (i : Nat) : Nat := 0x100310 + 0x1000 * i
def Reg.CORE_COMBINE_CNT (i : Nat) : Nat := 0x100318 + 0x1000 * i
def Reg.CORE_FAULT_CNT (i : Nat) : Nat := 0x100320 + 0x1000 * i
def Reg.FMT_GUARD_CTL (i : Nat) : Nat := 0x100C00 + 0x1000 * i
def Reg.FMT_STATUS (i : Nat) : Nat := 0x100C04 + 0x1000 * i
def Reg.FMT_SR_SEED (i : Nat) : Nat := 0x100C08 + 0x1000 * i
def Reg.FMT_CLIP_CNT (i : Nat) : Nat := 0x100C10 + 0x1000 * i
def Reg.FMT_BLOCK_CNT (i : Nat) : Nat := 0x100C18 + 0x1000 * i
def Reg.FMT_FLAG_CNT (i : Nat) : Nat := 0x100C20 + 0x1000 * i
def Reg.FMT_ESC_CNT (i : Nat) : Nat := 0x100C28 + 0x1000 * i
def Reg.FMT_ESC_REFUSED_CNT (i : Nat) : Nat := 0x100C30 + 0x1000 * i
def Reg.CNT_CTL : Nat := 0x1400000
def Reg.CNT_SEL (i : Nat) : Nat := 0x1400100 + 0x4 * i
def Reg.CNT (i : Nat) : Nat := 0x1400800 + 0x8 * i

def Fld.EP_VERSION_REVISION : FRef := ⟨0x0, 23, 16⟩
def Fld.EP_VERSION_MAJOR : FRef := ⟨0x0, 15, 8⟩
def Fld.EP_VERSION_MINOR : FRef := ⟨0x0, 7, 0⟩
def Fld.EP_IDENT_DEVICE : FRef := ⟨0x4, 31, 16⟩
def Fld.EP_IDENT_VENDOR : FRef := ⟨0x4, 15, 0⟩
def Fld.EP_SERIAL_SERIAL : FRef := ⟨0x8, 63, 0⟩
def Fld.EP_STATE_MODULES : FRef := ⟨0x10, 11, 8⟩
def Fld.EP_STATE_STATE : FRef := ⟨0x10, 1, 0⟩
def Fld.SET_STATUS_STATE : FRef := ⟨0x10000, 1, 0⟩
def Fld.SET_LOAD_ADDR_ADDR : FRef := ⟨0x10008, 63, 0⟩
def Fld.SET_LOAD_CMD_GO : FRef := ⟨0x10010, 31, 31⟩
def Fld.SET_LOAD_CMD_SRC : FRef := ⟨0x10010, 30, 30⟩
def Fld.SET_LOAD_CMD_LEN : FRef := ⟨0x10010, 22, 0⟩
def Fld.SET_LOAD_STATUS_DONE : FRef := ⟨0x10014, 31, 31⟩
def Fld.SET_LOAD_STATUS_RESULT : FRef := ⟨0x10014, 30, 28⟩
def Fld.SET_LOAD_STATUS_STEP : FRef := ⟨0x10014, 27, 24⟩
def Fld.SET_LOAD_STATUS_REASON : FRef := ⟨0x10014, 23, 16⟩
def Fld.SET_LOAD_STATUS_DETAIL : FRef := ⟨0x10014, 15, 0⟩
def Fld.SET_DIGEST_DIGEST (i : Nat) : FRef := ⟨0x10040 + 0x8 * i, 63, 0⟩
def Fld.SET_PART_RUN_RUN : FRef := ⟨0x10080, 15, 0⟩
def Fld.SET_PART_STATE_HELD : FRef := ⟨0x10084, 31, 16⟩
def Fld.SET_PART_STATE_STOPPED : FRef := ⟨0x10084, 15, 0⟩
def Fld.SET_CLASP_CMD_GO : FRef := ⟨0x10100, 31, 31⟩
def Fld.SET_CLASP_CMD_OP : FRef := ⟨0x10100, 30, 28⟩
def Fld.SET_CLASP_CMD_PARTITION : FRef := ⟨0x10100, 27, 24⟩
def Fld.SET_CLASP_CMD_LIDX : FRef := ⟨0x10100, 23, 16⟩
def Fld.SET_CLASP_CMD_ID : FRef := ⟨0x10100, 15, 0⟩
def Fld.SET_CLASP_ADDR_ADDR : FRef := ⟨0x10108, 63, 0⟩
def Fld.SET_CLASP_LEN_LEN : FRef := ⟨0x10110, 20, 0⟩
def Fld.SET_CLASP_STATUS_DONE : FRef := ⟨0x10114, 31, 31⟩
def Fld.SET_CLASP_STATUS_RESULT : FRef := ⟨0x10114, 30, 28⟩
def Fld.SET_CLASP_STATUS_REASON : FRef := ⟨0x10114, 23, 16⟩
def Fld.SET_CLASP_STATUS_DETAIL : FRef := ⟨0x10114, 15, 0⟩
def Fld.SET_CLASP_STATE_STATE : FRef := ⟨0x10118, 31, 30⟩
def Fld.SET_CLASP_STATE_OWNER : FRef := ⟨0x10118, 29, 29⟩
def Fld.SET_CLASP_STATE_RECORDS : FRef := ⟨0x10118, 28, 17⟩
def Fld.SET_CLASP_STATE_LAST_ID : FRef := ⟨0x10118, 15, 0⟩
def Fld.SET_CLASP_TIMEOUT_LIMIT : FRef := ⟨0x1011C, 15, 0⟩
def Fld.SET_LOAD_CNT_COUNT : FRef := ⟨0x10800, 47, 0⟩
def Fld.SET_COMMIT_CNT_COUNT : FRef := ⟨0x10808, 47, 0⟩
def Fld.SET_ROLLBACK_CNT_COUNT : FRef := ⟨0x10810, 47, 0⟩
def Fld.SET_REFUSE_CNT_COUNT : FRef := ⟨0x10818, 47, 0⟩
def Fld.ERR_CTL_FREEZE_ON_FATAL : FRef := ⟨0x20000, 31, 31⟩
def Fld.ERR_CTL_ALERT_EN : FRef := ⟨0x20000, 30, 30⟩
def Fld.ERR_CTL_ALERT_CLASS : FRef := ⟨0x20000, 29, 28⟩
def Fld.ERR_CTL_EN_CORR : FRef := ⟨0x20000, 23, 23⟩
def Fld.ERR_CTL_EN_VIOL : FRef := ⟨0x20000, 22, 22⟩
def Fld.ERR_CTL_EN_OPEN : FRef := ⟨0x20000, 21, 21⟩
def Fld.ERR_CTL_VEC : FRef := ⟨0x20000, 10, 0⟩
def Fld.ERR_STATUS_LOST_OPEN : FRef := ⟨0x20004, 31, 31⟩
def Fld.ERR_STATUS_PINNED : FRef := ⟨0x20004, 30, 30⟩
def Fld.ERR_STATUS_OPEN : FRef := ⟨0x20004, 29, 20⟩
def Fld.ERR_STATUS_HEAD : FRef := ⟨0x20004, 8, 0⟩
def Fld.ERR_OPEN_PART_PART : FRef := ⟨0x20008, 15, 0⟩
def Fld.ERR_VIOL_HEAD_HEAD : FRef := ⟨0x2000C, 5, 0⟩
def Fld.ERR_LAST_FATAL_CODE : FRef := ⟨0x20010, 63, 56⟩
def Fld.ERR_LAST_FATAL_UKIND : FRef := ⟨0x20010, 55, 52⟩
def Fld.ERR_LAST_FATAL_UNIT : FRef := ⟨0x20010, 47, 32⟩
def Fld.ERR_LAST_FATAL_VALID : FRef := ⟨0x20010, 0, 0⟩
def Fld.ERR_LOUPE_KEY : FRef := ⟨0x20020, 31, 24⟩
def Fld.ERR_LOUPE_FREEZE : FRef := ⟨0x20020, 0, 0⟩
def Fld.ERR_TRACE_BASE_BASE : FRef := ⟨0x20040, 45, 0⟩
def Fld.ERR_TRACE_CTL_EN : FRef := ⟨0x20048, 31, 31⟩
def Fld.ERR_TRACE_CTL_WRITE_ERR : FRef := ⟨0x20048, 30, 30⟩
def Fld.ERR_TRACE_CTL_SIZE : FRef := ⟨0x20048, 20, 16⟩
def Fld.ERR_TRACE_PROD_PROD : FRef := ⟨0x20050, 63, 0⟩
def Fld.ERR_DISCARD_CNT_COUNT : FRef := ⟨0x20800, 47, 0⟩
def Fld.ERR_CORR_CNT_COUNT : FRef := ⟨0x20808, 47, 0⟩
def Fld.ERR_DEFER_CNT_COUNT : FRef := ⟨0x20810, 47, 0⟩
def Fld.ERR_CONTAIN_CNT_COUNT : FRef := ⟨0x20818, 47, 0⟩
def Fld.ERR_VIOL_CNT_COUNT : FRef := ⟨0x20820, 47, 0⟩
def Fld.ERR_DROP_CNT_COUNT : FRef := ⟨0x20828, 47, 0⟩
def Fld.PWR_CAP_CAP : FRef := ⟨0x30000, 15, 0⟩
def Fld.PWR_PRIO_THIRD : FRef := ⟨0x30004, 5, 4⟩
def Fld.PWR_PRIO_SECOND : FRef := ⟨0x30004, 3, 2⟩
def Fld.PWR_PRIO_FIRST : FRef := ⟨0x30004, 1, 0⟩
def Fld.PWR_STATUS_COOLANT : FRef := ⟨0x30008, 31, 31⟩
def Fld.PWR_STATUS_WITHDRAWN : FRef := ⟨0x30008, 30, 30⟩
def Fld.PWR_STATUS_FAST : FRef := ⟨0x30008, 29, 29⟩
def Fld.PWR_STATUS_BINDING : FRef := ⟨0x30008, 28, 28⟩
def Fld.PWR_STATUS_GRANTED : FRef := ⟨0x30008, 15, 0⟩
def Fld.PWR_STOP_CAUSE_RAIL : FRef := ⟨0x3000C, 2, 2⟩
def Fld.PWR_STOP_CAUSE_TRIP : FRef := ⟨0x3000C, 1, 1⟩
def Fld.PWR_STOP_CAUSE_COOLANT : FRef := ⟨0x3000C, 0, 0⟩
def Fld.PWR_POWER_TOTAL : FRef := ⟨0x30010, 31, 16⟩
def Fld.PWR_POWER_HBM : FRef := ⟨0x30010, 15, 0⟩
def Fld.PWR_POWER_CAT_OTHER : FRef := ⟨0x30018, 63, 48⟩
def Fld.PWR_POWER_CAT_LINKS : FRef := ⟨0x30018, 47, 32⟩
def Fld.PWR_POWER_CAT_MEMORY : FRef := ⟨0x30018, 31, 16⟩
def Fld.PWR_POWER_CAT_COMPUTE : FRef := ⟨0x30018, 15, 0⟩
def Fld.PWR_TEMP_TMAX : FRef := ⟨0x30020, 31, 24⟩
def Fld.PWR_TEMP_SENSOR : FRef := ⟨0x30020, 8, 0⟩
def Fld.PWR_DOM_CLK_FSTEP : FRef := ⟨0x30024, 31, 30⟩
def Fld.PWR_DOM_CLK_FABRIC : FRef := ⟨0x30024, 27, 16⟩
def Fld.PWR_DOM_CLK_GSTEP : FRef := ⟨0x30024, 15, 14⟩
def Fld.PWR_DOM_CLK_GALLERY : FRef := ⟨0x30024, 11, 0⟩
def Fld.PWR_SLEEP_CFG_OFF_HOLD : FRef := ⟨0x30028, 31, 16⟩
def Fld.PWR_SLEEP_CFG_NAP_HOLD : FRef := ⟨0x30028, 15, 0⟩
def Fld.PWR_HBM_TLIM_TLIM : FRef := ⟨0x3002C, 7, 0⟩
def Fld.PWR_TELEM_CTL_PERIOD : FRef := ⟨0x30030, 9, 0⟩
def Fld.PWR_INT_CTL_EN : FRef := ⟨0x30034, 31, 27⟩
def Fld.PWR_INT_CTL_VEC : FRef := ⟨0x30034, 10, 0⟩
def Fld.PWR_INT_STATUS_HBM_HOT : FRef := ⟨0x30038, 4, 4⟩
def Fld.PWR_INT_STATUS_FLOOR : FRef := ⟨0x30038, 3, 3⟩
def Fld.PWR_INT_STATUS_FAST : FRef := ⟨0x30038, 2, 2⟩
def Fld.PWR_INT_STATUS_BIND : FRef := ⟨0x30038, 1, 1⟩
def Fld.PWR_INT_STATUS_STEP : FRef := ⟨0x30038, 0, 0⟩
def Fld.PWR_TILE_SLEEP (i : Nat) : FRef := ⟨0x30100 + 0x4 * i, 31, 30⟩
def Fld.PWR_TILE_STEP (i : Nat) : FRef := ⟨0x30100 + 0x4 * i, 29, 28⟩
def Fld.PWR_TILE_PROT (i : Nat) : FRef := ⟨0x30100 + 0x4 * i, 27, 27⟩
def Fld.PWR_TILE_CLOCK (i : Nat) : FRef := ⟨0x30100 + 0x4 * i, 19, 8⟩
def Fld.PWR_TILE_TEMP (i : Nat) : FRef := ⟨0x30100 + 0x4 * i, 7, 0⟩
def Fld.PWR_ENERGY_TOTAL_ENERGY : FRef := ⟨0x30800, 63, 0⟩
def Fld.PWR_ENERGY_COMPUTE_ENERGY : FRef := ⟨0x30808, 63, 0⟩
def Fld.PWR_ENERGY_MEMORY_ENERGY : FRef := ⟨0x30810, 63, 0⟩
def Fld.PWR_ENERGY_LINKS_ENERGY : FRef := ⟨0x30818, 63, 0⟩
def Fld.PWR_ENERGY_HBM_ENERGY : FRef := ⟨0x30820, 63, 0⟩
def Fld.PWR_THROTTLE_CNT_COUNT : FRef := ⟨0x30840, 47, 0⟩
def Fld.PWR_DROOP_CNT_COUNT : FRef := ⟨0x30848, 47, 0⟩
def Fld.PWR_CAP_BIND_CNT_COUNT : FRef := ⟨0x30850, 47, 0⟩
def Fld.PWR_FAST_LIMIT_CNT_COUNT : FRef := ⟨0x30858, 47, 0⟩
def Fld.PWR_FLOOR_REL_CNT_COUNT : FRef := ⟨0x30860, 47, 0⟩
def Fld.NWL_TIME_TIME : FRef := ⟨0x40000, 63, 0⟩
def Fld.NWL_STATUS_OFFSET : FRef := ⟨0x40008, 31, 16⟩
def Fld.NWL_STATUS_DEPTH : FRef := ⟨0x40008, 15, 12⟩
def Fld.NWL_STATUS_UPPORT : FRef := ⟨0x40008, 10, 8⟩
def Fld.NWL_STATUS_PTP : FRef := ⟨0x40008, 7, 7⟩
def Fld.NWL_STATUS_STEPPED : FRef := ⟨0x40008, 3, 3⟩
def Fld.NWL_STATUS_ROOT : FRef := ⟨0x40008, 2, 2⟩
def Fld.NWL_STATUS_STATE : FRef := ⟨0x40008, 1, 0⟩
def Fld.NWL_SLIP_CFG_ECO : FRef := ⟨0x4000C, 31, 31⟩
def Fld.NWL_SLIP_CFG_GUARD : FRef := ⟨0x4000C, 23, 16⟩
def Fld.NWL_SLIP_CFG_MARGIN : FRef := ⟨0x4000C, 15, 8⟩
def Fld.NWL_SLIP_CFG_THRESH : FRef := ⟨0x4000C, 7, 0⟩
def Fld.NWL_FLIGHT_HOST (i : Nat) : FRef := ⟨0x40040 + 0x4 * i, 31, 31⟩
def Fld.NWL_FLIGHT_N (i : Nat) : FRef := ⟨0x40040 + 0x4 * i, 8, 0⟩
def Fld.NWL_LAND_SEL_PARTITION (i : Nat) : FRef := ⟨0x40100 + 0x40 * i, 11, 8⟩
def Fld.NWL_LAND_SEL_INDEX (i : Nat) : FRef := ⟨0x40100 + 0x40 * i, 7, 0⟩
def Fld.NWL_LAND_DATA_DATA (i k : Nat) : FRef := ⟨0x40108 + 0x40 * i + 0x8 * k, 63, 0⟩
def Fld.NWL_LAND_CMD_GO (i : Nat) : FRef := ⟨0x40128 + 0x40 * i, 31, 31⟩
def Fld.NWL_LAND_CMD_OP (i : Nat) : FRef := ⟨0x40128 + 0x40 * i, 2, 0⟩
def Fld.NWL_LAND_STATUS_DONE (i : Nat) : FRef := ⟨0x4012C + 0x40 * i, 31, 31⟩
def Fld.NWL_LAND_STATUS_RESULT (i : Nat) : FRef := ⟨0x4012C + 0x40 * i, 30, 28⟩
def Fld.NWL_FIRE_CNT_COUNT : FRef := ⟨0x40800, 47, 0⟩
def Fld.NWL_CANCEL_CNT_COUNT : FRef := ⟨0x40808, 47, 0⟩
def Fld.NWL_SLIP_SENT_CNT_COUNT : FRef := ⟨0x40810, 47, 0⟩
def Fld.NWL_SLIP_RCVD_CNT_COUNT : FRef := ⟨0x40818, 47, 0⟩
def Fld.NWL_SLIP_NS_CNT_COUNT : FRef := ⟨0x40820, 47, 0⟩
def Fld.NWL_SLIP_MISS_CNT_COUNT : FRef := ⟨0x40828, 47, 0⟩
def Fld.XLT_CFG_CHIP : FRef := ⟨0x50000, 25, 16⟩
def Fld.XLT_CTX_BASE_BASE : FRef := ⟨0x50008, 45, 0⟩
def Fld.XLT_HOST_BASE_BASE : FRef := ⟨0x50010, 51, 0⟩
def Fld.XLT_WIN_BASE_BASE : FRef := ⟨0x50018, 45, 0⟩
def Fld.XLT_CMD_ADDR_ADDR (i : Nat) : FRef := ⟨0x50100 + 0x20 * i, 63, 0⟩
def Fld.XLT_CMD_LEN_LEN (i : Nat) : FRef := ⟨0x50108 + 0x20 * i, 30, 0⟩
def Fld.XLT_CMD_GO (i : Nat) : FRef := ⟨0x50110 + 0x20 * i, 31, 31⟩
def Fld.XLT_CMD_OP (i : Nat) : FRef := ⟨0x50110 + 0x20 * i, 29, 26⟩
def Fld.XLT_CMD_PRIV (i : Nat) : FRef := ⟨0x50110 + 0x20 * i, 25, 25⟩
def Fld.XLT_CMD_PARTITION (i : Nat) : FRef := ⟨0x50110 + 0x20 * i, 24, 21⟩
def Fld.XLT_CMD_ADVICE (i : Nat) : FRef := ⟨0x50110 + 0x20 * i, 20, 18⟩
def Fld.XLT_CMD_TAG (i : Nat) : FRef := ⟨0x50110 + 0x20 * i, 15, 0⟩
def Fld.XLT_CMD_STATUS_DONE (i : Nat) : FRef := ⟨0x50114 + 0x20 * i, 31, 31⟩
def Fld.XLT_CMD_STATUS_RESULT (i : Nat) : FRef := ⟨0x50114 + 0x20 * i, 30, 28⟩
def Fld.XLT_CMD_STATUS_SKIPPED (i : Nat) : FRef := ⟨0x50114 + 0x20 * i, 23, 0⟩
def Fld.XLT_RING_BASE_BASE : FRef := ⟨0x50200, 45, 0⟩
def Fld.XLT_RING_CTL_EN : FRef := ⟨0x50208, 31, 31⟩
def Fld.XLT_RING_CTL_SIZE : FRef := ⟨0x50208, 20, 16⟩
def Fld.XLT_RING_CTL_VEC : FRef := ⟨0x50208, 10, 0⟩
def Fld.XLT_RING_PROD_PROD : FRef := ⟨0x5020C, 31, 0⟩
def Fld.XLT_RING_CONS_CONS : FRef := ⟨0x50210, 31, 0⟩
def Fld.XLT_FAULT_RESP_ACTION : FRef := ⟨0x50218, 63, 62⟩
def Fld.XLT_FAULT_RESP_TAG : FRef := ⟨0x50218, 47, 32⟩
def Fld.XLT_FAULT_RESP_SEQ : FRef := ⟨0x50218, 31, 0⟩
def Fld.XLT_FAULT_STATUS_OVERFLOW : FRef := ⟨0x50220, 31, 31⟩
def Fld.XLT_FAULT_STATUS_RING_FULL : FRef := ⟨0x50220, 30, 30⟩
def Fld.XLT_FAULT_STATUS_BAD_CONS : FRef := ⟨0x50220, 29, 29⟩
def Fld.XLT_FAULT_STATUS_RING_ERR : FRef := ⟨0x50220, 28, 28⟩
def Fld.XLT_FAULT_STATUS_USED : FRef := ⟨0x50220, 12, 0⟩
def Fld.XLT_FAULT_LIMIT_LIMIT : FRef := ⟨0x50224, 19, 0⟩
def Fld.XLT_DRAIN_LIMIT_LIMIT : FRef := ⟨0x50228, 15, 0⟩
def Fld.XLT_WIN_CMD_GO : FRef := ⟨0x50300, 31, 31⟩
def Fld.XLT_WIN_CMD_ALL : FRef := ⟨0x50300, 30, 30⟩
def Fld.XLT_WIN_CMD_IDX : FRef := ⟨0x50300, 11, 0⟩
def Fld.XLT_WIN_STATUS_DONE : FRef := ⟨0x50304, 31, 31⟩
def Fld.XLT_WIN_LAST_REASON : FRef := ⟨0x50308, 31, 29⟩
def Fld.XLT_WIN_LAST_SRC : FRef := ⟨0x50308, 21, 12⟩
def Fld.XLT_WIN_LAST_IDX : FRef := ⟨0x50308, 11, 0⟩
def Fld.XLT_STLB_HIT_CNT_COUNT : FRef := ⟨0x50400, 47, 0⟩
def Fld.XLT_WALK_CNT_COUNT : FRef := ⟨0x50408, 47, 0⟩
def Fld.XLT_FAULT_CNT_COUNT : FRef := ⟨0x50410, 47, 0⟩
def Fld.XLT_STALL_CNT_COUNT : FRef := ⟨0x50418, 47, 0⟩
def Fld.XLT_LIMIT_FAIL_CNT_COUNT : FRef := ⟨0x50420, 47, 0⟩
def Fld.XLT_DRAIN_DROP_CNT_COUNT : FRef := ⟨0x50428, 47, 0⟩
def Fld.XLT_WIN_REFUSED_CNT_COUNT : FRef := ⟨0x50430, 47, 0⟩
def Fld.XLT_STALE_RESP_CNT_COUNT : FRef := ⟨0x50438, 47, 0⟩
def Fld.L2C_CFG_MSC_SIZE : FRef := ⟨0x60000, 31, 29⟩
def Fld.L2C_CFG_HBM_N : FRef := ⟨0x60000, 28, 27⟩
def Fld.L2C_CFG_STACK_CAP : FRef := ⟨0x60000, 26, 25⟩
def Fld.L2C_CFG_HBM_MASK : FRef := ⟨0x60000, 23, 16⟩
def Fld.L2C_PART_WAYS_LOCK_MAX (i : Nat) : FRef := ⟨0x60040 + 0x4 * i, 20, 16⟩
def Fld.L2C_PART_WAYS_MASK (i : Nat) : FRef := ⟨0x60040 + 0x4 * i, 15, 0⟩
def Fld.L2C_WAY_PWR_GO : FRef := ⟨0x60080, 31, 31⟩
def Fld.L2C_WAY_PWR_REFUSED : FRef := ⟨0x60080, 30, 30⟩
def Fld.L2C_WAY_PWR_TARGET : FRef := ⟨0x60080, 15, 0⟩
def Fld.L2C_WAY_STATE_CHANGING : FRef := ⟨0x60084, 31, 16⟩
def Fld.L2C_WAY_STATE_POWERED : FRef := ⟨0x60084, 15, 0⟩
def Fld.L2C_MNT_ENG_BUSY_BUSY : FRef := ⟨0x60090, 7, 0⟩
def Fld.L2C_HBM_POISON_USED (i : Nat) : FRef := ⟨0x600A0 + 0x4 * i, 10, 0⟩
def Fld.L2C_MNT_ADDR_ADDR (i : Nat) : FRef := ⟨0x60100 + 0x20 * i, 45, 0⟩
def Fld.L2C_MNT_LEN_LEN (i : Nat) : FRef := ⟨0x60108 + 0x20 * i, 40, 0⟩
def Fld.L2C_MNT_CMD_GO (i : Nat) : FRef := ⟨0x60110 + 0x20 * i, 31, 31⟩
def Fld.L2C_MNT_CMD_PARTITION (i : Nat) : FRef := ⟨0x60110 + 0x20 * i, 19, 16⟩
def Fld.L2C_MNT_CMD_OP (i : Nat) : FRef := ⟨0x60110 + 0x20 * i, 2, 0⟩
def Fld.L2C_MNT_STATUS_DONE (i : Nat) : FRef := ⟨0x60114 + 0x20 * i, 31, 31⟩
def Fld.L2C_MNT_STATUS_RESULT (i : Nat) : FRef := ⟨0x60114 + 0x20 * i, 30, 28⟩
def Fld.L2C_MNT_COUNT_WRITTEN (i : Nat) : FRef := ⟨0x60118 + 0x20 * i, 63, 32⟩
def Fld.L2C_MNT_COUNT_SHORT (i : Nat) : FRef := ⟨0x60118 + 0x20 * i, 31, 0⟩
def Fld.L2C_L1_DIS_CORE3 (i : Nat) : FRef := ⟨0x60400 + 0x4 * i, 31, 24⟩
def Fld.L2C_L1_DIS_CORE2 (i : Nat) : FRef := ⟨0x60400 + 0x4 * i, 23, 16⟩
def Fld.L2C_L1_DIS_CORE1 (i : Nat) : FRef := ⟨0x60400 + 0x4 * i, 15, 8⟩
def Fld.L2C_L1_DIS_CORE0 (i : Nat) : FRef := ⟨0x60400 + 0x4 * i, 7, 0⟩
def Fld.L2C_HIT_CNT_COUNT : FRef := ⟨0x60800, 47, 0⟩
def Fld.L2C_MISS_CNT_COUNT : FRef := ⟨0x60808, 47, 0⟩
def Fld.L2C_DIRTY_EVICT_CNT_COUNT : FRef := ⟨0x60810, 47, 0⟩
def Fld.L2C_MSC_HIT_CNT_COUNT : FRef := ⟨0x60818, 47, 0⟩
def Fld.L2C_MSC_DECLINE_CNT_COUNT : FRef := ⟨0x60820, 47, 0⟩
def Fld.L2C_LOCK_SHORT_CNT_COUNT : FRef := ⟨0x60828, 47, 0⟩
def Fld.L2C_PARITY_CNT_COUNT : FRef := ⟨0x60830, 47, 0⟩
def Fld.HOME_CFG_SPAN_N : FRef := ⟨0x70000, 22, 16⟩
def Fld.HOME_CFG_SPAN_IDX : FRef := ⟨0x70000, 13, 8⟩
def Fld.HOME_MODE_COMPAT : FRef := ⟨0x70004, 15, 0⟩
def Fld.HOME_TIMING_TIMEOUT : FRef := ⟨0x70010, 31, 16⟩
def Fld.HOME_TIMING_HOLD : FRef := ⟨0x70010, 7, 0⟩
def Fld.HOME_DIR_USED_USED : FRef := ⟨0x70020, 24, 0⟩
def Fld.HOME_PURGE_BUSY : FRef := ⟨0x70024, 31, 31⟩
def Fld.HOME_PURGE_HOST : FRef := ⟨0x70024, 30, 30⟩
def Fld.HOME_PURGE_SPAN : FRef := ⟨0x70024, 5, 0⟩
def Fld.HOME_BIAS_BASE_BASE : FRef := ⟨0x70040, 45, 0⟩
def Fld.HOME_BIAS_ADDR_ADDR : FRef := ⟨0x70048, 45, 0⟩
def Fld.HOME_BIAS_CMD_GO : FRef := ⟨0x70050, 31, 31⟩
def Fld.HOME_BIAS_CMD_TO_HOST : FRef := ⟨0x70050, 30, 30⟩
def Fld.HOME_BIAS_CMD_PAGES : FRef := ⟨0x70050, 15, 0⟩
def Fld.HOME_BIAS_STATUS_DONE : FRef := ⟨0x70054, 31, 31⟩
def Fld.HOME_BIAS_STATUS_RESULT : FRef := ⟨0x70054, 30, 28⟩
def Fld.HOME_RETRY_CNT_COUNT : FRef := ⟨0x70100, 47, 0⟩
def Fld.HOME_STARVE_CNT_COUNT : FRef := ⟨0x70108, 47, 0⟩
def Fld.HOME_DIR_EVICT_CNT_COUNT : FRef := ⟨0x70110, 47, 0⟩
def Fld.HOME_BISNP_CNT_COUNT : FRef := ⟨0x70118, 47, 0⟩
def Fld.HOME_BICONFLICT_CNT_COUNT : FRef := ⟨0x70120, 47, 0⟩
def Fld.HOME_FWD_CNT_COUNT : FRef := ⟨0x70128, 47, 0⟩
def Fld.HOME_TIMEOUT_CNT_COUNT : FRef := ⟨0x70130, 47, 0⟩
def Fld.HOME_LATE_CNT_COUNT : FRef := ⟨0x70138, 47, 0⟩
def Fld.HOME_HOLD_WAIT_CNT_COUNT : FRef := ⟨0x70140, 47, 0⟩
def Fld.EP_INT_MODE_BLOCKED : FRef := ⟨0x80000, 8, 8⟩
def Fld.EP_INT_MODE_MSI_N : FRef := ⟨0x80000, 6, 4⟩
def Fld.EP_INT_MODE_MODE : FRef := ⟨0x80000, 1, 0⟩
def Fld.EP_INT_SUMMARY_ANY : FRef := ⟨0x80008, 63, 0⟩
def Fld.EP_INT_PEND_PEND (i : Nat) : FRef := ⟨0x80100 + 0x4 * i, 31, 0⟩
def Fld.EP_CONT_STATUS_STATE : FRef := ⟨0x80400, 31, 30⟩
def Fld.EP_CONT_STATUS_REL_REFUSED : FRef := ⟨0x80400, 29, 29⟩
def Fld.EP_CONT_STATUS_VIRAL : FRef := ⟨0x80400, 3, 3⟩
def Fld.EP_CONT_STATUS_IDE_FAIL : FRef := ⟨0x80400, 2, 2⟩
def Fld.EP_CONT_STATUS_UNCORR : FRef := ⟨0x80400, 1, 1⟩
def Fld.EP_CONT_STATUS_LINK_DOWN : FRef := ⟨0x80400, 0, 0⟩
def Fld.EP_CONT_RELEASE_KEY : FRef := ⟨0x80404, 31, 24⟩
def Fld.EP_CONT_RELEASE_MODE : FRef := ⟨0x80404, 0, 0⟩
def Fld.EP_CONT_HELD_POISONED : FRef := ⟨0x80408, 31, 16⟩
def Fld.EP_CONT_HELD_HELD : FRef := ⟨0x80408, 9, 0⟩
def Fld.EP_HOLD_LIMIT_LIMIT : FRef := ⟨0x8040C, 15, 0⟩
def Fld.EP_TAG_LIMIT_LIMIT : FRef := ⟨0x80410, 9, 0⟩
def Fld.EP_CONT_CNT_COUNT : FRef := ⟨0x80800, 47, 0⟩
def Fld.EP_HELD_POISON_CNT_COUNT : FRef := ⟨0x80808, 47, 0⟩
def Fld.EP_REFUSED_CNT_COUNT : FRef := ⟨0x80810, 47, 0⟩
def Fld.EP_RETRAIN_CNT_COUNT : FRef := ⟨0x80818, 47, 0⟩
def Fld.EP_CPL_TIMEOUT_CNT_COUNT : FRef := ⟨0x80820, 47, 0⟩
def Fld.SQ_CMD_BASE_BASE (i : Nat) : FRef := ⟨0x90000 + 0x40 * i, 45, 0⟩
def Fld.SQ_CMD_ARG_TAG (i : Nat) : FRef := ⟨0x90008 + 0x40 * i, 63, 48⟩
def Fld.SQ_CMD_ARG_CQ (i : Nat) : FRef := ⟨0x90008 + 0x40 * i, 43, 32⟩
def Fld.SQ_CMD_ARG_SEQ (i : Nat) : FRef := ⟨0x90008 + 0x40 * i, 31, 0⟩
def Fld.SQ_CMD_VIEW_HI (i : Nat) : FRef := ⟨0x90010 + 0x40 * i, 63, 32⟩
def Fld.SQ_CMD_VIEW_LO (i : Nat) : FRef := ⟨0x90010 + 0x40 * i, 31, 0⟩
def Fld.SQ_CMD_GO (i : Nat) : FRef := ⟨0x90018 + 0x40 * i, 31, 31⟩
def Fld.SQ_CMD_OP (i : Nat) : FRef := ⟨0x90018 + 0x40 * i, 30, 27⟩
def Fld.SQ_CMD_CLASS (i : Nat) : FRef := ⟨0x90018 + 0x40 * i, 26, 25⟩
def Fld.SQ_CMD_PARTITION (i : Nat) : FRef := ⟨0x90018 + 0x40 * i, 24, 21⟩
def Fld.SQ_CMD_LOG2SIZE (i : Nat) : FRef := ⟨0x90018 + 0x40 * i, 20, 16⟩
def Fld.SQ_CMD_QUEUE (i : Nat) : FRef := ⟨0x90018 + 0x40 * i, 11, 0⟩
def Fld.SQ_CMD_CQCFG_VEC (i : Nat) : FRef := ⟨0x9001C + 0x40 * i, 26, 16⟩
def Fld.SQ_CMD_CQCFG_COAL_N (i : Nat) : FRef := ⟨0x9001C + 0x40 * i, 15, 8⟩
def Fld.SQ_CMD_CQCFG_COAL_T (i : Nat) : FRef := ⟨0x9001C + 0x40 * i, 7, 0⟩
def Fld.SQ_CMD_STATUS_DONE (i : Nat) : FRef := ⟨0x90020 + 0x40 * i, 31, 31⟩
def Fld.SQ_CMD_STATUS_RESULT (i : Nat) : FRef := ⟨0x90020 + 0x40 * i, 30, 28⟩
def Fld.SQ_CMD_STATUS_QSTATE (i : Nat) : FRef := ⟨0x90020 + 0x40 * i, 27, 26⟩
def Fld.SQ_ERR_INFO_VALID : FRef := ⟨0x90100, 31, 31⟩
def Fld.SQ_ERR_INFO_REASON : FRef := ⟨0x90100, 30, 28⟩
def Fld.SQ_ERR_INFO_QUEUE : FRef := ⟨0x90100, 11, 0⟩
def Fld.SQ_ERR_SEQ_SEQ : FRef := ⟨0x90104, 31, 0⟩
def Fld.SQ_SCHED_BG_AGE : FRef := ⟨0x90200, 15, 0⟩
def Fld.SQ_PART_RES_VALID (i : Nat) : FRef := ⟨0x90400 + 0x8 * i, 63, 63⟩
def Fld.SQ_PART_RES_FLOOR (i : Nat) : FRef := ⟨0x90400 + 0x8 * i, 60, 48⟩
def Fld.SQ_PART_RES_WAYS (i : Nat) : FRef := ⟨0x90400 + 0x8 * i, 43, 40⟩
def Fld.SQ_PART_RES_GALLERY (i : Nat) : FRef := ⟨0x90400 + 0x8 * i, 35, 24⟩
def Fld.SQ_PART_RES_BORROW (i : Nat) : FRef := ⟨0x90400 + 0x8 * i, 16, 16⟩
def Fld.SQ_PART_RES_CORES (i : Nat) : FRef := ⟨0x90400 + 0x8 * i, 8, 0⟩
def Fld.SQ_C0_COND_LINK (i : Nat) : FRef := ⟨0x90500 + 0x4 * i, 6, 6⟩
def Fld.SQ_C0_COND_ERROR (i : Nat) : FRef := ⟨0x90500 + 0x4 * i, 5, 5⟩
def Fld.SQ_C0_COND_THERMAL (i : Nat) : FRef := ⟨0x90500 + 0x4 * i, 3, 3⟩
def Fld.SQ_C0_COND_CAP (i : Nat) : FRef := ⟨0x90500 + 0x4 * i, 2, 2⟩
def Fld.SQ_C0_COND_NO_RES (i : Nat) : FRef := ⟨0x90500 + 0x4 * i, 0, 0⟩
def Fld.SQ_QUAL_SEL_IMAGE : FRef := ⟨0x90600, 11, 0⟩
def Fld.SQ_QUAL_HDR_VALID : FRef := ⟨0x90604, 31, 31⟩
def Fld.SQ_QUAL_HDR_POINTS : FRef := ⟨0x90604, 27, 24⟩
def Fld.SQ_QUAL_HDR_PARTITION : FRef := ⟨0x90604, 23, 20⟩
def Fld.SQ_QUAL_HDR_CORES : FRef := ⟨0x90604, 8, 0⟩
def Fld.SQ_QUAL_PT_CTX (i : Nat) : FRef := ⟨0x90608 + 0x8 * i, 63, 32⟩
def Fld.SQ_QUAL_PT_BOUND (i : Nat) : FRef := ⟨0x90608 + 0x8 * i, 31, 0⟩
def Fld.SQ_DB_CNT_COUNT : FRef := ⟨0x90800, 47, 0⟩
def Fld.SQ_DB_BAD_CNT_COUNT : FRef := ⟨0x90808, 47, 0⟩
def Fld.SQ_REFETCH_CNT_COUNT : FRef := ⟨0x90810, 47, 0⟩
def Fld.SQ_QERR_CNT_COUNT : FRef := ⟨0x90818, 47, 0⟩
def Fld.SQ_C0_ADMIT_CNT_COUNT : FRef := ⟨0x90820, 47, 0⟩
def Fld.SQ_C0_REFUSE_CNT_COUNT : FRef := ⟨0x90828, 47, 0⟩
def Fld.SQ_C0_VOID_CNT_COUNT : FRef := ⟨0x90830, 47, 0⟩
def Fld.SQ_C0_MISS_CNT_COUNT : FRef := ⟨0x90838, 47, 0⟩
def Fld.TIER_CMD_ADDR_ADDR (i : Nat) : FRef := ⟨0xA0000 + 0x40 * i, 63, 0⟩
def Fld.TIER_CMD_LEN_LEN (i : Nat) : FRef := ⟨0xA0008 + 0x40 * i, 63, 0⟩
def Fld.TIER_CMD_GO (i : Nat) : FRef := ⟨0xA0010 + 0x40 * i, 31, 31⟩
def Fld.TIER_CMD_OP (i : Nat) : FRef := ⟨0xA0010 + 0x40 * i, 30, 27⟩
def Fld.TIER_CMD_ARG (i : Nat) : FRef := ⟨0xA0010 + 0x40 * i, 26, 25⟩
def Fld.TIER_CMD_PARTITION (i : Nat) : FRef := ⟨0xA0010 + 0x40 * i, 24, 21⟩
def Fld.TIER_CMD_SRC (i : Nat) : FRef := ⟨0xA0010 + 0x40 * i, 20, 20⟩
def Fld.TIER_CMD_ID (i : Nat) : FRef := ⟨0xA0010 + 0x40 * i, 15, 0⟩
def Fld.TIER_CMD_AUX_IMAGE (i : Nat) : FRef := ⟨0xA0014 + 0x40 * i, 27, 16⟩
def Fld.TIER_CMD_AUX_KEY (i : Nat) : FRef := ⟨0xA0014 + 0x40 * i, 7, 0⟩
def Fld.TIER_CMD_STATUS_DONE (i : Nat) : FRef := ⟨0xA0018 + 0x40 * i, 31, 31⟩
def Fld.TIER_CMD_STATUS_RESULT (i : Nat) : FRef := ⟨0xA0018 + 0x40 * i, 30, 28⟩
def Fld.TIER_CMD_VIEW_RES (i : Nat) : FRef := ⟨0xA0020 + 0x40 * i, 63, 62⟩
def Fld.TIER_CMD_VIEW_HOME (i : Nat) : FRef := ⟨0xA0020 + 0x40 * i, 61, 60⟩
def Fld.TIER_CMD_VIEW_LOST (i : Nat) : FRef := ⟨0xA0020 + 0x40 * i, 59, 59⟩
def Fld.TIER_CMD_VIEW_VALID (i : Nat) : FRef := ⟨0xA0020 + 0x40 * i, 58, 58⟩
def Fld.TIER_CMD_VIEW_VA (i : Nat) : FRef := ⟨0xA0020 + 0x40 * i, 47, 0⟩
def Fld.TIER_CMD_VIEW2_POS (i : Nat) : FRef := ⟨0xA0028 + 0x40 * i, 31, 0⟩
def Fld.TIER_CAT_OBJECT (i : Nat) : FRef := ⟨0xA0030 + 0x40 * i, 63, 0⟩
def Fld.TIER_CAT_CTL_RKEY (i : Nat) : FRef := ⟨0xA0038 + 0x40 * i, 63, 32⟩
def Fld.TIER_CAT_CTL_TRANSPORT (i : Nat) : FRef := ⟨0xA0038 + 0x40 * i, 31, 31⟩
def Fld.TIER_CAT_CTL_ENDPOINT (i : Nat) : FRef := ⟨0xA0038 + 0x40 * i, 11, 0⟩
def Fld.TIER_QUOTA_T2 (i : Nat) : FRef := ⟨0xA0200 + 0x8 * i, 51, 37⟩
def Fld.TIER_QUOTA_T1 (i : Nat) : FRef := ⟨0xA0200 + 0x8 * i, 36, 16⟩
def Fld.TIER_QUOTA_T0 (i : Nat) : FRef := ⟨0xA0200 + 0x8 * i, 15, 0⟩
def Fld.TIER_USE_USE (i : Nat) : FRef := ⟨0xA0280 + 0x8 * i, 63, 0⟩
def Fld.TIER_POOL_SIZE : FRef := ⟨0xA0300, 63, 0⟩
def Fld.TIER_POOL_USE_USE : FRef := ⟨0xA0308, 63, 0⟩
def Fld.TIER_VA_ROOT_BASE (i : Nat) : FRef := ⟨0xA0380 + 0x8 * i, 45, 0⟩
def Fld.TIER_CTL_LEAD : FRef := ⟨0xA0400, 3, 0⟩
def Fld.TIER_LATE_LIMIT_LIMIT : FRef := ⟨0xA0404, 15, 0⟩
def Fld.TIER_PROMOTE_CNT_COUNT : FRef := ⟨0xA0800, 47, 0⟩
def Fld.TIER_DEMOTE_CNT_COUNT : FRef := ⟨0xA0808, 47, 0⟩
def Fld.TIER_POOL_EVICT_CNT_COUNT : FRef := ⟨0xA0810, 47, 0⟩
def Fld.TIER_LATE_CNT_COUNT : FRef := ⟨0xA0818, 47, 0⟩
def Fld.TIER_FAIL_CNT_COUNT : FRef := ⟨0xA0820, 47, 0⟩
def Fld.TIER_ADVICE_SHORT_CNT_COUNT : FRef := ⟨0xA0828, 47, 0⟩
def Fld.TIER_FETCH_BYTE_CNT_COUNT : FRef := ⟨0xA0830, 47, 0⟩
def Fld.STW_PORT_STATUS_STATE (i : Nat) : FRef := ⟨0xB0000 + 0x100 * i, 31, 29⟩
def Fld.STW_PORT_STATUS_CAUSE (i : Nat) : FRef := ⟨0xB0000 + 0x100 * i, 28, 20⟩
def Fld.STW_PORT_STATUS_NCHIP (i : Nat) : FRef := ⟨0xB0000 + 0x100 * i, 19, 10⟩
def Fld.STW_PORT_STATUS_NPORT (i : Nat) : FRef := ⟨0xB0000 + 0x100 * i, 9, 7⟩
def Fld.STW_PORT_CMD_GO (i : Nat) : FRef := ⟨0xB0004 + 0x100 * i, 31, 31⟩
def Fld.STW_PORT_CMD_REFUSED (i : Nat) : FRef := ⟨0xB0004 + 0x100 * i, 30, 30⟩
def Fld.STW_PORT_CMD_OP (i : Nat) : FRef := ⟨0xB0004 + 0x100 * i, 2, 0⟩
def Fld.STW_CFG_PORTS : FRef := ⟨0xB0800, 31, 24⟩
def Fld.STW_CFG_TRAY : FRef := ⟨0xB0800, 15, 0⟩
def Fld.STW_PEER_TIMEOUT_LIMIT : FRef := ⟨0xB0804, 15, 0⟩
def Fld.STW_SPAN_STATE_MEMBERS (i : Nat) : FRef := ⟨0xB0810 + 0x4 * i, 31, 0⟩
def Fld.STW_REPLAY_CNT_COUNT : FRef := ⟨0xB0900, 47, 0⟩
def Fld.STW_TAG_FAIL_CNT_COUNT : FRef := ⟨0xB0908, 47, 0⟩
def Fld.STW_CONTAIN_CNT_COUNT : FRef := ⟨0xB0910, 47, 0⟩
def Fld.STW_DISCARD_CNT_COUNT : FRef := ⟨0xB0918, 47, 0⟩
def Fld.STW_LEAVE_CNT_COUNT : FRef := ⟨0xB0920, 47, 0⟩
def Fld.ETH_CFG_TELEM_EP : FRef := ⟨0xC0000, 27, 16⟩
def Fld.ETH_CFG_PTP_EN : FRef := ⟨0xC0000, 12, 12⟩
def Fld.ETH_CFG_PTP_PORT : FRef := ⟨0xC0000, 11, 8⟩
def Fld.ETH_CFG_MODE1 : FRef := ⟨0xC0000, 6, 4⟩
def Fld.ETH_CFG_MODE0 : FRef := ⟨0xC0000, 2, 0⟩
def Fld.ETH_MAC_BASE_MAC : FRef := ⟨0xC0008, 47, 0⟩
def Fld.ETH_EP_BASE_BASE : FRef := ⟨0xC0010, 45, 0⟩
def Fld.ETH_PORT_STATUS_LINK (i : Nat) : FRef := ⟨0xC0100 + 0x4 * i, 31, 31⟩
def Fld.ETH_PORT_STATUS_EXISTS (i : Nat) : FRef := ⟨0xC0100 + 0x4 * i, 30, 30⟩
def Fld.ETH_RX_DROP_CNT_COUNT : FRef := ⟨0xC0800, 47, 0⟩
def Fld.ETH_SRT_RETX_CNT_COUNT : FRef := ⟨0xC0808, 47, 0⟩
def Fld.ETH_ROCE_RETRY_CNT_COUNT : FRef := ⟨0xC0810, 47, 0⟩
def Fld.SEC_STATUS_LOG_USED : FRef := ⟨0xD0000, 29, 16⟩
def Fld.SEC_STATUS_LOG_OVF : FRef := ⟨0xD0000, 8, 8⟩
def Fld.SEC_STATUS_FW_OK : FRef := ⟨0xD0000, 7, 7⟩
def Fld.SEC_STATUS_UNLOCKED : FRef := ⟨0xD0000, 6, 6⟩
def Fld.SEC_STATUS_DEBUG : FRef := ⟨0xD0000, 5, 4⟩
def Fld.SEC_STATUS_OWNER_GEN : FRef := ⟨0xD0000, 3, 1⟩
def Fld.SEC_STATUS_OWNED : FRef := ⟨0xD0000, 0, 0⟩
def Fld.SEC_SEAL_IDE_REQ : FRef := ⟨0xD0004, 16, 16⟩
def Fld.SEC_SEAL_SEALED : FRef := ⟨0xD0004, 15, 0⟩
def Fld.SEC_FW_SVN_RUNNING : FRef := ⟨0xD0008, 15, 8⟩
def Fld.SEC_FW_SVN_FUSED : FRef := ⟨0xD0008, 7, 0⟩
def Fld.SEC_HM_SEL_INDEX : FRef := ⟨0xD0010, 4, 0⟩
def Fld.SEC_HM_DATA_DATA (i : Nat) : FRef := ⟨0xD0018 + 0x8 * i, 63, 0⟩
def Fld.SEC_CMD_ADDR_ADDR (i : Nat) : FRef := ⟨0xD0100 + 0x40 * i, 63, 0⟩
def Fld.SEC_CMD_LEN_LEN (i : Nat) : FRef := ⟨0xD0108 + 0x40 * i, 22, 0⟩
def Fld.SEC_CMD_GO (i : Nat) : FRef := ⟨0xD0110 + 0x40 * i, 31, 31⟩
def Fld.SEC_CMD_OP (i : Nat) : FRef := ⟨0xD0110 + 0x40 * i, 30, 27⟩
def Fld.SEC_CMD_PARTITION (i : Nat) : FRef := ⟨0xD0110 + 0x40 * i, 13, 10⟩
def Fld.SEC_CMD_SLOT (i : Nat) : FRef := ⟨0xD0110 + 0x40 * i, 5, 0⟩
def Fld.SEC_CMD_STATUS_DONE (i : Nat) : FRef := ⟨0xD0114 + 0x40 * i, 31, 31⟩
def Fld.SEC_CMD_STATUS_RESULT (i : Nat) : FRef := ⟨0xD0114 + 0x40 * i, 30, 28⟩
def Fld.SEC_EPOCH_EPOCH (i : Nat) : FRef := ⟨0xD0200 + 0x4 * i, 31, 0⟩
def Fld.SEC_SLOTS_SLOTS (i : Nat) : FRef := ⟨0xD0280 + 0x8 * i, 63, 0⟩
def Fld.SEC_DEBUG_NONCE_NONCE : FRef := ⟨0xD0300, 63, 0⟩
def Fld.SEC_UNWRAP_FAIL_CNT_COUNT : FRef := ⟨0xD0800, 47, 0⟩
def Fld.SEC_SPILL_FAIL_CNT_COUNT : FRef := ⟨0xD0808, 47, 0⟩
def Fld.SEC_HOST_DENY_CNT_COUNT : FRef := ⟨0xD0810, 47, 0⟩
def Fld.SEC_SESSION_CNT_COUNT : FRef := ⟨0xD0818, 47, 0⟩
def Fld.SEC_LINK_REKEY_CNT_COUNT : FRef := ⟨0xD0820, 47, 0⟩
def Fld.CORE_ID_SLICE (i : Nat) : FRef := ⟨0x100000 + 0x1000 * i, 21, 16⟩
def Fld.CORE_ID_Y (i : Nat) : FRef := ⟨0x100000 + 0x1000 * i, 15, 12⟩
def Fld.CORE_ID_X (i : Nat) : FRef := ⟨0x100000 + 0x1000 * i, 11, 8⟩
def Fld.CORE_ID_CORE (i : Nat) : FRef := ⟨0x100000 + 0x1000 * i, 7, 0⟩
def Fld.CORE_STATUS_PARTITION (i : Nat) : FRef := ⟨0x100004 + 0x1000 * i, 19, 16⟩
def Fld.CORE_STATUS_STOPPED (i : Nat) : FRef := ⟨0x100004 + 0x1000 * i, 15, 15⟩
def Fld.CORE_STATUS_HOLDING (i : Nat) : FRef := ⟨0x100004 + 0x1000 * i, 14, 14⟩
def Fld.CORE_STATUS_CONTEXTS (i : Nat) : FRef := ⟨0x100004 + 0x1000 * i, 10, 8⟩
def Fld.CORE_STATUS_TEAMS (i : Nat) : FRef := ⟨0x100004 + 0x1000 * i, 4, 0⟩
def Fld.CORE_OCC_FREE_REG (i : Nat) : FRef := ⟨0x100008 + 0x1000 * i, 31, 23⟩
def Fld.CORE_OCC_FREE_LOC (i : Nat) : FRef := ⟨0x100008 + 0x1000 * i, 22, 14⟩
def Fld.CORE_OCC_FREE_GROUPS (i : Nat) : FRef := ⟨0x100008 + 0x1000 * i, 13, 7⟩
def Fld.CORE_OCC_FREE_TEAMS (i : Nat) : FRef := ⟨0x100008 + 0x1000 * i, 6, 2⟩
def Fld.CORE_PREEMPT_GO (i : Nat) : FRef := ⟨0x100010 + 0x1000 * i, 31, 31⟩
def Fld.CORE_PREEMPT_REFUSED (i : Nat) : FRef := ⟨0x100010 + 0x1000 * i, 30, 30⟩
def Fld.CORE_PREEMPT_TEAMS (i : Nat) : FRef := ⟨0x100010 + 0x1000 * i, 15, 0⟩
def Fld.CORE_RESUME_GO (i : Nat) : FRef := ⟨0x100014 + 0x1000 * i, 31, 31⟩
def Fld.CORE_RESUME_DISCARD (i : Nat) : FRef := ⟨0x100014 + 0x1000 * i, 30, 30⟩
def Fld.CORE_RESUME_TEAMS (i : Nat) : FRef := ⟨0x100014 + 0x1000 * i, 15, 0⟩
def Fld.CORE_SAVE_BASE_BASE (i : Nat) : FRef := ⟨0x100020 + 0x1000 * i, 55, 0⟩
def Fld.CORE_TEAM_STATE_VALID (i k : Nat) : FRef := ⟨0x100100 + 0x1000 * i + 0x4 * k, 31, 31⟩
def Fld.CORE_TEAM_STATE_STATE (i k : Nat) : FRef := ⟨0x100100 + 0x1000 * i + 0x4 * k, 30, 28⟩
def Fld.CORE_TEAM_STATE_CLASS (i k : Nat) : FRef := ⟨0x100100 + 0x1000 * i + 0x4 * k, 27, 26⟩
def Fld.CORE_TEAM_STATE_CONTEXT (i k : Nat) : FRef := ⟨0x100100 + 0x1000 * i + 0x4 * k, 25, 24⟩
def Fld.CORE_TEAM_STATE_GROUPS (i k : Nat) : FRef := ⟨0x100100 + 0x1000 * i + 0x4 * k, 21, 16⟩
def Fld.CORE_TEAM_STATE_TAG (i k : Nat) : FRef := ⟨0x100100 + 0x1000 * i + 0x4 * k, 15, 0⟩
def Fld.CORE_FAULT_INFO_VALID (i : Nat) : FRef := ⟨0x100200 + 0x1000 * i, 31, 31⟩
def Fld.CORE_FAULT_INFO_TEAM (i : Nat) : FRef := ⟨0x100200 + 0x1000 * i, 19, 16⟩
def Fld.CORE_FAULT_INFO_CONTEXT (i : Nat) : FRef := ⟨0x100200 + 0x1000 * i, 15, 14⟩
def Fld.CORE_FAULT_INFO_GROUP (i : Nat) : FRef := ⟨0x100200 + 0x1000 * i, 13, 8⟩
def Fld.CORE_FAULT_INFO_CODE (i : Nat) : FRef := ⟨0x100200 + 0x1000 * i, 7, 0⟩
def Fld.CORE_FAULT_PC_TAG (i : Nat) : FRef := ⟨0x100208 + 0x1000 * i, 63, 48⟩
def Fld.CORE_FAULT_PC_PC (i : Nat) : FRef := ⟨0x100208 + 0x1000 * i, 47, 0⟩
def Fld.CORE_FAULT_MASK_MASK (i : Nat) : FRef := ⟨0x100210 + 0x1000 * i, 31, 0⟩
def Fld.CORE_FAULT_ADDR_ADDR (i : Nat) : FRef := ⟨0x100218 + 0x1000 * i, 63, 0⟩
def Fld.CORE_YIELD_CNT_COUNT (i : Nat) : FRef := ⟨0x100300 + 0x1000 * i, 47, 0⟩
def Fld.CORE_PREEMPT_CNT_COUNT (i : Nat) : FRef := ⟨0x100308 + 0x1000 * i, 47, 0⟩
def Fld.CORE_SPILL_CNT_COUNT (i : Nat) : FRef := ⟨0x100310 + 0x1000 * i, 47, 0⟩
def Fld.CORE_COMBINE_CNT_COUNT (i : Nat) : FRef := ⟨0x100318 + 0x1000 * i, 47, 0⟩
def Fld.CORE_FAULT_CNT_COUNT (i : Nat) : FRef := ⟨0x100320 + 0x1000 * i, 47, 0⟩
def Fld.FMT_GUARD_CTL_SR_OFF (i : Nat) : FRef := ⟨0x100C00 + 0x1000 * i, 13, 13⟩
def Fld.FMT_GUARD_CTL_ESC_OFF (i : Nat) : FRef := ⟨0x100C00 + 0x1000 * i, 12, 12⟩
def Fld.FMT_GUARD_CTL_LIMIT_CAP (i : Nat) : FRef := ⟨0x100C00 + 0x1000 * i, 8, 4⟩
def Fld.FMT_GUARD_CTL_CNT_CLR (i : Nat) : FRef := ⟨0x100C00 + 0x1000 * i, 3, 3⟩
def Fld.FMT_GUARD_CTL_FLOOR (i : Nat) : FRef := ⟨0x100C00 + 0x1000 * i, 1, 0⟩
def Fld.FMT_STATUS_SIDECAR_DUP (i : Nat) : FRef := ⟨0x100C04 + 0x1000 * i, 8, 8⟩
def Fld.FMT_STATUS_NAN_READ (i : Nat) : FRef := ⟨0x100C04 + 0x1000 * i, 7, 7⟩
def Fld.FMT_STATUS_ESC_REFUSED (i : Nat) : FRef := ⟨0x100C04 + 0x1000 * i, 6, 6⟩
def Fld.FMT_STATUS_ESCALATED (i : Nat) : FRef := ⟨0x100C04 + 0x1000 * i, 5, 5⟩
def Fld.FMT_STATUS_FLAGGED (i : Nat) : FRef := ⟨0x100C04 + 0x1000 * i, 4, 4⟩
def Fld.FMT_STATUS_SCALE_SAT (i : Nat) : FRef := ⟨0x100C04 + 0x1000 * i, 3, 3⟩
def Fld.FMT_STATUS_INF_IN (i : Nat) : FRef := ⟨0x100C04 + 0x1000 * i, 2, 2⟩
def Fld.FMT_STATUS_NAN_IN (i : Nat) : FRef := ⟨0x100C04 + 0x1000 * i, 1, 1⟩
def Fld.FMT_STATUS_CLIP (i : Nat) : FRef := ⟨0x100C04 + 0x1000 * i, 0, 0⟩
def Fld.FMT_SR_SEED_SEED (i : Nat) : FRef := ⟨0x100C08 + 0x1000 * i, 63, 0⟩
def Fld.FMT_CLIP_CNT_COUNT (i : Nat) : FRef := ⟨0x100C10 + 0x1000 * i, 47, 0⟩
def Fld.FMT_BLOCK_CNT_COUNT (i : Nat) : FRef := ⟨0x100C18 + 0x1000 * i, 47, 0⟩
def Fld.FMT_FLAG_CNT_COUNT (i : Nat) : FRef := ⟨0x100C20 + 0x1000 * i, 47, 0⟩
def Fld.FMT_ESC_CNT_COUNT (i : Nat) : FRef := ⟨0x100C28 + 0x1000 * i, 47, 0⟩
def Fld.FMT_ESC_REFUSED_CNT_COUNT (i : Nat) : FRef := ⟨0x100C30 + 0x1000 * i, 47, 0⟩
def Fld.CNT_CTL_RUN : FRef := ⟨0x1400000, 31, 31⟩
def Fld.CNT_CTL_CLEAR : FRef := ⟨0x1400000, 30, 30⟩
def Fld.CNT_SEL_UKIND (i : Nat) : FRef := ⟨0x1400100 + 0x4 * i, 31, 28⟩
def Fld.CNT_SEL_UNIT (i : Nat) : FRef := ⟨0x1400100 + 0x4 * i, 25, 16⟩
def Fld.CNT_SEL_EVENT (i : Nat) : FRef := ⟨0x1400100 + 0x4 * i, 7, 0⟩
def Fld.CNT_COUNT (i : Nat) : FRef := ⟨0x1400800 + 0x8 * i, 47, 0⟩

end Sys2Proof.Machine
end

