-- ==== Sys2Proof/Machine/Ops.lean ====
section
/-! DEFINITION. The named operations over registers, memory, Setting records, cores and outputs that every meaning uses. -/
namespace Sys2Proof.Machine

/-- Sort a list by a total order, stably. -/
def sortBy {α : Type} (le : α → α → Bool) (l : List α) : List α :=
  l.foldl (fun r x => r.takeWhile (fun y => le y x) ++ [x] ++ r.dropWhile (fun y => le y x)) []

/-! ### Registers -/

/-- What a register that nothing has written reads as: its numeric Reset value (R18). -/
def regDefault (off : Nat) : W64 := BitVec.ofNat 64 (resetOf off)

/-- The fields of the register at `off`. -/
def State.reg (s : State) (off : Nat) : Nat := (SMap.get regDefault s.regs off).toNat

def State.setReg (s : State) (off v : Nat) : State :=
  { s with regs := SMap.set regDefault s.regs off (BitVec.ofNat 64 v) }

/-- A field of a register. -/
def State.fld (s : State) (f : FRef) : Nat := bits (s.reg f.off) f.hi f.lo

def State.setFld (s : State) (f : FRef) (v : Nat) : State :=
  s.setReg f.off (setBits (s.reg f.off) f.hi f.lo v)

def State.fldB (s : State) (f : FRef) : Bool := s.fld f == 1

def State.setFldB (s : State) (f : FRef) (b : Bool) : State := s.setFld f (if b then 1 else 0)

/-- Add to a 48-bit event counter, which wraps to zero after 2^48 − 1 (R504). -/
def State.bump (s : State) (f : FRef) (n : Nat) : State := s.setFld f ((s.fld f + n) % 2 ^ 48)

/-- An event of unit `unit` of kind `ukind`: the CNT_ counters that select it count while CNT_CTL.RUN is 1 (R506). -/
def State.event (s : State) (ukind unit ev : Nat) : State :=
  if s.fldB Fld.CNT_CTL_RUN then
    (List.range 32).foldl (fun (t : State) k =>
      if t.fld (Fld.CNT_SEL_UKIND k) = ukind && t.fld (Fld.CNT_SEL_UNIT k) = unit && t.fld (Fld.CNT_SEL_EVENT k) = ev then
        t.bump (Fld.CNT_COUNT k) 1
      else t) s
  else s

/-- Set bit `i` of a field to `b`. -/
def setBitTo (v i : Nat) (b : Bool) : Nat :=
  if v.testBit i = b then v else if b then v + 2 ^ i else v - 2 ^ i

def State.setFldBit (s : State) (f : FRef) (i : Nat) (b : Bool) : State := s.setFld f (setBitTo (s.fld f) i b)

/-- Make logical vector `v` pending (R315). -/
def State.pendVec (s : State) (v : Nat) : State := s.setFldBit (Fld.EP_INT_PEND_PEND (v / 32)) (v % 32) true

/-- A fresh free value (log entry 5). -/
def State.takeFree (s : State) : State × Nat := ({ s with freeCtr := s.freeCtr + 1 }, s.freeCtr)

/-- `n` fresh free values, from the number that is returned. -/
def State.takeFrees (s : State) (n : Nat) : State × Nat := ({ s with freeCtr := s.freeCtr + n }, s.freeCtr)

/-- Is the chip in a state in which its fast-clock units act on commands (Table 17.1, R483, R485)? -/
def State.runs (s : State) : Bool :=
  s.aon.vdd && !s.aon.cold && s.aon.fast && !s.aon.warm && (s.aon.dev == .vestibule || s.aon.dev == .service)

def State.inService (s : State) : Bool := s.runs && s.aon.dev == .service

/-- Apply `f` while the fast-clock units act; otherwise the event does not arise (log entry 4). -/
def State.whenRuns (s : State) (f : State → State) : State := if s.runs then f s else s

def State.whenService (s : State) (f : State → State) : State := if s.inService then f s else s

/-- The always-on clock moves on by one nanosecond: Newel counts while vdd_aon is up and cold_rst_n is high (R393; log
entry 8). -/
def State.tick (s : State) : State :=
  if s.aon.vdd && !s.aon.cold then
    let f := s.servo.frac + s.servo.rate
    let n : Nat := if f ≥ 1000000 then 2 else if f ≤ -1000000 then 0 else 1
    { s with aon := { s.aon with newel := s.aon.newel + BitVec.ofNat 64 n },
             servo := { s.servo with frac := if n = 2 then f - 1000000 else if n = 0 then f + 1000000 else f } }
  else s

/-! ### The Setting in force -/

/-- The value of a record of the Setting; empty where the Setting carries none (R416). -/
def recVal (l : List SRec) (key idx : Nat) : List Byte :=
  match l.find? (fun r => r.key == key && r.idx == idx) with
  | some r => r.val
  | none => []

def State.srec (s : State) (key idx : Nat) : List Byte := recVal s.setting key idx

def State.snat (s : State) (key idx : Nat) : Nat := leNat (s.srec key idx)

/-- The `n` bytes of a list from offset `o`, as a number. -/
def at' (l : List Byte) (o n : Nat) : Nat := leNat ((l.drop o).take n)

/-- Fenced units (Table 17.4): the number in `n` bytes at offset `o`. -/
def State.fence (s : State) (o n : Nat) : Nat := at' (s.srec 0x0A01 0) o n

/-- Is partition `p` defined (R416)? -/
def recDefined (l : List SRec) (p : Nat) : Bool := l.any (fun r => r.key == 0x0301 && r.idx == p)

def State.definedPart (s : State) (p : Nat) : Bool := recDefined s.setting p

def parts16 : List Nat := List.range 16

/-- The defined partitions. -/
def State.partsOf (s : State) : List Nat := parts16.filter s.definedPart

/-- The partition that owns core `c` (key 0x0301). -/
def State.corePart (s : State) (c : Nat) : Option Nat :=
  s.partsOf.find? (fun p => (s.snat 0x0301 p).testBit c)

/-- Pairs of base and length packed as u64 values from offset `o`, with `skip` bytes before each pair. -/
def pairsOf : Nat → Nat → List Byte → List (Nat × Nat)
  | 0, _, _ => []
  | n + 1, skip, l =>
    if l.length < skip + 16 then []
    else (at' l skip 8, at' l (skip + 8) 8) :: pairsOf n skip (l.drop (skip + 16))

/-! ### Local addresses (R192 to R197, R265) -/

def galleryBase : Nat := 0x10000000000
def galleryLin : Nat := 0x10080000000
def hostBase : Nat := 0x100000000000
def winBase : Nat := 0x200000000000
def regBase : Nat := 0x3FFFFE000000

def isHbm (a : Nat) : Bool := a < 0x10000000000
def isGallery (a : Nat) : Bool := galleryBase ≤ a && a < 0x10100000000
def isHostRange (a : Nat) : Bool := hostBase ≤ a && a < 0x200000000000
def isWindow (a : Nat) : Bool := winBase ≤ a && a < 0x300000000000
def isRegImage (a : Nat) : Bool := regBase ≤ a && a < 0x400000000000

/-- The bank and the offset within the bank of a Gallery address of either alias (R194). -/
def gBankW (a : Nat) : Nat × Nat :=
  if a < galleryLin then
    let o := a - galleryBase
    (bits o 16 9, bits o 30 17 * 512 + bits o 8 0)
  else
    let o := a - galleryLin
    (bits o 30 23, bits o 22 0)

/-- The one name this model gives a byte: an HBM address stands for itself, a Gallery address for its linear alias, so that
both aliases name one line (R194). -/
def canon (a : Nat) : Nat :=
  if isGallery a && a < galleryLin then galleryLin + (gBankW a).1 * 0x800000 + (gBankW a).2 else a

/-- The interleaved alias of a canonical Gallery address. -/
def interOf (a : Nat) : Nat :=
  let (b, w) := gBankW a
  galleryBase + (w / 512) * 0x20000 + b * 512 + w % 512

/-- Does the range at `base` of `len` bytes, given in either alias, cover the byte at canonical address `a` (R194)? -/
def covers (base len a : Nat) : Bool :=
  (base ≤ a && a < base + len) || (isGallery a && base ≤ interOf a && interOf a < base + len)

/-- Size of the memory-side cache in bytes (L2C_CFG.MSC_SIZE). -/
def State.mscSize (s : State) : Nat :=
  match s.fld Fld.L2C_CFG_MSC_SIZE with
  | 0 => 0 | 1 => 0x8000000 | 2 => 0x10000000 | 3 => 0x20000000 | _ => 0x40000000

/-- Bytes of one stack (L2C_CFG.STACK_CAP). -/
def State.stackCap (s : State) : Nat :=
  match s.fld Fld.L2C_CFG_STACK_CAP with
  | 0 => 48 * 0x40000000 | 1 => 64 * 0x40000000 | 2 => 96 * 0x40000000 | _ => 128 * 0x40000000

/-- How many bits of the low `n` of `v` are set. -/
def popBits : Nat → Nat → Nat
  | 0, _ => 0
  | n + 1, v => (if v.testBit n then 1 else 0) + popBits n v

def State.stacks (s : State) : Nat := popBits 8 (s.fld Fld.L2C_CFG_HBM_MASK)

/-- The installed capacity of HBM (R197). -/
def State.hbmCap (s : State) : Nat := s.stacks * s.stackCap

/-- Offsets below this in every bank are tier 0 (R195). -/
def State.tier0W (s : State) : Nat := 0x800000 - s.mscSize / 256

/-- Does canonical local address `a` name a byte of tier-0 Gallery or of installed HBM (R193)? -/
def State.holdsMem (s : State) (a : Nat) : Bool :=
  if isHbm a then a < s.hbmCap else isGallery a && (gBankW a).2 < s.tier0W

/-- The `j`-th set bit of `mask`, counting from bit 0. -/
def nthSet : Nat → Nat → Nat → Nat
  | 0, _, _ => 0
  | n + 1, mask, j => if mask.testBit (7 - n) then (if j = 0 then 7 - n else nthSet n mask (j - 1)) else nthSet n mask j

/-- The stack that holds an HBM address (R197). -/
def State.stackOf (s : State) (a : Nat) : Nat :=
  let n := s.stacks
  let b := log2 n
  let j := (bits a 10 8 ^^^ bits a 21 19 ^^^ bits a 32 30) % 2 ^ b
  nthSet 8 (s.fld Fld.L2C_CFG_HBM_MASK) j

/-- Does the Setting assign the byte at canonical address `a` to partition `p` (key 0x0302)? -/
def State.partOwns (s : State) (p a : Nat) : Bool :=
  (pairsOf 16 0 (s.srec 0x0302 p)).any (fun r => covers r.1 r.2 a)

/-- The partition whose memory holds canonical address `a` (R495). -/
def State.partOfAddr (s : State) (a : Nat) : Option Nat := s.partsOf.find? (fun p => s.partOwns p a)

/-- The part of the range of `len` bytes at `a` that lies from `lo` up to `hi`, as offsets from `lo`: first, and the end. -/
def clipRange (lo hi a len : Nat) : Nat × Nat := (max a lo - lo, min (a + len) hi - lo)

/-- The first offset in bank `b` whose place in the interleaved alias is at `o` or later (R194). -/
def wFrom (o b : Nat) : Nat :=
  let r := o / 512 % 256
  o / 0x20000 * 512 + (if b < r then 512 else if b = r then o % 512 else 0)

/-- The offsets of bank `b` that a range of local addresses names, in either alias, as intervals (R194). -/
def bankSpans (a len b : Nat) : List (Nat × Nat) :=
  let i := clipRange galleryBase galleryLin a len
  let l := clipRange galleryLin 0x10100000000 a len
  [(if i.1 < i.2 then (wFrom i.1 b, wFrom i.2 b) else (0, 0)), (l.1 - b * 0x800000, min (l.2 - b * 0x800000) 0x800000)].filter
    (fun x => x.1 < x.2)

/-- Do intervals together cover the one from `lo` up to `hi`? -/
def covered (l : List (Nat × Nat)) (lo hi : Nat) : Bool :=
  hi ≤ l.foldl (fun x _ => l.foldl (fun m i => if i.1 ≤ x then max m i.2 else m) x) lo

/-- Does partition `p` own every byte of the `len` bytes at local address `a`, and is each of them memory? Gallery bytes are
compared by bank and offset, whichever alias names them (R194). -/
def State.ownsRange (s : State) (p a len : Nat) : Bool :=
  let r := pairsOf 16 0 (s.srec 0x0302 p)
  let h := clipRange 0 galleryBase a len
  len == 0 ||
    (a + len ≤ 0x10100000000 &&
      (h.2 ≤ h.1 || (h.2 ≤ s.hbmCap && covered (r.map (fun q => (q.1, q.1 + q.2))) h.1 h.2)) &&
      (a + len ≤ galleryBase || (List.range 256).all (fun b =>
        (bankSpans a len b).all (fun x => x.2 ≤ s.tier0W && covered (r.flatMap (fun q => bankSpans q.1 q.2 b)) x.1 x.2))))

/-- Does the host range share of partition `p` hold `len` bytes at local address `a` (key 0x0303)? -/
def State.ownsHost (s : State) (p a len : Nat) : Bool :=
  let v := s.srec 0x0303 p
  let o := hostBase + at' v 0 8
  o ≤ a && a + len ≤ o + at' v 8 8

/-! ### Bytes of memory -/

/-- What a byte of Gallery or HBM that nothing has written reads as: zero for the Gallery (R427); an HBM byte has no
recorded value (R168). -/
def unlisted (a : Nat) : Option Byte := if isHbm a then none else some 0

/-- The byte listed at an address. -/
def memFind : List Host.Cell → Nat → Option Byte
  | [], _ => none
  | (j, v) :: r, a => if a = j then some v else memFind r a

/-- Write one byte, keeping addresses rising and listing no byte that equals what it would read as unlisted. -/
def memSet (m : List Host.Cell) (a : Nat) (v : Byte) : List Host.Cell :=
  if unlisted a = some v then SMap.del m a else SMap.put (SMap.del m a) a v

def memWfFrom : Option Nat → List Host.Cell → Bool
  | _, [] => true
  | b, (a, v) :: r =>
    (match b with | none => true | some j => decide (j < a)) && decide (unlisted a ≠ some v) && memWfFrom (some a) r

/-- The canonical form of memory. -/
def Memory.wf (m : List Host.Cell) : Bool := memWfFrom none m

/-- The byte of the array at canonical local address `a`; an HBM byte that nothing has written is a free value (log entry 6). -/
def State.byteAt (s : State) (a : Nat) : Byte :=
  match memFind s.mem a with
  | some v => v
  | none => if isHbm a then Config.hbmByte s.hbmGen a else 0

def State.setByte (s : State) (a : Nat) (v : Byte) : State := { s with mem := memSet s.mem a v }

/-- `n` consecutive bytes of the array. -/
def State.arrBytes (s : State) (a n : Nat) : List Byte := (List.range n).map (fun i => s.byteAt (a + i))

def State.setArr (s : State) : Nat → List Byte → State
  | _, [] => s
  | a, v :: r => (s.setByte a v).setArr (a + 1) r

/-! ### Homes of lines (R196) -/

/-- The home slice of a line, by its canonical local address. -/
def sliceOf (a : Nat) : Nat :=
  if isGallery a then
    let b := (gBankW a).1
    8 * ((b / 16) / 2) + (b % 16) / 2
  else
    bits a 12 7 ^^^ bits a 18 13 ^^^ bits a 24 19 ^^^ bits a 30 25 ^^^ bits a 36 31 ^^^ bits a 42 37 ^^^ bits a 45 43

/-- The L2 set of a line within its slice. -/
def setOf (a : Nat) : Nat := if isGallery a then bits ((gBankW a).2) 16 7 else bits a 22 13

/-- The directory set of a granule within its slice (R240). -/
def dirSetOf (a : Nat) : Nat :=
  if isGallery a then
    let (b, w) := gBankW a
    (b % 16 % 2) * 0x2000 + (b / 16 % 2) * 0x1000 + bits w 18 7
  else bits a 26 13

/-- This chip's number (XLT_CFG.CHIP). -/
def State.chip (s : State) : Nat := s.fld Fld.XLT_CFG_CHIP

/-- A device physical address of this chip from a local address (R266). -/
def State.paOf (s : State) (a : Nat) : Nat := s.chip * 2 ^ 46 + a

/-! ### The L2 and the memory-side cache, without policy -/

def l2Default (_ : Nat) : L2Line := L2Line.empty

def l2Key (slice set way : Nat) : Nat := (slice * 1024 + set) * 16 + way

def State.l2At (s : State) (k : Nat) : L2Line := SMap.get l2Default s.l2 k

def State.setL2 (s : State) (k : Nat) (l : L2Line) : State := { s with l2 := SMap.set l2Default s.l2 k l }

/-- The first key of the set of the line that holds canonical physical address `pa`. -/
def l2Base (pa : Nat) : Nat := l2Key (sliceOf (pa % 2 ^ 46)) (setOf (pa % 2 ^ 46)) 0

/-- The way that holds the line of `pa` (R207), by its key. -/
def State.l2Find (s : State) (pa : Nat) : Option Nat :=
  (List.range 16).findSome? (fun w =>
    let k := l2Base pa + w
    let l := s.l2At k
    if l.valid && l.line == pa / 128 then some k else none)

/-- A valid sector one of whose dirty bits is set is dirty (R205). -/
def Sector.withDup (x : Sector) (dup : Bool) : Sector := if dup && x.st != .i then { x with st := .m } else x

/-- The sector of a line that holds `pa`. -/
def L2Line.sec (l : L2Line) (pa : Nat) : Sector := if pa / 64 % 2 = 0 then l.s0.withDup l.dup0 else l.s1.withDup l.dup1

/-- Put a sector into a line; both of its dirty bits are written, and no refetch of it holds the way any more. -/
def L2Line.setSec (l : L2Line) (pa : Nat) (x : Sector) : L2Line :=
  if pa / 64 % 2 = 0 then { l with s0 := x, dup0 := x.st == .m, keep := l.keep &&& 2 }
  else { l with s1 := x, dup1 := x.st == .m, keep := l.keep &&& 1 }

/-- Has the line a dirty sector? -/
def L2Line.dirty (l : L2Line) : Bool := (l.sec 0).st == .m || (l.sec 64).st == .m

/-- Has the line no valid sector? -/
def L2Line.void (l : L2Line) : Bool := (l.sec 0).st == .i && (l.sec 64).st == .i

/-- A line whose dirty sectors have been written to memory. -/
def L2Line.cleaned (l : L2Line) : L2Line :=
  let cl := fun (x : Sector) => if x.st = .m then { x with st := .s } else x
  { l with s0 := cl (l.sec 0), s1 := cl (l.sec 64), dup0 := false, dup1 := false }

/-- What is left of a line that is invalidated: a locked line's way stays reserved for it (R209). -/
def L2Line.gone (l : L2Line) : L2Line :=
  if l.lock.isSome then { L2Line.empty with line := l.line, host := l.host, lock := l.lock } else L2Line.empty

/-- The bit of a sector in `keep`. -/
def keepBit (pa : Nat) : BitVec 2 := if pa / 64 % 2 = 0 then 1 else 2

/-- The sector of `pa` in the L2, where it is valid. -/
def State.l2Sec (s : State) (pa : Nat) : Option Sector :=
  match s.l2Find pa with
  | some k => let x := (s.l2At k).sec pa; if x.st = .i then none else some x
  | none => none

def State.setL2Sec (s : State) (pa : Nat) (x : Sector) : State :=
  match s.l2Find pa with
  | some k => s.setL2 k ((s.l2At k).setSec pa x)
  | none => s

def mscDefault (_ : Nat) : MscLine := MscLine.empty

/-- Does the way hold a line? -/
def MscLine.held (l : MscLine) : Bool := l.s0.isSome || l.s1.isSome

/-- Has the way a dirty sector? -/
def MscLine.dirty (l : MscLine) : Bool := [l.s0, l.s1].any (fun x => match x with | some y => y.dirty | none => false)

def MscLine.sec (l : MscLine) (a : Nat) : Option MscSec := if a / 64 % 2 = 0 then l.s0 else l.s1

/-- Put a sector into a way, or take it out; a way without sectors is free. -/
def MscLine.setSec (l : MscLine) (a : Nat) (x : Option MscSec) : MscLine :=
  let l := if a / 64 % 2 = 0 then { l with s0 := x } else { l with s1 := x }
  if l.held then l else MscLine.empty

/-- The way of the memory-side cache that holds the line of an HBM address. -/
def State.mscFind (s : State) (a : Nat) : Option Nat :=
  (s.msc.find? (fun e => e.2.held && e.2.line == a / 128)).map (·.1)

def State.mscAt (s : State) (k : Nat) : MscLine := SMap.get mscDefault s.msc k

def State.setMscLine (s : State) (k : Nat) (l : MscLine) : State := { s with msc := SMap.set mscDefault s.msc k l }

/-- The sector of an HBM address in the memory-side cache (R218), where it is present. -/
def State.mscSec (s : State) (a : Nat) : Option MscSec := (s.mscFind a).bind (fun k => (s.mscAt k).sec a)

/-- Change the sector of an HBM address in the way that holds its line, or take it out. -/
def State.setMsc (s : State) (a : Nat) (x : Option MscSec) : State :=
  match s.mscFind a with
  | some k => s.setMscLine k ((s.mscAt k).setSec a x)
  | none => s

def noPoison (_ : Nat) : Bool := false

/-- Is the sector of the array at canonical address `a` poisoned (R220, R224)? -/
def State.arrPoison (s : State) (a : Nat) : Bool :=
  if isHbm a then SMap.get noPoison s.hpoison (a / 64) else SMap.get noPoison s.gpoison (a / 64)

/-- Entries in use in the poison table of stack `k`. -/
def State.poisonUsed (s : State) (k : Nat) : Nat :=
  (s.hpoison.filter (fun e => e.2 && s.stackOf (e.1 * 64) == k)).length

/-- Mark or clear the poison of an array sector; a full poison table takes no new entry (R224). -/
def State.setArrPoison (s : State) (a : Nat) (b : Bool) : State :=
  if isHbm a then
    let k := s.stackOf a
    if b && !s.arrPoison a && s.poisonUsed k ≥ 1024 then s
    else
      let s' := { s with hpoison := SMap.set noPoison s.hpoison (a / 64) b }
      s'.setFld (Fld.L2C_HBM_POISON_USED k) (s'.poisonUsed k)
  else { s with gpoison := SMap.set noPoison s.gpoison (a / 64) b }

/-- Write a whole 64-byte sector of the array with its poison (R221). -/
def State.setArrSec (s : State) (a : Nat) (data : List Byte) (poison : Bool) : State :=
  (s.setArr (a / 64 * 64) (data.take 64)).setArrPoison a poison

/-- Memory below the L2: the memory-side cache where it holds the sector, else the array (R218). -/
def State.belowL2 (s : State) (a : Nat) : List Byte × Bool :=
  match s.mscSec a with
  | some x => (x.data, x.poison)
  | none => (s.arrBytes (a / 64 * 64) 64, s.arrPoison a)

/-- The current bytes of a 64-byte sector of this chip's memory with its poison: the L2 copy, else the memory below. -/
def State.curSec (s : State) (a : Nat) : List Byte × Bool :=
  match s.l2Sec (s.paOf a) with
  | some x => (x.data, x.poison)
  | none => s.belowL2 a

/-- The search for a line to replace among ways with ages (R206): how far every candidate ages, and the victim. -/
def ageVictim (cand : List Nat) (age : Nat → Nat) : Option (Nat × Nat) :=
  let top := cand.foldl (fun m w => max m (age w)) 0
  (cand.find? (fun w => top ≤ age w)).map (fun w => (3 - top, w))

/-! ### HBM stacks (R223, R225) -/

def stackDefault (_ : Nat) : HbmSt := .powerDown

/-- The state of an HBM stack. -/
def State.stackSt (s : State) (k : Nat) : HbmSt := SMap.get stackDefault s.hbmSt k

/-- The stacks of a mask are in service. One that was and is left out enters self-refresh; one that never was stays in power-down. -/
def stacksFor (m : SMap HbmSt) (mask : Nat) : SMap HbmSt :=
  (List.range 8).foldl (fun m k =>
    if mask.testBit k then SMap.set stackDefault m k .on
    else if SMap.get stackDefault m k = .on then SMap.set stackDefault m k .selfRefresh else m) m

/-- Replace the bytes of a list from offset `o`. -/
def patch (l : List Byte) (o : Nat) (v : List Byte) : List Byte := l.take o ++ v.take (l.length - o) ++ l.drop (o + v.length)

/-- Merge single bytes into a list of 64. -/
def patchBytes (l : List Byte) (bs : List (Nat × Byte)) : List Byte := bs.foldl (fun m b => m.set b.1 b.2) l

/-- The bytes that a 64-bit mask selects. -/
def maskBytes (mask : W64) (data : List Byte) : List (Nat × Byte) :=
  (data.zipIdx.filter (fun d => mask.getLsbD d.2)).map (fun d => (d.2, d.1))

/-- Write bytes of one sector where its current copy lies: the L2 copy when there is one, which becomes dirty, else the
memory-side cache, else the array. A whole-sector write clears the poison, a narrower one leaves it (R221). -/
def State.storeSec (s : State) (a : Nat) (bs : List (Nat × Byte)) : State :=
  let whole := bs.length ≥ 64
  match s.l2Sec (s.paOf a) with
  | some x => s.setL2Sec (s.paOf a) { st := .m, poison := x.poison && !whole, data := patchBytes x.data bs }
  | none =>
    match s.mscSec a with
    | some x => s.setMsc a (some { dirty := true, poison := x.poison && !whole, data := patchBytes x.data bs })
    | none =>
      let s' := bs.foldl (fun t b => t.setByte (a / 64 * 64 + b.1) b.2) s
      if whole then s'.setArrPoison a false else s'

/-- Write a run of bytes at a local address of this chip's memory, sector by sector, where their current copies lie. -/
def State.storeRun (s : State) (a : Nat) (data : List Byte) : State :=
  let secs := List.range ((a % 64 + data.length + 63) / 64)
  secs.foldl (fun t i =>
    let base := a / 64 * 64 + 64 * i
    let lo := max a base
    let hi := min (a + data.length) (base + 64)
    let bs := (List.range (hi - lo)).map (fun j => (lo - base + j, (data.drop (lo - a + j)).headD 0))
    t.storeSec (canon base) bs) s

/-- Read a run of bytes at a local address of this chip's memory from the current copies. -/
def State.loadRun (s : State) (a n : Nat) : List Byte :=
  (List.range n).map (fun i =>
    let c := canon (a + i)
    (((s.curSec c).1).drop (c % 64)).headD 0)

/-- Is any sector of a run poisoned? -/
def State.runPoison (s : State) (a n : Nat) : Bool :=
  (List.range ((a % 64 + n + 63) / 64)).any (fun i => (s.curSec (canon (a / 64 * 64 + 64 * i))).2)

/-! ### Cores, groups and teams -/

def coreDefault (_ : Nat) : Core := Core.empty

def State.core (s : State) (c : Nat) : Core := SMap.get coreDefault s.cores c

def State.setCore (s : State) (c : Nat) (k : Core) : State := { s with cores := SMap.set coreDefault s.cores c k }

def State.modCore (s : State) (c : Nat) (f : Core → Core) : State := s.setCore c (f (s.core c))

def noTeam (_ : Nat) : Option Team := none
def noGroup (_ : Nat) : Option Group := none

def Core.team (k : Core) (t : Nat) : Option Team := SMap.get noTeam k.teams t
def Core.setTeam (k : Core) (t : Nat) (v : Option Team) : Core := { k with teams := SMap.set noTeam k.teams t v }
def Core.group (k : Core) (g : Nat) : Option Group := SMap.get noGroup k.groups g
def Core.setGroup (k : Core) (g : Nat) (v : Option Group) : Core := { k with groups := SMap.set noGroup k.groups g v }

/-- The groups in group slots, with their slots. -/
def Core.groupList (k : Core) : List (Nat × Group) := k.groups.filterMap (fun e => e.2.map (fun g => (e.1, g)))

/-- The teams in team slots, with their slots. -/
def Core.teamList (k : Core) : List (Nat × Team) := k.teams.filterMap (fun e => e.2.map (fun t => (e.1, t)))

/-- Groups of team `t`. -/
def Core.groupsOf (k : Core) (t : Nat) : List (Nat × Group) := k.groupList.filter (fun e => e.2.team == t)

/-- Change the group of team `t` with index `i`, in its slot or, while the team is preempted, in its saved state (R120). -/
def Core.modGroupOf (k : Core) (t i : Nat) (f : Group → Group) : Core :=
  let k1 : Core := { k with groups := k.groups.map (fun e => (e.1, e.2.map (fun g => if g.team == t && g.gidx == i then f g else g))) }
  match k1.team t with
  | some tm => k1.setTeam t (some { tm with saved := tm.saved.map (fun g => if g.gidx == i then f g else g) })
  | none => k1

/-- The group of team `t` with index `i`, in its slot or saved. -/
def Core.groupOf (k : Core) (t i : Nat) : Option Group :=
  match (k.groupsOf t).find? (fun e => e.2.gidx == i) with
  | some e => some e.2
  | none =>
    match k.team t with
    | some tm => tm.saved.find? (fun g => g.gidx == i)
    | none => none

def zeroW32 (_ : Nat) : W32 := 0

/-- Register xN of a lane; x255 reads as zero (Table 00.9). -/
def Group.xr (g : Group) (r lane : Nat) : W32 := if r = 255 then 0 else SMap.get zeroW32 g.x (32 * r + lane)

def Group.setX (g : Group) (r lane : Nat) (v : W32) : Group :=
  if r = 255 then g else { g with x := SMap.set zeroW32 g.x (32 * r + lane) v }

def Group.ur (g : Group) (r : Nat) : W32 := SMap.get zeroW32 g.u r
def Group.setU (g : Group) (r : Nat) (v : W32) : Group := { g with u := SMap.set zeroW32 g.u r v }

/-- Predicate p of a lane; p0 reads as true (R151). -/
def Group.pr (g : Group) (p lane : Nat) : Bool := if p = 0 then true else (SMap.get zeroW32 g.p p).getLsbD lane

/-- Write a predicate of a lane; a write to p0 is discarded (R151). -/
def Group.setP (g : Group) (p lane : Nat) (b : Bool) : Group :=
  if p = 0 then g
  else
    let m := SMap.get zeroW32 g.p p
    { g with p := SMap.set zeroW32 g.p p (if b then m ||| (1#32 <<< lane) else m &&& ~~~ (1#32 <<< lane)) }

def lanes32 : List Nat := List.range 32

/-- The lanes of a mask, in lane order. -/
def lanesOf (m : W32) : List Nat := lanes32.filter (fun i => m.getLsbD i)

/-! ### Outputs -/

/-- The channel of the host link on which a command arrives: 1 CXL.io, 2 the requests of CXL.mem, 3 those with data; 0 any other. -/
def hostChan : Instr → Nat
  | .configRequest _ _ _ _ | .registerRead .host _ _ | .registerWrite .host _ _ _ | .doorbell _ _ | .cqCons _ _ | .bar4Read _ _
  | .bar4Write _ _ _ | .cxlReset | .cxlIoCompletion _ _ _ | .ideKm _ _ _ | .doeDiscovery _ | .cdatTableAccess _ => 1
  | .getVersion t | .getCapabilities t | .negotiateAlgorithms t _ | .getCertificate t _ _ _ | .challenge t _ _ | .getMeasurements t _ _
  | .keyExchange t _ | .heartbeat t _ | .keyUpdate t _ | .getQuote t _ _ | .getLog t _ _ | .getPqChain t => if t = .mctpSmbus then 0 else 1
  | .memRd _ _ | .memRdData _ | .memInv _ _ | .memInvNT _ _ | .memClnEvct _ _ | .biConflict _ => 2
  | .memWr _ _ _ _ | .memWrPtl _ _ _ _ => 3
  | _ => 0

/-- Is a BAR4 write being performed at the home (R305, R306)? -/
def State.bar4Open (s : State) : Bool :=
  s.txns.any (fun t => t.req.rq == .local_ && t.req.op == .wrp) || s.conflict.any (fun r => r.rq == .local_ && r.op == .wrp)

/-- Has what arrives on a channel to wait: for a retrain, for what came before it on its channel, and on CXL.io for a BAR4 write that is
being performed (R306, R318)? -/
def State.linkBusy (s : State) (k : Nat) : Bool :=
  s.ep.retrain || s.inWait.any (fun c => hostChan c == k) || (k == 1 && s.bar4Open)

/-- What the host has sent waits before the endpoint; without a link nothing comes. -/
def State.keepIn (s : State) (c : Instr) : State := if s.runs && s.ep.linkUp then { s with inWait := s.inWait ++ [c] } else s

def State.hostSend (s : State) (m : HostMsg) : State := { s with ep := { s.ep with tx := s.ep.tx ++ [m] } }

/-- How many requests the hold buffer holds. -/
def State.heldCount (s : State) : Nat := (s.ep.hold.filter (fun h => !h.bad)).length

def State.noteHeld (s : State) : State := s.setFld Fld.EP_CONT_HELD_HELD s.heldCount

/-- Mark the oldest held request that `p` selects as poisoned, and count it (R321). -/
def State.poisonHeld (s : State) (p : Held → Bool) : State :=
  match s.ep.hold.findIdx? (fun h => !h.bad && p h) with
  | none => s
  | some i =>
    let s : State := { s with ep := { s.ep with hold := s.ep.hold.zipIdx.map (fun h => if h.2 = i then { h.1 with bad := true } else h.1) } }
    let s := s.bump Fld.EP_HELD_POISON_CNT_COUNT 1
    (s.setFld Fld.EP_CONT_HELD_POISONED (min (s.fld Fld.EP_CONT_HELD_POISONED + 1) 65535)).noteHeld

/-- The writable words of configuration space, as they differ from reset. -/
def zeroCfg (_ : Nat) : W32 := 0
def State.cfgW (s : State) (off : Nat) : W32 := SMap.get zeroCfg s.ep.cfg off

/-- Is the function in D3hot (R302)? The power state of its Power Management structure at 0x40 (log entry 12). -/
def State.inD3 (s : State) : Bool := bits (s.cfgW 0x44).toNat 1 0 = 3

/-- Memory Space Enable and Bus Master Enable (R299). -/
def State.memEnable (s : State) : Bool := (s.cfgW 0x04).getLsbD 1
def State.busMaster (s : State) : Bool := (s.cfgW 0x04).getLsbD 2

/-- Does the function send no CXL.io request of its own: in D3hot (R302), and without Bus Master Enable (R299)? -/
def State.ioBarred (s : State) : Bool := s.inD3 || !s.busMaster

/-- Is it a CXL.io request of the chip's own? -/
def HostMsg.isIo : HostMsg → Bool
  | .memRd _ _ _ => true
  | .memWr _ _ => true
  | _ => false

/-- An outbound CXL.cache or CXL.io request of the chip's own: sent, or held while the endpoint is not in its normal state, while
a module retrain pauses traffic or, a CXL.io request, in D3hot or without Bus Master Enable; a full hold buffer poisons its oldest entry (R299, R302, R318, R320, R321). -/
def State.hostOut (s : State) (who : Who) (m : HostMsg) : State :=
  if s.ep.cont = .normal && !s.ep.retrain && !(s.ioBarred && m.isIo) then s.hostSend m
  else
    let s := if s.heldCount ≥ 512 then s.poisonHeld (fun _ => true) else s
    ({ s with ep := { s.ep with hold := s.ep.hold ++ [⟨m, who, false⟩] } } : State).noteHeld

/-- May outbound requests leave now? -/
def State.hostFlows (s : State) : Bool := s.ep.cont == .normal && !s.ep.retrain

def portDefault (_ : Nat) : Port := Port.empty
def State.port (s : State) (p : Nat) : Port := SMap.get portDefault s.ports p
def State.setPort (s : State) (p : Nat) (v : Port) : State := { s with ports := SMap.set portDefault s.ports p v }
def State.modPort (s : State) (p : Nat) (f : Port → Port) : State := s.setPort p (f (s.port p))

/-- The state of a port, as STW_PORT_STATUS encodes it (Table 13.1). -/
def PortSt.code : PortSt → Nat
  | .down => 0 | .train => 1 | .ident => 2 | .key => 3 | .up => 4 | .contained => 5 | .disabled => 6

/-- The ports of the route to a chip, primary first (R380, key 0x0802). -/
def State.route (s : State) (chip : Nat) : List Nat :=
  ((s.srec 0x0802 chip).map (·.toNat)).filter (fun p => p < 8)

/-- The first port of the route that is UP; `none`: the chip is cut off (R380). -/
def State.routePort (s : State) (chip : Nat) : Option Nat :=
  (s.route chip).find? (fun p => (s.port p).st == .up)

/-- Opcodes of window requests (Table 13.5). -/
def isWinReq (opc : Nat) : Bool := opc == 0x40 || opc == 0x41 || opc == 0x42

def zero64 : List Byte := List.replicate 64 0

/-- A routed message with the fields given and the others zero; the sender sets HOPS to 15 (R386). -/
def mkMsg (opc dst src txn addr aux : Nat) (data : List Byte) : Msg :=
  { opc := BitVec.ofNat 8 opc, starve := false, poison := false, dst := BitVec.ofNat 10 dst, src := BitVec.ofNat 10 src,
    span := 0, txn := BitVec.ofNat 12 txn, hops := 15, addr := BitVec.ofNat 56 addr, aux := BitVec.ofNat 8 aux, mask := 0,
    data := data }

/-- The virtual channel of an opcode (Table 13.5). -/
def vcOf (opc : Nat) : Nat :=
  if opc < 0x20 then 0 else if opc < 0x30 then 1 else if opc < 0x40 then 2 else if opc < 0x50 then 3 else if opc < 0x60 then 4 else 5

/-- Credits of 16 bytes that a message needs (Table 13.5, R387). -/
def msgUnits (opc : Nat) : Nat :=
  if opc = 0x16 || opc = 0x41 then 6
  else if [0x13, 0x15, 0x30, 0x31, 0x33, 0x34, 0x42, 0x50, 0x52].contains opc || opc ≥ 0x60 then 5 else 1

/-- A message as a flit carries it: its header of Table 13.4, the MASK of WrP and WWr, and the 64 bytes of a data message; a link-local
one in its four bytes (R386, Table 13.5). -/
def LinkMsg.bytes : LinkMsg → List Byte
  | .ack seq => [1] ++ natLe 2 seq.toNat ++ [0]
  | .nak seq => [2] ++ natLe 2 seq.toNat ++ [0]
  | .credit vc n => [3] ++ natLe 1 vc ++ natLe 2 n
  | .routed m =>
    let o := m.opc.toNat
    natLe 1 o ++ natLe 1 ((if m.starve then 1 else 0) + (if m.poison then 2 else 0)) ++ natLe 2 m.dst.toNat ++
      natLe 2 (m.src.toNat + 2 ^ 10 * m.span.val) ++ natLe 2 (m.txn.toNat + 2 ^ 12 * m.hops.toNat) ++ natLe 7 m.addr.toNat ++ natLe 1 m.aux.toNat ++
      (if o = 0x16 || o = 0x41 then natLe 8 m.mask.toNat else []) ++ (if msgUnits o ≥ 5 then m.data else [])

/-- The key of the sending direction at an epoch (R454). -/
def Port.key (q : Port) (epoch : W32) : List Byte := hkdfExpand q.prk (q.info ++ natLe 4 epoch.toNat)

/-- The 256 bytes of a flit as it leaves: its first two bytes are the additional data, its payload the ciphertext under the key of its
epoch, with the epoch and the transmit counter as the nonce (Table 13.3, R385). -/
def Port.wire (q : Port) (f : Flit) : List Byte :=
  let head := natLe 2 ((if f.ks then 2 else 1) + 16 * f.seq.toNat)
  let body := f.msgs.flatMap LinkMsg.bytes
  let body := body ++ List.replicate (242 - body.length) 0
  let nonce := natLe 4 f.epoch.toNat ++ natLe 8 q.txCnt.toNat
  let key := q.key f.epoch
  head ++ Config.gcmSeal key nonce head body ++ (natLe 16 (Config.gcmTag key nonce head body).toNat).take 12

/-- The stamps that a TIME message takes as it leaves: T1 of TIME_REQ, T3 of TIME_RSP (R393, R394). -/
def LinkMsg.stamp (now : W64) : LinkMsg → LinkMsg
  | .routed m =>
    if m.opc = 0x60 then .routed { m with data := patch m.data 0 (natLe 8 now.toNat) }
    else if m.opc = 0x61 then .routed { m with data := patch m.data 16 (natLe 8 now.toNat) }
    else .routed m
  | x => x

/-- Is it a TIME_REQ? -/
def LinkMsg.isReq : LinkMsg → Bool
  | .routed m => m.opc == 0x60
  | _ => false

/-- A flit leaves the port; the replay buffer keeps the last 1,024 (R388). -/
def Port.emit (q : Port) (now : W64) (ks : Bool) (ms : List LinkMsg) : Port :=
  let f : Flit := ⟨q.txSeq, ks, q.epoch, ms.map (LinkMsg.stamp now)⟩
  let l := q.replay ++ [f]
  { q with tx := q.tx ++ [q.wire f], replay := l.drop (l.length - 1024), txSeq := q.txSeq + 1, txCnt := q.txCnt + 1,
           t1 := if ms.any LinkMsg.isReq then some now else q.t1 }

/-- Flits are sent again, each under the next count of the transmit counter (R385, R388). -/
def Port.resend (q : Port) (l : List Flit) : Port :=
  l.foldl (fun q f => { q with tx := q.tx ++ [q.wire f], txCnt := q.txCnt + 1 }) q

/-- A link-local message leaves in a flit of its own, where the port has a key (R386; DESIGN CHOICE, log entry 51). -/
def Port.link (q : Port) (now : W64) (x : LinkMsg) : Port := if q.st = .up || q.st = .key then q.emit now false [x] else q

def noCredit (_ : Nat) : Nat := 0

/-- The messages that wait leave in flits while the port is UP, the replay buffer has room, and their channel has credits; on each
channel in order. How messages share flits is open: each has its own. -/
def Port.pump (q : Port) (now : W64) : Port :=
  if q.st ≠ .up then q
  else
    let r := q.queue.foldl (fun (r : Port × List Nat × List Msg) m =>
      let (q, stuck, rest) := r
      let vc := vcOf m.opc.toNat
      let n := msgUnits m.opc.toNat
      let c := SMap.get noCredit q.credits vc
      if stuck.contains vc || c < n || q.replay.length ≥ 1024 then (q, vc :: stuck, rest ++ [m])
      else (({ q with credits := SMap.set noCredit q.credits vc (c - n) } : Port).emit now false [.routed m], stuck, rest)) (q, [], [])
    { r.1 with queue := r.2.2 }

/-- A message is queued on a port and leaves when it can. -/
def Port.put (q : Port) (now : W64) (m : Msg) : Port := ({ q with queue := q.queue ++ [m] } : Port).pump now

/-- A message is queued on port `p`. -/
def State.putPort (s : State) (p : Nat) (m : Msg) : State := s.modPort p (fun q => q.put s.aon.newel m)

/-- The receiver returns the credits of a message that has left its buffer (R387). Port 8 stands for this chip itself. -/
def State.creditBack (s : State) (p : Nat) (m : Msg) : State :=
  if p ≥ 8 then s
  else s.modPort p (fun q => if q.st = .up then q.link s.aon.newel (.credit (vcOf m.opc.toNat) (msgUnits m.opc.toNat)) else q)

/-- Queue a routed message on the first UP port of its route. A message to a cut-off destination is discarded and counted,
and a window request among them is answered with WErr, reason 0x07 (R380, R381). A message to this chip is received. -/
def State.send (s : State) (m : Msg) : State :=
  if m.dst.toNat = s.chip then { s with inbox := s.inbox ++ [(8, m)] }
  else
    match s.routePort m.dst.toNat with
    | some p => s.putPort p m
    | none =>
      let s := s.bump Fld.STW_DISCARD_CNT_COUNT 1
      if isWinReq m.opc.toNat then
        let e := mkMsg 0x53 m.src.toNat m.dst.toNat m.txn.toNat m.addr.toNat 7 zero64
        if m.src.toNat = s.chip then { s with inbox := s.inbox ++ [(8, e)] }
        else
          match s.routePort m.src.toNat with
          | some p => s.putPort p e
          | none => s.bump Fld.STW_DISCARD_CNT_COUNT 1
      else s

end Sys2Proof.Machine
end

