-- ==== Sys2Proof/Machine/Paths.lean ====
section
/-! DEFINITION. Paths and reconvergence of a group (R95 to R100, Table 03.3): branches, instruction boundaries, EXIT and the
yield, over the group alone, with the number of stack spills and fills that each makes. -/
namespace Sys2Proof.Machine

/-- A group with the spills and fills its stack has made, and the fewest entries that stood in its spill area meanwhile: those above
have been moved there (R95). -/
structure PathRes where
  g   : Group
  n   : Nat
  low : Nat
  deriving DecidableEq, Repr

/-- Entries of a group's stack that stand in its spill area: all but the top 8 (R95). -/
def Group.spilled (g : Group) : Nat := g.stack.length - 8

/-- A group before its path moves. -/
def Group.path (g : Group) : PathRes := ⟨g, 0, g.spilled⟩

/-- Push an entry; onto a full set of 8 in the core this spills one entry (R95). -/
def PathRes.push (r : PathRes) (e : PathEnt) : PathRes :=
  { r with g := { r.g with stack := e :: r.g.stack }, n := if r.g.stack.length ≥ 8 then r.n + 1 else r.n }

/-- Pop the top entry; this fills one entry where any is spilled (R95). -/
def PathRes.pop (r : PathRes) : PathRes :=
  { g := { r.g with stack := r.g.stack.tail }, n := if r.g.stack.length > 8 then r.n + 1 else r.n, low := min r.low (r.g.spilled - 1) }

/-- Make a path active. -/
def PathRes.act (r : PathRes) (pc : W64) (m : W32) : PathRes := { r with g := { r.g with pc := pc, act := m } }

/-- The nearest RECONV of a stack. -/
def nearestRecon (st : List PathEnt) : Option PathEnt := st.find? (·.recon)

/-- One instruction-boundary row of Table 03.3, the merge row first (R97); `none` when no row applies. -/
def boundaryStep (r : PathRes) : Option PathRes :=
  match r.g.stack with
  | [] => none
  | e :: _ =>
    if !e.recon && e.pc == r.g.pc then some ((r.pop).act r.g.pc (r.g.act ||| e.mask))
    else if !e.recon then
      match nearestRecon r.g.stack with
      | some k => if k.pc == r.g.pc then some ((r.pop).act e.pc e.mask) else none
      | none => none
    else if e.pc == r.g.pc then some ((r.pop).act e.pc (e.mask &&& r.g.live))
    else none

/-- Apply the instruction-boundary rows until none applies (R97); each pops one entry. -/
def boundaryN : Nat → PathRes → PathRes
  | 0, r => r
  | n + 1, r => match boundaryStep r with | some r' => boundaryN n r' | none => r

def boundary (r : PathRes) : PathRes := boundaryN (r.g.stack.length + 1) r

/-- A group runs on to `pc`, and the boundary rows apply. -/
def Group.goto (g : Group) (pc : W64) : PathRes := boundary ({ g with pc := pc } : Group).path

/-- The backward-branch count of R98 after a taken branch to a target at or before its own address. -/
def Group.countBack (g : Group) (back : Bool) : Group :=
  if back then { g with bb := if g.act = g.live then 0 else g.bb + 1 } else g

/-- A conditional branch with taken set `t` (Table 03.3, R98): target, next instruction, reconvergence point; `back` says
that the target is at or before the branch. -/
def Group.branch (g : Group) (t : W32) (pT pN r : W64) (back : Bool) : PathRes :=
  let n := g.act &&& ~~~ t
  let g' := g.countBack (back && t != 0)
  if t = 0 then boundary ({ g' with pc := pN } : Group).path
  else if n = 0 then boundary ({ g' with pc := pT } : Group).path
  else
    let p := g'.path.push ⟨true, r, g.act⟩
    if pT = r then boundary (p.act pN n)
    else if pN = r then boundary (p.act pT t)
    else boundary ((p.push ⟨false, pN, n⟩).act pT t)

/-- The distinct targets of an indirect branch in ascending order of the lowest lane that names each, with their threads. -/
def targetGroups (tg : List (Nat × W64)) : List (W64 × W32) :=
  tg.foldl (fun acc e =>
    let bit : W32 := 1#32 <<< e.1
    if acc.any (fun a => a.1 == e.2) then acc.map (fun a => if a.1 == e.2 then (a.1, a.2 ||| bit) else a)
    else acc ++ [(e.2, bit)]) []

/-- An indirect branch: the target each active lane names, in lane order; the reconvergence point (Table 03.3). A target
at or before the branch's own address counts as a backward branch (R98). -/
def Group.branchInd (g : Group) (tg : List (Nat × W64)) (r self : W64) : PathRes :=
  let ts := targetGroups tg
  let g' := g.countBack (ts.any (fun t => t.1.toNat ≤ self.toNat))
  match ts with
  | [] => boundary g'.path
  | [t] => boundary ({ g' with pc := t.1 } : Group).path
  | _ =>
    let others := ts.filter (fun t => t.1 != r)
    match others with
    | [] => boundary g'.path
    | t0 :: rest =>
      let p := g'.path.push ⟨true, r, g.act⟩
      let p := rest.reverse.foldl (fun a t => a.push ⟨false, t.1, t.2⟩) p
      boundary (p.act t0.1 t0.2)

/-- The EXIT rows of Table 03.3 once every active thread has exited; `none`: the group has exited. -/
def exitN : Nat → PathRes → Option PathRes
  | 0, _ => none
  | n + 1, r =>
    match r.g.stack with
    | [] => none
    | e :: _ =>
      if !e.recon then some (boundary ((r.pop).act e.pc e.mask))
      else if e.mask &&& r.g.live ≠ 0 then some (boundary ((r.pop).act e.pc (e.mask &&& r.g.live)))
      else exitN n r.pop

/-- Threads `m` of the active path execute EXIT at an instruction whose successor is `next` (R97, R164); `none`: the group
has exited. -/
def Group.exitLanes (g : Group) (m : W32) (next : W64) : Option PathRes :=
  let live := g.live &&& ~~~ m
  let st := g.stack.map (fun e => { e with mask := e.mask &&& live })
  let g' : Group := { g with live := live, act := g.act &&& ~~~ m, stack := st, pc := next }
  if g'.act ≠ 0 then some (boundary g'.path) else exitN (st.length + 1) g'.path

/-- The loop of the yield procedure of R98. -/
def yieldN : Nat → W64 → PathRes → PathRes
  | 0, _, r => r
  | n + 1, rp, r =>
    match r.g.stack with
    | [] => r
    | e :: _ =>
      if !e.recon then ((r.pop).push ⟨false, rp, r.g.act⟩).act e.pc e.mask
      else
        let w := e.mask &&& ~~~ r.g.act &&& r.g.live
        if w ≠ 0 then ((r.pop).push ⟨false, rp, r.g.act⟩).act e.pc w
        else yieldN n rp r.pop

/-- The yield of R98 with its resume point, followed by the boundary rows. -/
def Group.yieldAt (g : Group) (rp : W64) : PathRes :=
  boundary (yieldN (g.stack.length + 1) rp ({ g with bb := 0, pc := rp } : Group).path)

/-- Does the active path hold every live thread (R100)? -/
def Group.converged (g : Group) : Bool := g.act == g.live

end Sys2Proof.Machine
end

