-- ==== Sys2Proof/Machine/Hallmark.lean ====
section
/-! DEFINITION. The registers and events of the Hallmark (R440, R441, R443). -/
namespace Sys2Proof.Machine

/-! ### Events of the Hallmark (R440, R443) -/

def zeroHm (_ : Nat) : List Byte := zeros48

def State.hm (s : State) (n : Nat) : List Byte := SMap.get zeroHm s.rot.hm n

/-- The 64 bytes of an event (Table 15.4). -/
def hevBytes (e : HEvent) : List Byte :=
  natLe 2 e.ty ++ [BitVec.ofNat 8 e.reg, 0] ++ natLe 4 e.index ++ natLe 8 e.newel.toNat ++ e.digest

/-- Extend register `reg` by an event and log it; a full log makes no entry and sets LOG_OVF. -/
def State.hmExtend (s : State) (reg ty index : Nat) (digest : List Byte) : State :=
  let e : HEvent := ⟨ty, reg, index, s.aon.newel, digest, s.rot.hmSeq⟩
  let h := sha384 (s.hm reg ++ hevBytes e)
  let r : Rot := { s.rot with hm := SMap.set zeroHm s.rot.hm reg h }
  if r.log.length ≥ 8192 then ({ s with rot := r } : State).setFldB Fld.SEC_STATUS_LOG_OVF true
  else { s with rot := { r with log := r.log ++ [e], hmSeq := r.hmSeq + 1 } }

end Sys2Proof.Machine
end

