-- ==== Sys2Proof/Machine/Float.lean ====
section
/-! DEFINITION. Numbers and formats ("Facet and the narrow number formats"): exact values, decoding and encoding of every
format of Table 02.1, rounding to nearest and stochastic rounding, clips, and FP32 and packed arithmetic (R40 to R72, R85,
R155). -/
namespace Sys2Proof.Machine

/-- A value read from a format. `neg` of a finite value is its sign, zero included. -/
inductive FVal where
  | nan (neg : Bool)
  | inf (neg : Bool)
  | fin (neg : Bool) (v : Rat)
  deriving DecidableEq, Repr

def FVal.isNan : FVal → Bool
  | .nan _ => true
  | _ => false

def FVal.isFin : FVal → Bool
  | .fin _ _ => true
  | _ => false

def FVal.negOf : FVal → Bool
  | .nan n => n
  | .inf n => n
  | .fin n _ => n

/-- The exact value of a finite value; zero for the others. -/
def FVal.val : FVal → Rat
  | .fin _ v => v
  | _ => 0

def FVal.flip : FVal → FVal
  | .nan n => .nan (!n)
  | .inf n => .inf (!n)
  | .fin n v => .fin (!n) (-v)

/-- `2^e` for an integer exponent. -/
def pow2 (e : Int) : Rat := if e ≥ 0 then ((2 ^ e.toNat : Nat) : Rat) else 1 / ((2 ^ (-e).toNat : Nat) : Rat)

/-- A floating-point format: exponent bits, mantissa bits and which codes are special (Table 02.2). -/
inductive Special where
  /-- Exponent field all ones holds infinity and NaN. -/
  | ieee
  /-- Only the codes 0x7F and 0xFF are NaN; no infinity. -/
  | e4m3
  /-- Every code is finite. -/
  | none
  deriving DecidableEq, Repr

structure FFmt where
  e    : Nat
  m    : Nat
  sp   : Special
  /-- Finite overflow clips to the largest finite value (R69, R70). -/
  clip : Bool
  deriving DecidableEq, Repr

def FFmt.bias (f : FFmt) : Nat := 2 ^ (f.e - 1) - 1
def FFmt.width (f : FFmt) : Nat := 1 + f.e + f.m

def fp32 : FFmt := ⟨8, 23, .ieee, false⟩
def fp16 : FFmt := ⟨5, 10, .ieee, false⟩
def bf16 : FFmt := ⟨8, 7, .ieee, false⟩
def e4m3 : FFmt := ⟨4, 3, .e4m3, true⟩
def e5m2 : FFmt := ⟨5, 2, .ieee, true⟩
def e3m2 : FFmt := ⟨3, 2, .none, true⟩
def e2m3 : FFmt := ⟨2, 3, .none, true⟩
def e2m1 : FFmt := ⟨2, 1, .none, true⟩

/-- The magnitude of a magnitude code: exponent field zero is subnormal (R43). -/
def FFmt.mag (f : FFmt) (c : Nat) : Rat :=
  let ex := c / 2 ^ f.m
  let mt := c % 2 ^ f.m
  if ex = 0 then (mt : Rat) * pow2 (1 - (f.bias : Int) - (f.m : Int))
  else ((2 ^ f.m + mt : Nat) : Rat) * pow2 ((ex : Int) - (f.bias : Int) - (f.m : Int))

/-- The largest finite magnitude code. -/
def FFmt.maxCode (f : FFmt) : Nat :=
  match f.sp with
  | .ieee => (2 ^ f.e - 1) * 2 ^ f.m - 1
  | .e4m3 => 2 ^ (f.e + f.m) - 2
  | .none => 2 ^ (f.e + f.m) - 1

/-- The value of a code of a floating-point format (Table 02.2). -/
def FFmt.decode (f : FFmt) (code : Nat) : FVal :=
  let neg := code.testBit (f.e + f.m)
  let c := code % 2 ^ (f.e + f.m)
  if c ≤ f.maxCode then .fin neg (if neg then -(f.mag c) else f.mag c)
  else if f.sp = .ieee && c = f.maxCode + 1 then .inf neg
  else .nan neg

/-- The canonical quiet NaN with a sign (R71). -/
def FFmt.nanCode (f : FFmt) (neg : Bool) : Nat :=
  let c := match f.sp with
    | .ieee => (2 ^ f.e - 1) * 2 ^ f.m + 2 ^ (f.m - 1)
    | _ => 2 ^ (f.e + f.m) - 1
  c + (if neg then 2 ^ (f.e + f.m) else 0)

/-- `floor(log2 x)` of a positive rational. -/
def ratLog2 (x : Rat) : Int :=
  let n := x.num.toNat
  let g : Int := (Nat.log2 n : Int) - (Nat.log2 x.den : Int)
  if x < pow2 g then g - 1 else g

/-- The magnitude code at or below a positive magnitude, and how far it lies towards the next code, from 0 to less than 1. -/
def FFmt.below (f : FFmt) (x : Rat) : Nat × Rat :=
  if x ≤ 0 then (0, 0)
  else
    let emin : Int := 1 - (f.bias : Int)
    let ex := max (ratLog2 x) emin
    let y := x * pow2 ((f.m : Int) - ex)
    let n := y.floor.toNat
    ((ex - emin).toNat * 2 ^ f.m + n, y - (n : Rat))

/-! ### Rounding (R66, R67) -/

/-- How a conversion rounds: to nearest, or stochastically with the draws of a stream. -/
inductive Rnd where
  | near
  | stoch
  deriving DecidableEq, Repr

/-- What a conversion did: its code, the draws it has used, and whether it clipped or read a NaN or an infinity that the
target does not have (R50, R69). -/
structure EncRes where
  code  : Nat
  used  : Nat
  clip  : Bool
  nanIn : Bool
  infIn : Bool
  deriving DecidableEq, Repr

def encOk (code used : Nat) : EncRes := ⟨code, used, false, false, false⟩

/-- Does a value that lies the fraction `q` of the way from `a` to `b` go to `b`? `evenB` says that `b` has the even code;
`r` is the draw (R66, R67). -/
def roundUp (rnd : Rnd) (q : Rat) (evenB : Bool) (r : Nat) : Bool :=
  match rnd with
  | .near => if q = 1 / 2 then evenB else q > 1 / 2
  | .stoch => (q * 65536).floor.toNat + r ≥ 65536

/-- Encode a value in a floating-point format; draw `k` of the stream is `d k` (R66 to R72). -/
def FFmt.encode (f : FFmt) (rnd : Rnd) (d : Nat → Nat) (k : Nat) (x : FVal) : EncRes :=
  let sign := fun (n : Bool) => if n then 2 ^ (f.e + f.m) else 0
  match x with
  | .nan n =>
    if f.sp = .none then ⟨f.maxCode, k, false, true, false⟩ else encOk (f.nanCode n) k
  | .inf n =>
    if f.sp = .ieee then encOk (f.maxCode + 1 + sign n) k else ⟨f.maxCode + sign n, k, true, false, true⟩
  | .fin n v =>
    let x := if v < 0 then -v else v
    if f.clip && x > f.mag f.maxCode then ⟨f.maxCode + sign n, k, true, false, false⟩
    else
      let (c, q) := f.below x
      if f.sp = .ieee && c ≥ f.maxCode + 1 then encOk (f.maxCode + 1 + sign n) k
      else if q = 0 then encOk (c + sign n) k
      else
        -- between two finite codes R67 orders by value; above the largest finite magnitude R70 rounds the magnitude
        let up := if n && rnd = .stoch && c < f.maxCode then !(roundUp rnd (1 - q) (c % 2 = 0) (d k)) else roundUp rnd q (c % 2 = 1) (d k)
        encOk ((if up then c + 1 else c) + sign n) (if rnd = .stoch then k + 1 else k)

/-- Encode on the integer grid `−maxI … maxI`: the integer, with the fraction rule of R66 and R67, and whether it clipped. -/
def gridEncode (maxI : Int) (rnd : Rnd) (d : Nat → Nat) (k : Nat) (y : Rat) : Int × Nat × Bool :=
  if y > (maxI : Rat) then (maxI, k, true)
  else if y < -(maxI : Rat) then (-maxI, k, true)
  else
    let n := y.floor
    let q := y - (n : Rat)
    if q = 0 then (n, k, false)
    else ((if roundUp rnd q ((n + 1) % 2 = 0) (d k) then n + 1 else n), (if rnd = .stoch then k + 1 else k), false)

/-! ### Format codes (R40) -/

/-- The element of a format: a floating-point format, E2M1 without negative zero, a two's complement integer of `w` bits
with a step, Facet-2 or Facet-T. -/
inductive Elem where
  | flt (f : FFmt)
  | facet4
  | int (w : Nat) (step : Int)
  | facet2
  | facetT
  deriving DecidableEq, Repr

/-- The element of a format code; `none`: reserved (Table 02.1). -/
def elemOf (code : Nat) : Option Elem :=
  match code with
  | 0x00 => some (.flt fp32) | 0x01 => some (.flt fp16) | 0x02 => some (.flt bf16) | 0x03 => some (.flt e4m3)
  | 0x04 => some (.flt e5m2) | 0x08 => some (.flt e4m3) | 0x09 => some (.flt e5m2) | 0x0A => some (.flt e3m2)
  | 0x0B => some (.flt e2m3) | 0x0C => some (.flt e2m1) | 0x0D => some (.int 8 (-6))
  | 0x10 => some .facet4 | 0x11 => some (.int 4 0) | 0x12 => some (.int 3 0) | 0x13 => some .facet2 | 0x14 => some .facetT
  | _ => none

def isMx (code : Nat) : Bool := 0x08 ≤ code && code ≤ 0x0D
def isFacet (code : Nat) : Bool := 0x10 ≤ code && code ≤ 0x14
def isPlain (code : Nat) : Bool := code ≤ 0x04

/-- Bits of an element (Table 02.1). -/
def elemBits (code : Nat) : Nat :=
  match code with
  | 0x00 => 32 | 0x01 => 16 | 0x02 => 16 | 0x03 => 8 | 0x04 => 8 | 0x08 => 8 | 0x09 => 8 | 0x0A => 6 | 0x0B => 6
  | 0x0C => 4 | 0x0D => 8 | 0x10 => 4 | 0x11 => 4 | 0x12 => 3 | 0x13 => 2 | 0x14 => 2 | _ => 0

/-- Rate class of a matrix operand in bits (Table 04.1); zero: not a matrix operand. -/
def rateOf (code : Nat) : Nat :=
  match code with
  | 0x01 => 16 | 0x02 => 16 | 0x03 => 8 | 0x04 => 8 | 0x08 => 8 | 0x09 => 8 | 0x0A => 8 | 0x0B => 8 | 0x0D => 8
  | 0x0C => 4 | 0x10 => 4 | 0x11 => 4 | 0x12 => 4 | 0x13 => 2 | 0x14 => 2 | _ => 0

/-- Bytes of an element entry (Table 02.7). -/
def entryBytes (code : Nat) : Nat := if isFacet code then elemBits code * 2 else elemBits code * 4

/-- The value of an element code (Tables 02.2 to 02.5). -/
def Elem.decode (e : Elem) (code : Nat) : FVal :=
  match e with
  | .flt f => f.decode code
  | .facet4 => if code % 16 = 8 then .fin false 0 else e2m1.decode (code % 16)
  | .int w step => let i := sext w code; .fin (i < 0) ((i : Rat) * pow2 step)
  | .facet2 => let v : Rat := ((code % 4 : Nat) : Rat) - 3 / 2; .fin (v < 0) v
  | .facetT => if code % 4 = 1 then .fin false 1 else if code % 4 = 3 then .fin true (-1) else .fin false 0

/-- The code of zero of a format, or 0b10 for Facet-2 (R77). -/
def Elem.nearZero : Elem → Nat
  | .facet2 => 2
  | _ => 0

/-- The largest magnitude of a Facet format (Table 02.5). -/
def Elem.qmax : Elem → Rat
  | .flt f => f.mag f.maxCode
  | .facet4 => 6
  | .int w step => ((2 ^ (w - 1) - 1 : Nat) : Rat) * pow2 step
  | .facet2 => 3 / 2
  | .facetT => 1

/-- Encode a value as an element (R44, R47 to R50, R66 to R72). -/
def Elem.encode (e : Elem) (rnd : Rnd) (d : Nat → Nat) (k : Nat) (x : FVal) : EncRes :=
  let grid := fun (maxI : Int) (y : Rat) (code : Int → Nat) =>
    let (i, k', c) := gridEncode maxI rnd d k y
    (⟨code i, k', c, false, false⟩ : EncRes)
  match e with
  | .flt f => f.encode rnd d k x
  | .facet4 =>
    let r := e2m1.encode rnd d k x
    if r.code % 8 = 0 then { r with code := 0 } else r
  | .int w step =>
    let m : Int := 2 ^ (w - 1) - 1
    match x with
    | .nan _ => ⟨wrapInt w m, k, false, true, false⟩
    | .inf n => ⟨wrapInt w (if n then -m else m), k, true, false, true⟩
    | .fin _ v => grid m (v * pow2 (-step)) (wrapInt w)
  | .facet2 =>
    match x with
    | .nan _ => ⟨3, k, false, true, false⟩
    | .inf n => ⟨if n then 0 else 3, k, true, false, true⟩
    | .fin _ v =>
      if v > 3 / 2 then ⟨3, k, true, false, false⟩
      else if v < -(3 / 2) then ⟨0, k, true, false, false⟩
      else grid 3 (v + 3 / 2) (fun i => i.toNat)
  | .facetT =>
    match x with
    | .nan _ => ⟨1, k, false, true, false⟩
    | .inf n => ⟨if n then 3 else 1, k, true, false, true⟩
    | .fin _ v => grid 1 v (fun i => if i = 1 then 1 else if i = -1 then 3 else 0)

/-! ### Block scales -/

/-- The value of a U5M3 block scale; `none`: NaN (R46). -/
def u5m3 (c : Nat) : Option Rat :=
  if c = 0xFF then none
  else if c / 8 = 0 then some (((c % 8 : Nat) : Rat) * pow2 (-17))
  else some (((8 + c % 8 : Nat) : Rat) * pow2 ((c / 8 : Nat) - 18))

/-- The value of an E8M0 scale; `none`: NaN (Table 02.2). -/
def e8m0 (c : Nat) : Option Rat := if c = 0xFF then none else some (pow2 ((c : Int) - 127))

/-- The U5M3 code at or below a non-negative target and its fraction towards the next code. -/
def u5m3Below (t : Rat) : Nat × Rat :=
  if t ≤ 0 then (0, 0)
  else
    let ex := max (ratLog2 t) (-14)
    let y := t * pow2 (3 - ex)
    let n := y.floor.toNat
    ((ex + 14).toNat * 8 + n, y - (n : Rat))

/-- pick_scale of R78: fit (0) or nearest (1); the code and whether SCALE_SAT is set. -/
def pickScale (nearest : Bool) (t : Rat) : Nat × Bool :=
  if t ≤ 0 then (0, false)
  else if t > 114688 then (0xFE, true)
  else
    let (c, q) := u5m3Below t
    if q = 0 then (c, false)
    else if nearest then
      let r := if roundUp .near q (c % 2 = 1) 0 then c + 1 else c
      (max 1 (min r 0xFE), false)
    else (c + 1, false)

/-- The E8M0 code of `2^x`, clamped (R80, R81). -/
def e8m0Code (x : Int) : Nat := if x < -127 then 0 else if x > 127 then 254 else (x + 127).toNat

/-! ### Arithmetic -/

/-- An exact sum with IEEE 754's sign of zero under round to nearest. -/
def FVal.add (a b : FVal) : FVal :=
  match a, b with
  | .nan n, _ => .nan n
  | _, .nan n => .nan n
  | .inf n, .inf m => if n = m then .inf n else .nan false
  | .inf n, _ => .inf n
  | _, .inf n => .inf n
  | .fin n x, .fin m y =>
    let z := x + y
    .fin (if z = 0 then n && m && x = 0 else z < 0) z

/-- An exact product. -/
def FVal.mul (a b : FVal) : FVal :=
  match a, b with
  | .nan n, _ => .nan n
  | _, .nan n => .nan n
  | .inf n, .inf m => .inf (n != m)
  | .inf n, .fin m y => if y = 0 then .nan false else .inf (n != m)
  | .fin n x, .inf m => if x = 0 then .nan false else .inf (n != m)
  | .fin n x, .fin m y => .fin (n != m) (x * y)

/-- `a × b + c`, exact. -/
def FVal.fma (a b c : FVal) : FVal := (a.mul b).add c

def noDraw (_ : Nat) : Nat := 0

/-- Round a value to nearest in a format, with the positive canonical NaN (R155). -/
def FFmt.round (f : FFmt) (x : FVal) : Nat :=
  match x with
  | .nan _ => f.nanCode false
  | v => ({ f with clip := false } : FFmt).encode .near noDraw 0 v |>.code

/-- Is `a` below `b`, with −0 below +0 (R155)? -/
def FVal.ltz (a b : FVal) : Bool :=
  match a, b with
  | .inf n, .inf m => n && !m
  | .inf n, _ => n
  | _, .inf m => !m
  | .fin n x, .fin m y => x < y || (x = y && n && !m)
  | _, _ => false

/-- MINF and MAXF (R155). -/
def FVal.minf (a b : FVal) : FVal :=
  if a.isNan then b else if b.isNan then a else if b.ltz a then b else a

def FVal.maxf (a b : FVal) : FVal :=
  if a.isNan then b else if b.isNan then a else if a.ltz b then b else a

/-- Numeric order of two values that are no NaN: below, equal (R155). -/
def FVal.lt (a b : FVal) : Bool :=
  match a, b with
  | .inf n, .inf m => n && !m
  | .inf n, .fin _ _ => n
  | .fin _ _, .inf m => !m
  | .fin _ x, .fin _ y => x < y
  | _, _ => false

def FVal.eq (a b : FVal) : Bool :=
  match a, b with
  | .inf n, .inf m => n = m
  | .fin _ x, .fin _ y => x = y
  | _, _ => false

/-- The comparison of TESTF (Table 05.4, R155). -/
def cmpF (cmp : Nat) (a b : FVal) : Bool :=
  let un := a.isNan || b.isNan
  match cmp with
  | 0 => !un && a.eq b
  | 1 => un || !(a.eq b)
  | 2 => !un && a.lt b
  | 3 => !un && (a.lt b || a.eq b)
  | 4 => !un && b.lt a
  | 5 => !un && (b.lt a || a.eq b)
  | 6 => !un
  | 7 => un
  | _ => false

/-- The comparison of TESTI (Table 05.4). -/
def cmpI (cmp : Nat) (signed : Bool) (a b : W32) : Bool :=
  let x : Int := if signed then a.toInt else a.toNat
  let y : Int := if signed then b.toInt else b.toNat
  match cmp with
  | 0 => x == y | 1 => x != y | 2 => x < y | 3 => x ≤ y | 4 => x > y | 5 => x ≥ y | _ => false

def f32 (w : W32) : FVal := fp32.decode w.toNat

/-- FP32 addition rounded to nearest (R86). -/
def fadd32 (a b : W32) : W32 := BitVec.ofNat 32 (fp32.round ((f32 a).add (f32 b)))

/-! ### The generator of a core (R68) -/

def srNext (x : W64) : W64 :=
  let x := x ^^^ (x <<< 13)
  let x := x ^^^ (x >>> 7)
  x ^^^ (x <<< 17)

/-- The first `n` draws of a generator, and its state after them. -/
def srDraws : Nat → W64 → List Nat × W64
  | 0, x => ([], x)
  | n + 1, x =>
    let y := srNext x
    let (l, z) := srDraws n y
    (bits y.toNat 63 48 :: l, z)

def srSeed (v : W64) : W64 := if v = 0 then srZero else v

/-- A rearrangement of a list by free picks: the order in which the draws of an instruction are made is not defined (R68). -/
def permuteN : Nat → Nat → List Nat → List Nat
  | 0, _, l => l
  | n + 1, base, l =>
    if l.isEmpty then []
    else
      let i := Config.drawOrder base n % l.length
      l.getD i 0 :: permuteN n base (l.eraseIdx i)

end Sys2Proof.Machine
end

