-- ==== Sys2Proof/Machine/Flags.lean ====
section
/-! DEFINITION. The sticky format flags and the counters of a core's FMT_ registers (R69, R79, R80, R90, R143), and the
comparisons that write predicates. -/
namespace Sys2Proof.Machine

/-- Set a bit of FMT_STATUS. -/
def State.fmtFlag (s : State) (f : FRef) (b : Bool) : State := if b then s.setFldB f true else s

/-- Record what one conversion did in the core's FMT_ registers (R50, R69). -/
def State.noteEnc (s : State) (c : Nat) (r : EncRes) : State :=
  let s := if r.clip then (s.bump (Fld.FMT_CLIP_CNT_COUNT c) 1).setFldB (Fld.FMT_STATUS_CLIP c) true else s
  (s.fmtFlag (Fld.FMT_STATUS_NAN_IN c) r.nanIn).fmtFlag (Fld.FMT_STATUS_INF_IN c) r.infIn

/-- Stochastic rounding is requested and not turned off (R75). -/
def State.rndOf (s : State) (c : Nat) (stoch : Bool) : Rnd :=
  if stoch && !(s.fldB (Fld.FMT_GUARD_CTL_SR_OFF c)) then .stoch else .near

/-- The draws of an instruction of core `c` that makes `n` of them, in an order that is not defined (R68), with the
generator moved on. -/
def State.takeDraws (s : State) (c n : Nat) : State × (Nat → Nat) :=
  if n = 0 then (s, noDraw)
  else
    let (l, st) := srDraws n (s.core c).sr
    let (s, k) := s.takeFree
    let p := permuteN n k l
    (s.modCore c (fun q => { q with sr := st }), fun i => p.getD i 0)

end Sys2Proof.Machine
end

