-- ==== Sys2Proof/Machine/Operands.lean ====
section
/-! DEFINITION. The operand forms of the core instructions: which encodings are legal (R149 to R153, R165, R507, Tables 05.2
to 05.4), which registers an instruction names (Table 05.3, R104), and how a lane reads its operands. -/
namespace Sys2Proof.Machine

/-- The operations of Table 05.2. -/
inductive Op where
  | add | sub | mul | mulh | muladd | bool | shift | testi | choose | copy | seti | addw | bitop | xlane | poll
  | addf | mulf | fmaf | minf | maxf | testf | fmap | addp | mulp | spf
  | cvt | qnt | stq | ld | st | ldloc | stloc | rmw | rmwl | mma | mld
  | xfer | xwait | tbr | fence | lwait | br | bri | exit | nop | gets
  deriving DecidableEq, Repr

/-- The operation of OP, the opcode byte less its EXT bit (Table 05.2); `none`: reserved (R152). Whether EXT is allowed is
`extNeed`'s (R149). -/
def opOf (b : Nat) : Option Op :=
  match b with
  | 0x01 => some .add | 0x02 => some .sub | 0x03 => some .mul | 0x04 => some .mulh | 0x05 => some .muladd | 0x06 => some .bool
  | 0x07 => some .shift | 0x08 => some .testi | 0x09 => some .choose | 0x0A => some .copy | 0x0B => some .seti | 0x0C => some .addw
  | 0x0D => some .bitop | 0x0E => some .xlane | 0x0F => some .poll
  | 0x10 => some .addf | 0x11 => some .mulf | 0x12 => some .fmaf | 0x13 => some .minf | 0x14 => some .maxf | 0x15 => some .testf
  | 0x16 => some .fmap | 0x17 => some .addp | 0x18 => some .mulp | 0x19 => some .spf
  | 0x20 => some .cvt | 0x21 => some .qnt | 0x22 => some .stq
  | 0x30 => some .ld | 0x31 => some .st | 0x32 => some .ldloc | 0x33 => some .stloc
  | 0x40 => some .rmw | 0x41 => some .rmwl
  | 0x50 => some .mma | 0x51 => some .mld
  | 0x60 => some .xfer | 0x61 => some .xwait | 0x62 => some .tbr | 0x63 => some .fence | 0x64 => some .lwait
  | 0x70 => some .br | 0x71 => some .bri | 0x72 => some .exit | 0x73 => some .nop | 0x74 => some .gets
  | _ => none

/-- May the words stand in the command of operation `o`: they spell it, or their opcode byte is reserved, which no row of the table
names and every core checks (R152, R165; log entry 103)? -/
def spells (i : Issue) (o : Op) : Bool := opOf i.opc == some o || opOf i.opc == none

/-- A field of MOD. -/
def encMod (w : Enc) (hi lo : Nat) : Nat := bits w.mod.toNat hi lo

/-- A field of the extension word; zero when there is none. -/
def encExt (w : Enc) (hi lo : Nat) : Nat := if w.ext then bits w.xw.toNat hi lo else 0

def rDst (w : Enc) : Nat := w.dst.toNat
def rA (w : Enc) : Nat := w.sa.toNat
def rB (w : Enc) : Nat := w.sb.toNat
def rC (w : Enc) : Nat := w.sc.toNat

/-- U of an integer instruction (R154). -/
def isU (w : Enc) : Bool := encMod w 19 19 = 1

/-- IMM of an integer or float instruction (Table 05.4). -/
def isImm (w : Enc) : Bool := encMod w 15 15 = 1

/-- UA of LD and ST; of RMW; of BRI (Table 05.4). -/
def uaMem (w : Enc) : Bool := encMod w 12 12 = 1
def uaRmw (w : Enc) : Bool := encMod w 10 10 = 1
def uaBri (w : Enc) : Bool := encMod w 19 19 = 1

/-- The bytes of SIZE (Table 05.4). -/
def sizeBytes (c : Nat) : Nat := 2 ^ c

/-- Registers that an access of `n` bytes moves. -/
def sizeRegs (n : Nat) : Nat := if n ≤ 4 then 1 else n / 4

/-! ### Which operation reads which source (R507) -/

def readsA : Op → Bool
  | .add | .sub | .mul | .mulh | .muladd | .bool | .shift | .testi | .choose | .xlane | .bitop => true
  | .addf | .mulf | .fmaf | .minf | .maxf | .testf | .fmap | .addp | .mulp | .spf => true
  | _ => false

def readsB : Op → Bool
  | .add | .sub | .mul | .mulh | .muladd | .bool | .shift | .testi | .choose | .xlane | .copy => true
  | .addf | .mulf | .fmaf | .minf | .maxf | .testf | .fmap | .addp | .mulp => true
  | _ => false

def readsC : Op → Bool
  | .muladd | .fmaf | .fmap => true
  | _ => false

def isInt : Op → Bool
  | .add | .sub | .mul | .mulh | .muladd | .bool | .shift | .testi | .choose | .copy | .bitop | .xlane => true
  | _ => false

def isFlt : Op → Bool
  | .addf | .mulf | .fmaf | .minf | .maxf | .testf | .fmap | .addp | .mulp | .spf => true
  | _ => false

/-- Operations that may be uniform (R154). -/
def mayU : Op → Bool
  | .add | .sub | .mul | .bool | .shift | .copy | .bitop => true
  | _ => false

/-- Extension word (R149): 0 forbidden, 1 optional, 2 required. -/
def extNeed (o : Op) : Nat :=
  if isInt o || (isFlt o && o != .spf) then 1
  else
    match o with
    | .ld | .st | .rmw => 1
    | .mma | .br | .bri => 2
    | _ => 0

/-! ### Register fields (R150, Table 05.3) -/

/-- A field that the instruction does not use. -/
def unused (r : Nat) : Bool := r == 255

/-- A run of `n` x registers that starts at a multiple of `al`; a single register may be x255. -/
def xRun (r n al : Nat) : Bool := r % al == 0 && (n == 1 || r + n ≤ 255)

/-- A run of `n` u registers. -/
def uRun (r n : Nat) : Bool := r + n ≤ 64

def pReg (r : Nat) : Bool := r ≤ 7

/-- Do two runs share a register? -/
def runsMeet (a n b m : Nat) : Bool := a < b + m && b < a + n

/-- A bit of `m` set where `b` is false is reserved: bits of MOD that the operation does not assign (R153, R507). -/
def modWithin (w : Enc) (mask : Nat) : Bool := w.mod.toNat &&& (0xFFFFF - mask) == 0

/-- MOD bits assigned to an integer or float operation (Table 05.4, R507). -/
def arithMask (o : Op) : Nat :=
  (if mayU o then 0x80000 else 0) + (if readsA o then 0x40000 else 0) + (if readsB o then 0x20000 + 0x8000 else 0) +
    (if readsC o then 0x10000 else 0) +
    (match o with
      | .bool | .shift | .bitop | .xlane | .spf | .fmap | .addp | .mulp => 0x7000
      | .testi | .testf => 0xF00
      | .choose => 0xF00
      | _ => 0) +
    (match o with | .testi | .mulh => 0x80 | _ => 0) +
    (if isFlt o then (if readsA o then 0x80 else 0) + (if readsB o then 0x40 else 0) + (if readsC o then 0x20 else 0) else 0)

/-- Values that an enumerated modifier of an integer or float operation may hold (Table 05.4). -/
def arithVals (o : Op) (w : Enc) : Bool :=
  let func := encMod w 14 12
  match o with
  | .bool => func ≤ 3
  | .shift => func ≤ 2
  | .bitop => func ≤ 2
  | .xlane => func ≤ 3
  | .spf => func ≤ 5
  | .fmap | .addp | .mulp => func ≤ 1
  | .testi => encMod w 11 8 ≤ 5
  | .testf => encMod w 11 8 ≤ 7
  | _ => true

/-- A single-register source field: a u register when its SU bit is 1 or the operation is uniform. -/
def srcOk (w : Enc) (reads : Bool) (su r : Nat) : Bool :=
  if reads then (if su = 1 || isU w then uRun r 1 else true) else unused r

/-- Integer and float operations with single-register operands. -/
def legalArith (o : Op) (w : Enc) : Bool :=
  modWithin w (arithMask o) && arithVals o w &&
    (if isImm w then w.ext && unused (rB w) && encMod w 17 17 == 0 && encExt w 63 32 == 0 else !w.ext || w.xw == 0) &&
    (if mayU o && isU w then encMod w 18 16 == 0 && w.pred == 0 && !w.pneg else true) &&
    srcOk w (readsA o) (encMod w 18 18) (rA w) &&
    (if readsB o && isImm w then true else srcOk w (readsB o) (encMod w 17 17) (rB w)) &&
    srcOk w (readsC o) (encMod w 16 16) (rC w) &&
    (match o with
      | .testi | .testf => pReg (rDst w)
      | _ => if mayU o && isU w then uRun (rDst w) 1 else true)

/-- XM, XX runs of MLD and MMA: `255` is none. -/
def metaRunOk (r : Nat) : Bool := r == 255 || r + 3 ≤ 255
def escRunOk (r n : Nat) : Bool := r == 255 || (r % 4 == 0 && r + n ≤ 255)

/-- Registers of an escalation run in the class of a format (Table 04.2), taken as 8 for a format of no class (DESIGN CHOICE,
log entry 126). -/
def escLen (fmt : Nat) : Nat := if fmt = 0x13 || fmt = 0x14 then 16 else 8

/-- A branch offset of the extension word, sign-extended. -/
def brTgt (w : Enc) : Int := sext 32 (encExt w 31 0)
def brRcv (w : Enc) : Int := sext 32 (encExt w 63 32)

/-- Runs that D of an MMA shall not meet (R128). -/
def mmaDisjoint (w : Enc) : Bool :=
  let d := rDst w
  let ok := fun (r n : Nat) => r == 255 || !(runsMeet d 8 r n)
  (d == rC w || !(runsMeet d 8 (rC w) 8)) && ok (rA w) 4 && ok (rB w) 4 && ok (encExt w 7 0) 3 && ok (encExt w 15 8) 3 &&
    ok (encExt w 23 16) (escLen (encMod w 19 15)) && ok (encExt w 31 24) (escLen (encMod w 14 10))

/-- The operand rules of an operation, beyond the EXT and predicate rules (R150, R153, R157, R163 to R165, R507). LIDX of an LWAIT with U 1 and
SX of a load of 4, 8 or 16 bytes may hold anything (DESIGN CHOICE, log entry 127). -/
def legalOp (o : Op) (w : Enc) : Bool :=
  let d := rDst w
  let a := rA w
  let b := rB w
  let c := rC w
  let noB := unused b
  let noC := unused c
  let noSrc := unused a && noB && noC
  let size := sizeBytes (encMod w 19 17)
  let nr := sizeRegs size
  match o with
  | .seti => noSrc
  | .addw => modWithin w 0 && xRun d 2 2 && xRun a 2 2 && xRun b 2 2 && noC
  | .poll => modWithin w 0x7F00 && encMod w 14 12 ≤ 2 && noSrc && (if encMod w 14 12 = 2 then true else pReg d)
  | .cvt =>
    modWithin w 0xFFFE0 && noB && noC &&
      (let fs := encMod w 19 15
       let fd := encMod w 14 10
       (!isPlain fs || encMod w 8 7 < 32 / elemW fs) && (!isPlain fd || encMod w 6 5 < 32 / elemW fd))
  | .qnt => modWithin w 0xF8080 && xRun d 2 2 && xRun a 4 4 && uRun b 5 && noC
  | .stq => modWithin w 0x80 && unused d && xRun a 2 2 && uRun b 2 && uRun c 2
  | .ld =>
    modWithin w 0xFF000 && encMod w 19 17 ≤ 4 && xRun d nr nr && (if uaMem w then uRun a 2 else xRun a 2 2) && noB && noC &&
      encExt w 63 32 == 0
  | .st =>
    modWithin w 0xEF000 && encMod w 19 17 ≤ 4 && unused d && (if uaMem w then uRun a 2 else xRun a 2 2) && xRun b nr nr && noC &&
      encExt w 63 32 == 0
  | .ldloc => modWithin w 0xFFFFF && encMod w 19 17 ≤ 4 && xRun d nr nr && noB && noC
  | .stloc => modWithin w 0xEFFFF && encMod w 19 17 ≤ 4 && unused d && xRun b nr nr && noC
  | .rmw =>
    let n := if encMod w 15 15 = 1 then 2 else 1
    modWithin w 0xFFC00 && encMod w 19 16 ≤ 0xA && !(encMod w 19 16 == 1 && encMod w 15 15 == 1) &&
      (d == 255 || xRun d n n) && (if uaRmw w then uRun a 2 else xRun a 2 2) && xRun b n n &&
      (if encMod w 19 16 = 0xA then xRun c n n else noC) && encExt w 63 32 == 0
  | .rmwl =>
    let n := if encMod w 15 15 = 1 then 2 else 1
    modWithin w 0xF8000 && encMod w 19 16 ≤ 0xA && !(encMod w 19 16 == 1 && encMod w 15 15 == 1) &&
      (d == 255 || xRun d n n) && xRun b n n && (if encMod w 19 16 = 0xA then xRun c n n else noC)
  | .mma =>
    modWithin w 0xFFF80 && encExt w 63 32 == 0 && xRun d 8 8 && xRun c 8 8 && xRun a 4 4 && xRun b 4 4 &&
      metaRunOk (encExt w 7 0) && metaRunOk (encExt w 15 8) && escRunOk (encExt w 23 16) (escLen (encMod w 19 15)) &&
      escRunOk (encExt w 31 24) (escLen (encMod w 14 10)) && mmaDisjoint w
  | .mld =>
    modWithin w 0xFF080 && xRun d 4 4 && uRun a 2 && uRun b 2 && metaRunOk c &&
      (encMod w 19 12 == 255 || encMod w 19 12 % 4 == 0)
  | .xfer => modWithin w 0xF0000 && encMod w 17 16 ≤ 2 && uRun d 1 && uRun a 2 && uRun b 2 && uRun c 2
  | .xwait => modWithin w 0x1F && encMod w 4 0 ≤ 16 && unused d && noSrc
  | .tbr =>
    modWithin w 0xFFF00 && unused d && noSrc &&
      (if encMod w 14 14 = 1 then encMod w 13 8 == 0 else 1 ≤ encMod w 13 8 && encMod w 13 8 ≤ 32)
  | .fence => modWithin w 0xF0000 && encMod w 17 16 ≤ 2 && unused d && noSrc
  | .lwait => modWithin w 0x800FF && (if encMod w 19 19 = 1 then uRun a 1 else unused a) && noB && noC
  | .br =>
    modWithin w 0x80000 && noSrc && (if encMod w 19 19 = 1 then uRun d 2 && w.pred == 0 && !w.pneg else unused d) &&
      brTgt w % 8 == 0 && brRcv w % 8 == 0 && brRcv w != 0
  | .bri =>
    modWithin w 0x80000 && unused d && noB && noC && (if uaBri w then uRun a 2 else xRun a 2 2) && brTgt w == 0 &&
      brRcv w % 8 == 0 && brRcv w != 0
  | .exit => modWithin w 0 && unused d && noSrc
  | .nop => modWithin w 0 && unused d && noSrc
  | .gets =>
    let sel := encMod w 7 0
    let pair := sel == 6 || sel == 10
    modWithin w 0x801FF && sel ≤ 0xC && (encMod w 8 8 == 0 || sel == 7) && noSrc &&
      (if encMod w 19 19 = 1 then uRun d (if pair then 2 else 1) && (!pair || d % 2 == 0)
       else if pair then xRun d 2 2 else true)
  | _ => legalArith o w
where
  /-- Width of a format without blocks (Table 02.1). -/
  elemW (f : Nat) : Nat := if f = 0 then 32 else if f ≤ 2 then 16 else 8
  isPlain (f : Nat) : Bool := f ≤ 4

/-- Do the fields of operation `o` hold a legal encoding (R165)? -/
def legal (o : Op) (w : Enc) : Bool :=
  (match extNeed o with | 0 => !w.ext | 1 => true | _ => w.ext) && !(w.pred == 0 && w.pneg) && legalOp o w

/-! ### Registers named (R92, R104) -/

/-- The x registers that an instruction reads or writes, as runs of a first register and a length. -/
def xNamed (o : Op) (w : Enc) : List (Nat × Nat) :=
  let d := rDst w
  let a := rA w
  let b := rB w
  let c := rC w
  let opt := fun (r n : Nat) => if r = 255 then [] else [(r, n)]
  let size := sizeRegs (sizeBytes (encMod w 19 17))
  let at_ := if encMod w 15 15 = 1 then 2 else 1
  let arith :=
    if mayU o && isU w then []
    else
      (match o with | .testi | .testf => [] | _ => [(d, 1)]) ++
        (if readsA o && encMod w 18 18 = 0 then [(a, 1)] else []) ++
        (if readsB o && encMod w 17 17 = 0 && !isImm w then [(b, 1)] else []) ++
        (if readsC o && encMod w 16 16 = 0 then [(c, 1)] else [])
  match o with
  | .seti => [(d, 1)]
  | .addw => [(d, 2), (a, 2), (b, 2)]
  | .poll => if encMod w 14 12 = 2 then [(d, 1)] else []
  | .cvt => [(d, 1), (a, 1)]
  | .qnt => [(d, 2), (a, 4)]
  | .stq => [(a, 2)]
  | .ld => (d, size) :: (if uaMem w then [] else [(a, 2)])
  | .st => (b, size) :: (if uaMem w then [] else [(a, 2)])
  | .ldloc => [(d, size), (a, 1)]
  | .stloc => [(b, size), (a, 1)]
  | .rmw => opt d at_ ++ (b, at_) :: ((if encMod w 19 16 = 0xA then [(c, at_)] else []) ++ (if uaRmw w then [] else [(a, 2)]))
  | .rmwl => opt d at_ ++ (b, at_) :: (a, 1) :: (if encMod w 19 16 = 0xA then [(c, at_)] else [])
  | .mma =>
    [(d, 8), (a, 4), (b, 4), (c, 8)] ++ opt (encExt w 7 0) 3 ++ opt (encExt w 15 8) 3 ++
      opt (encExt w 23 16) (escLen (encMod w 19 15)) ++ opt (encExt w 31 24) (escLen (encMod w 14 10))
  | .mld => (d, 4) :: opt c 3
  | .lwait => [(d, 1)]
  | .bri => if uaBri w then [] else [(a, 2)]
  | .gets => if encMod w 19 19 = 1 then [] else [(d, if encMod w 7 0 = 6 || encMod w 7 0 = 10 then 2 else 1)]
  | .xfer | .xwait | .tbr | .fence | .br | .exit | .nop => []
  | _ => arith

/-- Does a run reach a register beyond the allocation of a kernel that declares `r` registers (R104)? -/
def beyond (r : Nat) (run : Nat × Nat) : Bool :=
  (List.range run.2).any (fun i => let x := run.1 + i; x != 255 && x ≥ ceilDiv r 8 * 8)

/-! ### Operands of a lane -/

/-- The predicate of the instruction in a lane (R151). -/
def predOf (w : Enc) (g : Group) (lane : Nat) : Bool := g.pr w.pred.toNat lane != w.pneg

/-- The lanes that take part: active, with a true predicate (R151). -/
def takers (w : Enc) (g : Group) : List Nat := (lanesOf g.act).filter (predOf w g)

/-- The mask of the active lanes whose predicate is true. -/
def takeMask (w : Enc) (g : Group) : W32 := (takers w g).foldl (fun m i => m ||| (1#32 <<< i)) 0

/-- Source A, B or C of a lane (Table 05.3, Table 05.4). -/
def srcA (w : Enc) (g : Group) (lane : Nat) : W32 := if encMod w 18 18 = 1 then g.ur (rA w) else g.xr (rA w) lane
def srcB (w : Enc) (g : Group) (lane : Nat) : W32 :=
  if isImm w then BitVec.ofNat 32 (encExt w 31 0) else if encMod w 17 17 = 1 then g.ur (rB w) else g.xr (rB w) lane
def srcC (w : Enc) (g : Group) (lane : Nat) : W32 := if encMod w 16 16 = 1 then g.ur (rC w) else g.xr (rC w) lane

/-- Sources of a uniform operation (R154). -/
def uSrcA (w : Enc) (g : Group) : W32 := g.ur (rA w)
def uSrcB (w : Enc) (g : Group) : W32 := if isImm w then BitVec.ofNat 32 (encExt w 31 0) else g.ur (rB w)

/-- A pair as a 64-bit number, the low word in the lower-numbered register. -/
def xPair (g : Group) (r lane : Nat) : W64 := BitVec.ofNat 64 ((g.xr r lane).toNat + (g.xr (r + 1) lane).toNat * 2 ^ 32)
def uPair (g : Group) (r : Nat) : W64 := BitVec.ofNat 64 ((g.ur r).toNat + (g.ur (r + 1)).toNat * 2 ^ 32)

def Group.setXPair (g : Group) (r lane : Nat) (v : W64) : Group :=
  (g.setX r lane (v.setWidth 32)).setX (r + 1) lane ((v >>> 32).setWidth 32)

def Group.setUPair (g : Group) (r : Nat) (v : W64) : Group :=
  (g.setU r (v.setWidth 32)).setU (r + 1) ((v >>> 32).setWidth 32)

/-- The 64-bit address of a lane of LD, ST and RMW: the pair plus OFS32 sign-extended (R159). -/
def laneAddr (w : Enc) (ua : Bool) (g : Group) (lane : Nat) : W64 :=
  (if ua then uPair g (rA w) else xPair g (rA w) lane) + BitVec.ofInt 64 (sext 32 (encExt w 31 0))

/-- Write the lanes that take part, in lane order. -/
def Group.writeLanes (g : Group) (lanes : List Nat) (r : Nat) (f : Nat → W32) : Group :=
  lanes.foldl (fun g' i => g'.setX r i (f i)) g

/-- Write a predicate in the lanes that take part. -/
def Group.writePreds (g : Group) (lanes : List Nat) (p : Nat) (f : Nat → Bool) : Group :=
  lanes.foldl (fun g' i => g'.setP p i (f i)) g

/-- Length of the instruction in bytes (R147). -/
def encLen (w : Enc) : Nat := if w.ext then 16 else 8

/-- The address of the next instruction. -/
def nextPc (w : Enc) (g : Group) : W64 := g.pc + BitVec.ofNat 64 (encLen w)

end Sys2Proof.Machine
end

