-- ==== Sys2Proof/Machine/Frame.lean ====
section
/-! DEFINITION. The save frame of a core (R95, R118 to R123, Table 03.7): where it lies, what is written into it, and what is read
back from it. -/
namespace Sys2Proof.Machine

/-- The base of the save frame of core `c`, as a local address; `none`: no frame (R118). -/
def State.frame (s : State) (c : Nat) : Option Nat :=
  let b := s.fld (Fld.CORE_SAVE_BASE_BASE c)
  if b = 0 then none else some (b % 2 ^ 46)

/-! ### Spilled stack entries (R95, R123) -/

/-- The 16 bytes of a spilled stack entry (R123). -/
def spillBytes (e : PathEnt) : List Byte :=
  natLe 8 (e.pc.toNat % 2 ^ 48 + (if e.recon then 1 else 2) * 2 ^ 62) ++ natLe 4 e.mask.toNat ++ natLe 4 0

/-- The stack entry that 16 bytes of the spill area hold. -/
def spillEnt (b : List Byte) : PathEnt :=
  ⟨bits (at' b 0 8) 63 62 == 1, BitVec.ofNat 64 (at' b 0 8 % 2 ^ 48), BitVec.ofNat 32 (at' b 8 4)⟩

/-- The spill area of group slot `slot`. -/
def spillAt (base slot : Nat) : Nat := base + 0x88000 + 896 * slot

/-- Write the spilled entries of a group's stack from place `low` on to the save frame: one after another from the start of the area,
the lowest of the stack first, which the manual leaves open. Without a frame they are written nowhere, and the stack holds them all
the same (DESIGN CHOICE, log entry 106). -/
def State.writeSpill (s : State) (c slot low : Nat) (st : List PathEnt) : State :=
  match s.frame c with
  | none => s
  | some b => s.storeRun (spillAt b slot + 16 * low) (((st.reverse.take (st.length - 8)).drop low).flatMap spillBytes)

/-- A stack whose spilled entries are read back from the save frame. -/
def State.readSpill (s : State) (base slot : Nat) (st : List PathEnt) : List PathEnt :=
  st.take 8 ++ ((List.range (st.length - 8)).map (fun i => spillEnt (s.loadRun (spillAt base slot + 16 * i) 16))).reverse

/-- A group of slot `slot` as its core finds it: the entries that a fill may bring back are those of the spill area (R95). -/
def State.spillIn (s : State) (c slot : Nat) (g : Group) : Group :=
  if g.stack.length ≤ 8 then g
  else match s.frame c with
    | none => g
    | some b => { g with stack := s.readSpill b slot g.stack }

/-- Where the spill area of group slot `slot` is poisoned at the places from `low` up to `n` (R221). -/
def State.spillPoison (s : State) (c slot low n : Nat) : Option Nat :=
  match s.frame c with
  | none => none
  | some b => if low < n && s.runPoison (spillAt b slot + 16 * low) (16 * (n - low)) then some (spillAt b slot + 16 * low) else none

/-- The slot number that says of a saved group that the core keeps its spilled entries itself, since their area serves another group
(log entry 17). -/
def keptArea (slot : Nat) : Nat := 64 + slot % 64

/-! ### Register images -/

/-- The register units of group `i` of a team. -/
def Team.unitsOf (t : Team) (i : Nat) : List Nat := (t.units.drop (i * ceilDiv t.r 8)).take (ceilDiv t.r 8)

/-- What unit `j` of a group holds: registers 8j to 8j + 7 of each lane. -/
def Group.unitWords (g : Group) (j : Nat) : List W32 := (List.range 8).flatMap (fun i => lanes32.map (fun l => g.xr (8 * j + i) l))

/-- The image of a register unit. Its length and place are the manual's, the order of its bytes is free (log entry 17). -/
def unitImage (w : List W32) : List Byte :=
  let b := w.flatMap (fun v => natLe 4 v.toNat)
  (List.range 1024).map (fun i => b.getD (Config.regOrder i % 1024) 0)

/-- Write the register image of a group into the frame. -/
def State.writeRegs (s : State) (base : Nat) (t : Team) (g : Group) : State :=
  (t.unitsOf g.gidx).zipIdx.foldl (fun s u => s.storeRun (base + 0x400 * u.1) (unitImage (g.unitWords u.2))) s

/-- Write what has changed of the register image of a group: the places of the registers that a late answer writes (R121). -/
def State.writeChanged (s : State) (base : Nat) (t : Team) (old new_ : Group) : State :=
  (t.unitsOf new_.gidx).zipIdx.foldl (fun s u =>
    ((unitImage (old.unitWords u.2)).zip (unitImage (new_.unitWords u.2))).zipIdx.foldl (fun s b =>
      if b.1.1 = b.1.2 then s else s.storeRun (base + 0x400 * u.1 + b.2) [b.1.2]) s) s

/-- A group with the registers of its image in the frame: a unit whose image is as it was written holds what it held, and one that
was written over since holds free values, since the manual does not lay the image out. -/
def State.readRegs (s : State) (base : Nat) (t : Team) (g : Group) : State × Group :=
  (t.unitsOf g.gidx).zipIdx.foldl (fun (r : State × Group) u =>
    if r.1.loadRun (base + 0x400 * u.1) 1024 = unitImage (g.unitWords u.2) then r
    else
      let (s, f) := r.1.takeFrees 256
      (s, (List.range 8).foldl (fun g i =>
        lanes32.foldl (fun g l => g.setX (8 * u.2 + i) l (Config.freeW32 (f + 32 * i + l))) g) r.2)) (s, g)

/-! ### Local images -/

/-- The place of byte `a` of a team's local memory in the frame. -/
def Team.locAt (t : Team) (base a : Nat) : Nat := base + 0x40000 + 0x400 * t.lunits.getD (a / 1024) 0 + a % 1024

/-- The team's local memory is in the frame and not in the core. -/
def Team.away (t : Team) : Bool := t.st == .preempted || t.st == .restoring

/-! ### Save, late answers and restore -/

/-- Write bytes that the manual does not lay out: group and team records (log entry 17). -/
def State.writeFree (s : State) (a n : Nat) : State :=
  let (s, f) := s.takeFrees n
  s.storeRun a ((List.range n).map (fun i => Config.freeByte (f + i)))

/-- Change the group of team `t` with index `i`, in its slot or saved; the frame of a saved one follows: the places of its registers that
change, and its record where anything else does (R121, "GSTATUS"). -/
def State.modGroup (s : State) (c t i : Nat) (f : Group → Group) : State :=
  let s' := s.modCore c (fun k => k.modGroupOf t i f)
  match (s.core c).team t, s.frame c with
  | some tm, some b =>
    if tm.away then
      match (tm.saved.zip tm.gslots).find? (fun e => e.1.gidx == i) with
      | some e =>
        let g := f e.1
        let s' := s'.writeChanged b tm e.1 g
        if g = { e.1 with x := g.x } then s' else s'.writeFree (b + 0x80000 + 512 * (e.2 % 64)) 512
      | none => s'
    else s'
  | _, _ => s'

/-- The team-state record of a preempted team is written anew (R121). -/
def State.writeTeam (s : State) (c t : Nat) : State :=
  match s.frame c with
  | some b => s.writeFree (b + 0x96000 + 256 * t) 256
  | none => s

/-- A preempted team as its frame holds it: local memory, registers and spilled stack entries are read back (R122). -/
def State.fromFrame (s : State) (c : Nat) (t : Team) : State × Team :=
  match s.frame c with
  | none => (s, t)
  | some b =>
    let loc := t.lunits.zipIdx.foldl (fun m u =>
      (s.loadRun (b + 0x40000 + 0x400 * u.1) 1024).zipIdx.foldl (fun m v => SMap.set (fun _ => 0) m (1024 * u.2 + v.2) v.1) m) t.loc
    let (s, gs) := (t.saved.zip t.gslots).foldl (fun (r : State × List Group) e =>
      let (s, g) := r.1.readRegs b t e.1
      (s, r.2 ++ [if e.2 < 64 then { g with stack := s.readSpill b e.2 g.stack } else g])) (s, [])
    (s, { t with loc := loc, saved := gs })

end Sys2Proof.Machine
end

