-- ==== Sys2Proof/Machine/CoreCtl.lean ====
section
/-! DEFINITION. What ends teams and commands: freeing a team, raising a core fault, ending a kernel or command, and the
records that wait for a completion queue (R101, R115 to R117, R122, R341 to R344, R490). -/
namespace Sys2Proof.Machine

/-! ### Queues -/

def sqDefault (_ : Nat) : Sq := Sq.empty
def cqDefault (_ : Nat) : Cq := Cq.empty

def State.sq (s : State) (q : Nat) : Sq := SMap.get sqDefault s.sqs q
def State.setSq (s : State) (q : Nat) (v : Sq) : State := { s with sqs := SMap.set sqDefault s.sqs q v }
def State.modSq (s : State) (q : Nat) (f : Sq → Sq) : State := s.setSq q (f (s.sq q))
def State.cq (s : State) (q : Nat) : Cq := SMap.get cqDefault s.cqs q
def State.setCq (s : State) (q : Nat) (v : Cq) : State := { s with cqs := SMap.set cqDefault s.cqs q v }
def State.modCq (s : State) (q : Nat) (f : Cq → Cq) : State := s.setCq q (f (s.cq q))

/-- The command of queue `q` with sequence number `seq`. -/
def State.cmd (s : State) (q seq : Nat) : Option Cmd := (s.sq q).cmds.find? (fun c => c.seq == seq)

def State.modCmd (s : State) (q seq : Nat) (f : Cmd → Cmd) : State :=
  s.modSq q (fun v => { v with cmds := v.cmds.map (fun c => if c.seq == seq then f c else c) })

/-- End a command with a status: it takes no further part, and its outcome stands until its teams and stores are gone. -/
def State.endCmd (s : State) (q seq status detail : Nat) : State :=
  s.modCmd q seq (fun c => if c.cancel then c else { c with cancel := true, status := status, detail := detail })

/-- A data write of a command has been performed (R341, Table 11.7). -/
def State.noteWrite (s : State) (q seq : Nat) : State :=
  match s.cmd q seq with
  | some _ => s.modCmd q seq (fun c => { c with lastW := some s.aon.newel })
  | none => s

/-- A data write of a team's command has been performed. -/
def State.noteTeamWrite (s : State) (c t : Nat) : State :=
  match (s.core c).team t with
  | some tm => s.noteWrite tm.q tm.seq
  | none => s

/-! ### The Class 0 promise (R350) -/

/-- A bound of Table 11.7 was exceeded while the promise held (R350). -/
def State.noteMiss (s : State) (q seq : Nat) (late : Bool) : State :=
  match s.cmd q seq with
  | some c =>
    if late && c.class0 && c.voided = 0 && !c.missed then
      (s.bump Fld.SQ_C0_MISS_CNT_COUNT 1).modCmd q seq (fun c => { c with missed := true })
    else s
  | none => s

/-- When the first instruction of the kernel that a command runs issued, on whichever core. -/
def State.beganAt (s : State) (q seq : Nat) : Option W64 :=
  (s.cores.flatMap (fun e => e.2.began.filterMap (fun b => if b.1 == q && b.2.1 == seq then some b.2.2 else none))).foldl
    (fun (m : Option W64) t => match m with | some x => some (if t.toNat < x.toNat then t else x) | none => some t) none

/-- The kernel's first instruction is forgotten: the next one's counts. -/
def State.forgetBegan (s : State) (q seq : Nat) : State :=
  (s.cores.map (·.1)).foldl (fun s c =>
    if (s.core c).began.any (fun b => b.1 == q && b.2.1 == seq) then
      s.modCore c (fun k => { k with began := k.began.filter (fun b => !(b.1 == q && b.2.1 == seq)) })
    else s) s

/-- The start bound of a command whose first kernel has begun, or has still to begin (Table 11.7). -/
def State.startLate (s : State) (q : Nat) (c : Cmd) : Bool :=
  (at' c.desc 4 1 == 1 || at' c.desc 4 1 == 2) && c.step == 0 && c.layer == 0 &&
    decide (((s.beganAt q c.seq).getD s.aon.newel - c.ref).toNat > 10000 + 250 * c.refetched)

/-- The start bound, and the bound of the step that is in progress, are held against the time before the promise of a command ends. -/
def State.noteBounds (s : State) (q : Nat) (c : Cmd) : State :=
  let from_ := if c.layer = 0 then s.beganAt q c.seq else some c.stepAt
  let past := match from_ with
    | some t => c.bound != 0 && decide ((s.aon.newel - t).toNat > c.bound)
    | none => false
  s.noteMiss q c.seq (s.startLate q c || past)

/-- A condition of R349 has failed with a void code: the promise ends for the commands that `sel` picks by queue and SEQ, once
for each; a QUALIFY ends with QUAL_FAILED (R351). -/
def State.voidCmds (s : State) (code : Nat) (sel : Nat → Nat → Bool) : State :=
  let hit := fun (q : Nat) (c : Cmd) => c.class0 && c.st == .running && c.voided == 0 && sel q c.seq
  let hitR := fun (r : CqRec) => r.flags % 2 == 1 && r.void == 0 && sel r.sq r.seq
  let n := (s.sqs.map (fun e => (e.2.cmds.filter (hit e.1)).length)).sum + (s.cqs.map (fun e => (e.2.recs.filter hitR).length)).sum
  if n = 0 then s
  else
    let s := s.sqs.foldl (fun s e => (e.2.cmds.filter (hit e.1)).foldl (fun s c => s.noteBounds e.1 c) s) s
    let lateR := fun (r : CqRec) => hitR r && !r.flags.testBit 2 && decide ((s.aon.newel - r.fin).toNat > 2000)
    let miss := (s.cqs.map (fun e => (e.2.recs.filter lateR).length)).sum
    let mark := fun (c : Cmd) =>
      if at' c.desc 4 1 == 5 && !c.cancel then { c with voided := code, cancel := true, status := 9, detail := code }
      else { c with voided := code }
    ({ s with
      sqs := s.sqs.map (fun (e : Nat × Sq) => (e.1, { e.2 with cmds := e.2.cmds.map (fun c => if hit e.1 c then mark c else c) }))
      cqs := s.cqs.map (fun (e : Nat × Cq) => (e.1, { e.2 with recs := e.2.recs.map (fun r =>
        if hitR r then { r with flags := r.flags + (if lateR r then 6 else 2), void := code } else r) })) } : State).bump Fld.SQ_C0_VOID_CNT_COUNT n
      |>.bump Fld.SQ_C0_MISS_CNT_COUNT miss

/-! ### Images and streams -/

def noImg (_ : Nat) : Option Image := none
def noStream (_ : Nat) : Option TStream := none

def State.img (s : State) (i : Nat) : Option Image := SMap.get noImg s.imgs i
def State.setImg (s : State) (i : Nat) (v : Option Image) : State := { s with imgs := SMap.set noImg s.imgs i v }
def State.strm (s : State) (i : Nat) : Option TStream := SMap.get noStream s.streams i
def State.setStrm (s : State) (i : Nat) (v : Option TStream) : State := { s with streams := SMap.set noStream s.streams i v }

/-! ### Teams -/

/-- Free the context slots that no team of the core uses (R91). -/
def Core.trimCtxs (k : Core) : Core :=
  { k with ctxs := k.ctxs.map (fun c =>
      match c with
      | some tag => if k.teamList.any (fun e => e.2.tag == tag) then some tag else none
      | none => none) }

/-- The team slot that a buffered store names whose team is gone: what comes of it concerns no later team of the slot (R187, R189). -/
def goneTeam : Nat := 16

/-- Free a team's units, group slots, team slot and, when it was the last of its context, context slot (R117, R122). -/
def Core.freeTeam (k : Core) (t : Nat) : Core :=
  Core.trimCtxs
    { (k.setTeam t none) with
      groups := k.groups.filter (fun e => match e.2 with | some g => g.team != t | none => true),
      reqs := k.reqs.filter (fun r => r.team != t),
      sq := k.sq.map (fun e => if e.team == t then { e with team := goneTeam } else e),
      mb := k.mb.map (fun e => { e with grps := e.grps.filter (fun g => g.team != t) }),
      kept := k.kept.filter (fun e => e.team != t),
      xfers := k.xfers.filter (fun x => x.team != t) }

/-- Close the merging-buffer entries that a team wrote into (R186). -/
def Core.closeTeam (k : Core) (t : Nat) : Core :=
  { k with mb := k.mb.map (fun e => if e.grps.any (fun g => g.team == t) then { e with closed := true } else e) }

/-- Stop every group of a team: it issues nothing more, and its buffered stores drain before it is freed (R117, R186). -/
def Core.stopTeam (k : Core) (t : Nat) : Core :=
  match k.team t with
  | some tm => (k.setTeam t (some { tm with st := .stopping })).closeTeam t
  | none => k

/-- Are buffered stores of the command (`q`, `seq`) on this core drained (R186)? -/
def Core.drained (k : Core) (q seq : Nat) : Bool :=
  !(k.sq.any (fun e => e.q == q && e.seq == seq)) && !(k.mb.any (fun e => e.cmds.any (fun c => c.1 == q && c.2 == seq)))

/-- Every core that differs from an empty one, by number. -/
def State.coreNums (s : State) : List Nat := s.cores.map (·.1)

/-- Stop the teams of a kernel on every core (R117). -/
def State.stopKernel (s : State) (q seq : Nat) : State :=
  s.coreNums.foldl (fun st c =>
    ((st.core c).teamList.filter (fun e => e.2.q == q && e.2.seq == seq)).foldl
      (fun st' e => st'.modCore c (fun k => k.stopTeam e.1)) st) s

/-- The context slot of a tag on a core. -/
def Core.ctxSlot (k : Core) (tag : Nat) : Nat := (k.ctxs.findIdx? (fun c => c == some tag)).getD 0

/-- Raise a core fault of the instruction at `pc` on the group in slot `g` (R115 to R117): the team stops, the fault is
counted, chosen for recording when nothing is recorded or chosen, and the kernel ends with the fault status. -/
def State.raiseFaultAt (s : State) (c g code : Nat) (pc : W64) (mask : W32) (addr : W64) : State :=
  let k := s.core c
  match k.group g with
  | none => s
  | some gr =>
    match k.team gr.team with
    | none => s
    | some tm =>
      let s := s.bump (Fld.CORE_FAULT_CNT_COUNT c) 1
      let free := s.fld (Fld.CORE_FAULT_INFO_VALID c) = 0 && k.fault.isNone
      let s :=
        if free then
          s.modCore c (fun k => { k with fault := some ⟨gr.team, k.ctxSlot tm.tag, g, code, tm.tag, pc, mask, addr, tm.q, tm.seq⟩ })
        else s
      let s := s.modCore c (fun k => k.stopTeam gr.team)
      let s := s.stopKernel tm.q tm.seq
      s.endCmd tm.q tm.seq 1 (code % 256 + (c % 256) * 256)

/-- A fault of the instruction at which the group stands. -/
def State.raiseFault (s : State) (c g code : Nat) (mask : W32) (addr : W64) : State :=
  match (s.core c).group g with
  | some gr => s.raiseFaultAt c g code gr.pc mask addr
  | none => s

/-- A fault on a group that is named by its team slot and its index. -/
def State.faultGroup (s : State) (c t i code : Nat) (pc : W64) (mask : W32) (addr : W64) : State :=
  match ((s.core c).groupsOf t).find? (fun e => e.2.gidx == i) with
  | some (slot, _) => s.raiseFaultAt c slot code pc mask addr
  | none => s

/-- Write the recorded fault of a core into its registers (R117, CORE_FAULT_INFO). -/
def State.recordFault (s : State) (c : Nat) (f : FaultRec) : State :=
  let s := s.setReg (Reg.CORE_FAULT_INFO c) (0x80000000 + f.team * 0x10000 + f.ctx * 0x4000 + f.grp * 0x100 + f.code)
  let s := s.setReg (Reg.CORE_FAULT_PC c) (f.tag * 2 ^ 48 + f.pc.toNat % 2 ^ 48)
  let s := s.setReg (Reg.CORE_FAULT_MASK c) f.mask.toNat
  let s := s.setReg (Reg.CORE_FAULT_ADDR c) f.addr.toNat
  s.modCore c (fun k => { k with fault := none })

/-- A preempted team as it is discarded: it goes once its stores have drained and what it has on its way has been made (R182, R186). -/
def Team.dropped (t : Team) : Team := { t with st := .stopping, units := [], lunits := [], saved := [], gslots := [] }

/-- Discard the teams of a core that `p` selects, resident or preempted, without a fault record (R122, R490). -/
def State.discardTeams (s : State) (c : Nat) (p : Team → Bool) : State :=
  (((s.core c).teamList).filter (fun e => p e.2)).foldl (fun st e =>
    st.modCore c (fun k => if e.2.st = .preempted || e.2.st = .restoring then k.setTeam e.1 (some e.2.dropped) else k.stopTeam e.1)) s

/-- Cancel every command of partition `p` that is running, and discard its teams (R490). -/
def State.cancelPart (s : State) (p : Nat) : State :=
  let s := s.coreNums.foldl (fun st c => st.discardTeams c (fun t => t.part == p)) s
  s.sqs.foldl (fun st e =>
    if e.2.part == p then
      (e.2.cmds.filter (fun c => c.st == .running)).foldl (fun st' c => st'.endCmd e.1 c.seq 6 0) st
    else st) s

/-! ### Commands that have ended -/

/-- Does a team of the command stay on any core? -/
def State.hasTeams (s : State) (q seq : Nat) : Bool :=
  s.cores.any (fun e => e.2.teamList.any (fun t => t.2.q == q && t.2.seq == seq))

def State.storesDrained (s : State) (q seq : Nat) : Bool := s.cores.all (fun e => e.2.drained q seq)

/-- TYPE of a descriptor. -/
def descType (d : List Byte) : Nat := at' d 4 1

def descFlag (d : List Byte) (i : Nat) : Bool := (at' d 5 1).testBit i

/-- IMAGE, STEPS and STREAM of a MODEL descriptor (Table 11.2). -/
def mImage (d : List Byte) : Nat := at' d 0x10 2 % 4096
def mSteps (d : List Byte) : Nat := at' d 0x12 2
def mStream (d : List Byte) : Nat := at' d 0x14 4

/-- Are the teams of the kernel that a command runs placed and gone, and its stores drained? -/
def State.kernelOver (s : State) (q : Nat) (c : Cmd) : Bool :=
  c.st == .running && !c.cancel && c.begun && (descType c.desc == 1 || descType c.desc == 2) && c.placed ≥ c.total &&
    !s.hasTeams q c.seq && s.storesDrained q c.seq

/-- Has a running command ended, with its teams gone and its stores drained (R182, R186)? -/
def State.cmdOver (s : State) (q : Nat) (c : Cmd) : Bool :=
  c.st == .running && c.cancel && !s.hasTeams q c.seq && s.storesDrained q c.seq &&
    !(s.chanXf.any (fun e => match e.2 with | some x => x.team == q && x.seq == c.seq && x.pend != [] | none => false))

/-- A layer's kernel is over: the next layer follows, or the step ends, with its time measured against its bound (R349), and
with the last step the command. -/
def State.layerOver (s : State) (q : Nat) (c : Cmd) : State :=
  let layers := match s.img (mImage c.desc) with | some i => i.layers | none => 0
  let s := s.noteMiss q c.seq (s.startLate q c)
  let c := if c.layer = 0 then { c with stepAt := (s.beganAt q c.seq).getD c.stepAt } else c
  let s := (s.forgetBegan q c.seq).modCmd q c.seq (fun d => { d with stepAt := c.stepAt })
  if c.layer + 1 < layers then
    s.modCmd q c.seq (fun c => { c with begun := false, layer := c.layer + 1, placed := 0, total := 0, seen := [] })
  else
    let now := s.aon.newel
    -- the step ends with its last data write
    let last := match c.lastW with | some w => if (w - c.stepAt).toNat ≤ (now - c.stepAt).toNat then w else now | none => now
    let t := (last - c.stepAt).toNat
    let s := s.noteMiss q c.seq (c.bound ≠ 0 && t > c.bound)
    let long := max c.longest t
    let s := match s.strm (mStream c.desc) with
      | some v => s.setStrm (mStream c.desc) (some { v with pos := v.pos + 1 })
      | none => s
    let s := s.modCmd q c.seq (fun c =>
      { c with begun := false, layer := 0, step := c.step + 1, steps := c.steps + 1, longest := long, placed := 0, total := 0, seen := [] })
    if c.steps + 1 ≥ mSteps c.desc then s.endCmd q c.seq 0 (long / 16) else s

/-- ELAPSED of a record: the time from the doorbell to `t` in units of 16 ns, saturating (Table 11.4). -/
def elapsedTo (t db : W64) : Nat := min ((t - db).toNat / 16) (2 ^ 31 - 1)
def State.elapsed (s : State) (db : W64) : Nat := elapsedTo s.aon.newel db

/-- The record of an ended command (Table 11.4). -/
def State.mkRec (s : State) (q : Nat) (c : Cmd) : CqRec :=
  let flags := (if c.class0 then 1 else 0) + (if c.voided ≠ 0 then 2 else 0) + (if c.pub then 8 else 0) +
    (if c.missed then 4 else 0) + (if c.refetched > 0 then 16 else 0)
  { sq := q, seq := c.seq, user := BitVec.ofNat 64 (at' c.desc 8 8), status := c.status, detail := c.detail, steps := c.steps,
    flags := flags, void := c.voided, elapsed := elapsedTo (c.lastW.getD s.aon.newel) c.db, intr := descFlag c.desc 1,
    fin := if c.pub then s.aon.newel else c.lastW.getD s.aon.newel }

/-- Has a completion queue room for a record (R344), beyond those that wait? -/
def Cq.room (v : Cq) : Bool := distance 32 v.cons.toNat v.seq.toNat + v.recs.length < 2 ^ v.log2

/-- Hand an ended command's record to its completion queue, in the order in which commands end (R343), and free its place
in the submission queue. -/
def State.finishCmd (s : State) (q : Nat) (c : Cmd) : State :=
  let s := (s.noteMiss q c.seq (s.startLate q c)).forgetBegan q c.seq
  let c := (s.cmd q c.seq).elim c (fun d => { c with missed := d.missed })
  let full := !(s.cq (s.sq q).cq).room && c.class0 && c.voided = 0
  let s := if full then s.bump Fld.SQ_C0_VOID_CNT_COUNT 1 else s
  let rec_ := s.mkRec q (if full then { c with voided := 0x0A } else c)
  let s := s.modSq q (fun v => { v with cmds := v.cmds.filter (fun d => d.seq != c.seq) })
  let s := { s with chanXf := s.chanXf.filter (fun e => match e.2 with | some x => !(x.team == q && x.seq == c.seq) | none => false) }
  s.modCq (s.sq q).cq (fun v => { v with recs := v.recs ++ [rec_] })

/-- A record for a descriptor that does not run: invalid, refused, cancelled before its start, or a queue error; `db` is when the
doorbell came that covered it. -/
def State.recordOnly (s : State) (q seq status detail : Nat) (user : W64) (intr refetched : Bool) (db : W64) : State :=
  let r : CqRec := ⟨q, seq, user, status, detail, 0, if refetched then 16 else 0, 0, s.elapsed db, intr, s.aon.newel⟩
  s.modCq (s.sq q).cq (fun v => { v with recs := v.recs ++ [r] })

/-- The descriptor at HEAD is to be fetched afresh. -/
def Sq.afresh (v : Sq) : Sq := { v with half := none, miss := none, ret := 0 }

/-- When the doorbell that covers descriptor `k` came; `none`: none has been accepted. -/
def Sq.dbOf (v : Sq) (k : Nat) : Option W64 := (v.dbs.find? (fun e => precedes 32 k e.1.toNat)).map (·.2)

/-- A queue error on descriptor `k` (R340). An OVERRUN on a descriptor that no doorbell has covered dates from its own. -/
def State.queueError (s : State) (q : Nat) (reason : Nat) (k : Nat) : State :=
  let db := ((s.sq q).dbOf k).getD s.aon.newel
  let again := (s.sq q).miss.getD 0 > 0
  let s := s.modSq q (fun v => { v.afresh with st := .error })
  let s := s.recordOnly q k 7 reason 0 false again db
  let s := s.bump Fld.SQ_QERR_CNT_COUNT 1
  if s.fld Fld.SQ_ERR_INFO_VALID = 0 then
    (s.setReg Reg.SQ_ERR_INFO (0x80000000 + reason * 2 ^ 28 + q)).setReg Reg.SQ_ERR_SEQ k
  else s

end Sys2Proof.Machine
end

