-- ==== Sys2Proof/Machine/Errors.lean ====
section
/-! DEFINITION. Recording an error and taking its class's action, recording a violation, the stop sequence and the freeze
(R475, R489 to R500). -/
namespace Sys2Proof.Machine

/-- An error as the rule that names it reports it (Table 17.8). Classes are coded 0 Corrected, 1 Deferred, 2 Contained,
3 Fatal (Table 17.6). -/
structure ErrIn where
  code  : Nat
  cls   : Nat
  ukind : Nat
  unit  : Nat
  addr  : Nat
  info  : Nat
  part  : Option Nat
  deriving DecidableEq, Repr

def noErr (_ : Nat) : Option ErrEnt := none
def noViol (_ : Nat) : Option VEnt := none

/-- The entries of the error log that are open. -/
def State.openErrs (s : State) : List ErrEnt := (s.errs.filterMap (·.2)).filter (·.opn)

/-- Is an error of this unit nested (R496)? -/
def State.errNested (s : State) : Bool := !s.openErrs.isEmpty

/-- Does an open entry name the same unit kind and unit (R496)? -/
def State.sameUnitOpen (s : State) (ukind unit : Nat) : Bool := s.openErrs.any (fun e => e.ukind == ukind && e.unit == unit)

/-- The class after escalation, and whether it was escalated (R496). -/
def State.escalate (s : State) (e : ErrIn) : Nat × Bool :=
  let up := s.sameUnitOpen e.ukind e.unit
  let c := if up then min (e.cls + 1) 3 else e.cls
  let c' := if c = 2 && e.part.isNone then 3 else c
  (c', c' > e.cls)

/-- The 32 bytes of an error-log entry (Table 17.9). -/
def errBytes (e : ErrEnt) : List Byte :=
  natLe 8 e.newel.toNat ++ natLe 8 e.addr ++
    natLe 4 (e.code % 256 + e.cls * 256 + (if e.nested then 0x400 else 0) + (if e.esc then 0x800 else 0) +
      (if e.opn then 0x1000 else 0) + (if e.pinned then 0x2000 else 0) + (if e.fence then 0x4000 else 0) +
      (match e.part with | some p => 0x8000 + p * 0x10000 | none => 0) + e.ukind * 0x100000) ++
    natLe 4 (e.unit % 65536 + (e.info % 65536) * 65536) ++ natLe 4 e.seq ++ natLe 4 0x01000000

/-- The 32 bytes of a violation-log entry (Table 17.10). -/
def violBytes (e : VEnt) : List Byte :=
  natLe 8 e.newel.toNat ++ natLe 8 e.data.toNat ++ natLe 4 (e.off % 2 ^ 25 + e.size * 2 ^ 25 + e.reason * 2 ^ 28) ++
    natLe 4 (match e.agent with | .host => 0 | .firmware => 1) ++ natLe 4 e.seq ++ natLe 4 0x02000000

/-- Write a copy of a new log entry to the trace ring (R499). While the fast clocks stand no write can be performed, and the record is lost. -/
def State.trace (s : State) (rec_ : List Byte) : State :=
  if s.fldB Fld.ERR_TRACE_CTL_EN then
    let prod := s.reg Reg.ERR_TRACE_PROD
    let a := s.fld Fld.ERR_TRACE_BASE_BASE + 32 * (prod % 2 ^ s.fld Fld.ERR_TRACE_CTL_SIZE)
    let s := if s.aon.fast && isHbm a && a + 32 ≤ s.hbmCap then s.storeRun a rec_ else s.setFldB Fld.ERR_TRACE_CTL_WRITE_ERR true
    s.setReg Reg.ERR_TRACE_PROD (prod + 1)
  else s

/-- The entry at a place of the error log; places are counted from HEAD. -/
def State.errAt (s : State) (i : Nat) : Option ErrEnt := SMap.get noErr s.errs ((s.errSeq.toNat + i) % 512)

/-- How far the sequence number of an entry lies back, in serial-number arithmetic (R494). -/
def State.errAge (s : State) (y : ErrEnt) : Nat := (s.errSeq.toNat + (2 ^ 32 - y.seq % 2 ^ 32)) % 2 ^ 32

/-- The place whose entry has the lowest SEQ among those that `ok` selects (R494). -/
def State.oldestErr (s : State) (ok : ErrEnt → Bool) : Option Nat :=
  ((List.range 512).foldl (fun (b : Option (Nat × Nat)) i =>
    match s.errAt i with
    | some y => if ok y && (match b with | some x => x.2 < s.errAge y | none => true) then some (i, s.errAge y) else b
    | none => b) none).map (·.1)

/-- The place of a new entry of class `cls`, and whether an open entry is lost: a place never written, else that of the oldest entry
neither pinned nor open, else, but for a Corrected error, that of the oldest open entry that is not pinned (R494). -/
def State.errPlace (s : State) (cls : Nat) : Option (Nat × Bool) :=
  match (List.range 512).find? (fun i => (s.errAt i).isNone) with
  | some i => some (i, false)
  | none =>
    match s.oldestErr (fun y => !y.opn && !y.pinned) with
    | some i => some (i, false)
    | none => if cls = 0 then none else (s.oldestErr (fun y => !y.pinned)).map (fun i => (i, true))

/-- Write an entry at place `i`: SEQ advances to the place's index, and every skipped SEQ is a dropped entry (R494). -/
def State.putErr (s : State) (e : ErrEnt) (i : Nat) : State :=
  let seq := (s.errSeq.toNat + i) % 2 ^ 32
  let ent := { e with seq := seq }
  ({ s with errs := SMap.set noErr s.errs (seq % 512) (some ent), errSeq := BitVec.ofNat 32 (seq + 1) } : State).trace (errBytes ent)

/-- What a new entry makes pending and drives: vector ERR_CTL.VEC and smb_alert_n (R498). -/
def State.signalErr (s : State) (cls : Nat) : State :=
  let en := if cls = 0 then s.fldB Fld.ERR_CTL_EN_CORR else s.fldB Fld.ERR_CTL_EN_OPEN
  let s := if en then s.pendVec (s.fld Fld.ERR_CTL_VEC) else s
  if s.fldB Fld.ERR_CTL_ALERT_EN && cls ≥ s.fld Fld.ERR_CTL_ALERT_CLASS then { s with aon := { s.aon with alert := true } } else s

/-- Enter an error in the log; a Corrected one that finds no place makes no entry and is counted (R494). -/
def State.placeErr (s : State) (e : ErrEnt) : State :=
  match s.errPlace e.cls with
  | some (i, lost) => ((if lost then s.setFldB Fld.ERR_STATUS_LOST_OPEN true else s).putErr e i).signalErr e.cls
  | none => if e.cls = 0 then s.bump Fld.ERR_DROP_CNT_COUNT 1 else s

/-- Send LAST_GASP on every UP Stairway port (R391); the encoding of its cause byte is not given (log entry 7). -/
def State.lastGasp (s : State) : State :=
  let (s, n) := s.takeFree
  (List.range 8).foldl (fun t p =>
    if (t.port p).st = .up then
      let m := mkMsg 0x64 (t.fld (Fld.STW_PORT_STATUS_NCHIP p)) t.chip 0 0 0
        (natLe 2 (t.fld Fld.STW_CFG_TRAY) ++ [Config.freeByte n] ++ List.replicate 61 0)
      t.putPort p m
    else t) s

/-- The fast clocks stop and HBM enters self-refresh; only cold reset ends it (R475, R476, R482). -/
def State.halt (s : State) (d : DevSt) : State :=
  { s with aon := { s.aon with dev := d, fast := false, alert := true }, hbmSt := stacksFor s.hbmSt 0 }

/-- A Loupe freeze (R500). -/
def State.freezeChip (s : State) : State := if s.aon.dev = .stopped || s.aon.dev = .frozen then s else s.halt .frozen

/-- Latch the first Fatal error (R491). -/
def State.latchFatal (s : State) (code ukind unit : Nat) : State :=
  if s.aon.fatalLatch.isNone then { s with aon := { s.aon with fatalLatch := some (code, ukind, unit) } } else s

/-- The action of a Fatal error (R491): LAST_GASP, then the stop sequence or the freeze. -/
def State.fatal (s : State) (code ukind unit : Nat) : State :=
  let s := s.latchFatal code ukind unit
  if s.aon.dev = .stopped || s.aon.dev = .frozen then s
  else
    let s := if s.aon.fast then s.lastGasp else s
    if s.fldB Fld.ERR_CTL_FREEZE_ON_FATAL then s.halt .frozen else s.halt .stopped

/-- The action of a Contained error of partition `p` (R490). -/
def State.contain (s : State) (p : Nat) : State := (s.setFldBit Fld.SET_PART_RUN_RUN p false).cancelPart p

/-- Is the chip halted: Stopped or Frozen (Table 17.1)? -/
def State.isHalted (s : State) : Bool := s.aon.dev == .stopped || s.aon.dev == .frozen

/-- Record an error and take the action of its class (R489 to R498). A halted chip only makes the entry and, for a Fatal error, the latch:
its other units hold their state (R475, R500). -/
def State.raiseErr (s : State) (e : ErrIn) : State :=
  let (cls, esc) := s.escalate e
  let pin := cls = 3 && !(s.errs.any (fun x => match x.2 with | some y => y.pinned | none => false))
  let ent : ErrEnt := ⟨s.aon.newel, e.addr, e.code, cls, s.errNested, esc, cls != 0, pin, e.code == 0x1B || e.code == 0x21,
    e.part, e.ukind, e.unit, e.info, 0⟩
  let s := s.placeErr ent
  if s.isHalted then (if cls = 3 then s.latchFatal e.code e.ukind e.unit else s)
  else
  let s := match cls with
    | 0 => s.bump Fld.ERR_CORR_CNT_COUNT 1
    | 1 => s.bump Fld.ERR_DEFER_CNT_COUNT 1
    | 2 => s.bump Fld.ERR_CONTAIN_CNT_COUNT 1
    | _ => s
  let s := if cls = 0 then s else s.voidCmds 6 (fun q _ => match e.part with | some p => (s.sq q).part == p | none => true)
  match cls, e.part with
  | 2, some p => s.contain p
  | 3, _ => s.fatal e.code e.ukind e.unit
  | _, _ => s

/-- An error in memory at canonical local address `a` (R495). -/
def State.memErr (s : State) (code cls ukind unit a info : Nat) : State :=
  s.raiseErr ⟨code, cls, ukind, unit, s.paOf a, info, s.partOfAddr a⟩

/-- A Deferred error of a unit that no memory address of this chip names. -/
def State.unitErr (s : State) (code cls ukind unit addr info : Nat) (part : Option Nat) : State :=
  s.raiseErr ⟨code, cls, ukind, unit, addr, info, part⟩

/-- A Corrected error of an instruction cache, an L1, the L2 or the memory-side cache: L2C_PARITY_CNT counts it where it is not
escalated to a higher class (Table 07.7, R496). -/
def State.parityErr (s : State) (e : ErrIn) : State :=
  (if (s.escalate e).1 = 0 then s.bump Fld.L2C_PARITY_CNT_COUNT 1 else s).raiseErr e

/-- A violation (R10, R497): an entry, the counter, the interrupt and the trace record; no field changes. -/
def State.violation (s : State) (off size reason : Nat) (agent : Agent) (data : Nat) : State :=
  let e : VEnt := ⟨s.aon.newel, BitVec.ofNat 64 data, off, size, reason, agent, s.vSeq.toNat⟩
  let s := { s with vlog := SMap.set noViol s.vlog (s.vSeq.toNat % 64) (some e), vSeq := s.vSeq + 1 }
  let s := s.bump Fld.ERR_VIOL_CNT_COUNT 1
  let s := if s.fldB Fld.ERR_CTL_EN_VIOL then s.pendVec (s.fld Fld.ERR_CTL_VEC) else s
  s.trace (violBytes e)

/-- Is bit `p` of ERR_OPEN_PART and SQ_C0_COND_p.ERROR set (R495)? -/
def State.partErr (s : State) (p : Nat) : Bool :=
  s.definedPart p &&
    (s.fldB Fld.ERR_STATUS_LOST_OPEN ||
      s.openErrs.any (fun e => match e.part with | some q => q == p | none => true))

/-- Mark an array sector poisoned by an uncorrectable error or a poisoned write; when the poison table of its stack is full,
the Fatal error 0x32 (R224). -/
def State.poisonArr (s : State) (a : Nat) : State :=
  if isHbm a && !s.arrPoison a && s.poisonUsed (s.stackOf a) ≥ 1024 then
    s.memErr 0x32 3 3 (s.stackOf a) (a / 64 * 64) 0
  else s.setArrPoison a true

end Sys2Proof.Machine
end

