-- ==== Sys2Proof/Machine/Tags.lean ====
section
/-! DEFINITION. The tags of the L1 and the instruction cache, with their replacement (R199, R202). -/
namespace Sys2Proof.Machine

/-- What a meaning returns. -/
abbrev Out := Host.Outcome State Fault Refusal

/-! ### Tags of the L1 and the instruction cache (R199, R202) -/

def l1Default (_ : Nat) : L1Line := L1Line.empty

/-- Set the used bit of a way; when every enabled way of the set then has it set, the other ways' bits are cleared (R202). -/
def nruUse (m : SMap L1Line) (set : Nat) (ways : List Nat) (w : Nat) : SMap L1Line :=
  let key := fun i => set * 8 + i
  let m1 := SMap.set l1Default m (key w) { SMap.get l1Default m (key w) with used := true }
  if ways.all (fun i => (SMap.get l1Default m1 (key i)).used) then
    ways.foldl (fun t i => if i = w then t else SMap.set l1Default t (key i) { SMap.get l1Default t (key i) with used := false }) m1
  else m1

/-- The way of a set that holds a line. -/
def nruFind (m : SMap L1Line) (set : Nat) (ways : List Nat) (asid line : Nat) : Option Nat :=
  ways.find? (fun i => let l := SMap.get l1Default m (set * 8 + i); l.valid && l.line == line && l.asid == asid)

/-- The victim of a fill: an invalid enabled way, else the lowest-numbered whose used bit is clear (R202). -/
def nruVictim (m : SMap L1Line) (set : Nat) (ways : List Nat) : Option Nat :=
  match ways.find? (fun i => !(SMap.get l1Default m (set * 8 + i)).valid) with
  | some w => some w
  | none =>
    match ways.find? (fun i => !(SMap.get l1Default m (set * 8 + i)).used) with
    | some w => some w
    | none => ways.head?

/-- Look a line up, setting its used bit on a hit; on a miss fill it, with the used bit clear when the fill is old. -/
def nruTouch (m : SMap L1Line) (ways : List Nat) (asid line : Nat) (old : Bool) : SMap L1Line :=
  let set := line % 128
  match nruFind m set ways asid line with
  | some w => nruUse m set ways w
  | none =>
    match nruVictim m set ways with
    | none => m
    | some w =>
      let m1 := SMap.set l1Default m (set * 8 + w) ⟨true, false, asid, line⟩
      if old then m1 else nruUse m1 set ways w

end Sys2Proof.Machine
end

