-- ==== Sys2Proof/Machine/Cache.lean ====
section
/-! DEFINITION. The L1 tags, the L2's fills, victims, locks and evictions, and the memory-side cache (R192 to R218, R236,
R237). -/
namespace Sys2Proof.Machine

/-! ### The coherent span (R231, keys 0x0801) -/

/-- The chip with a span index; `none`: no member. -/
def State.spanChip (s : State) (k : Nat) : Option Nat :=
  let v := s.srec 0x0801 k
  if v.length = 2 && leNat v ≠ 0xFFFF then some (leNat v) else none

def State.spanOf (s : State) (chip : Nat) : Option Nat := (List.range 64).find? (fun k => s.spanChip k == some chip)

/-- This chip's span index. -/
def State.spanIdx (s : State) : Nat := s.fld Fld.HOME_CFG_SPAN_IDX

/-- STW_SPAN_STATE of a span index: 0 not in the span, 1 active, 2 silent, 3 left or cut off. -/
def State.spanState (s : State) (k : Nat) : Nat := bits (s.reg (Reg.STW_SPAN_STATE (k / 16))) (2 * (k % 16) + 1) (2 * (k % 16))

def State.setSpanState (s : State) (k v : Nat) : State :=
  let r := Reg.STW_SPAN_STATE (k / 16)
  s.setReg r (setBits (s.reg r) (2 * (k % 16) + 1) (2 * (k % 16)) v)

/-! ### L1 (R202 to R204, R236) -/

/-- The enabled ways of the L1 of core `c` (L2C_L1_DIS). -/
def State.l1Ways (s : State) (c : Nat) : List Nat :=
  let d := bits (s.reg (Reg.L2C_L1_DIS (c / 4))) (8 * (c % 4) + 7) (8 * (c % 4))
  (List.range 8).filter (fun w => !d.testBit w)

/-- Drop a line from an L1. -/
def Core.l1Drop (k : Core) (line : Nat) : Core :=
  { k with l1 := k.l1.filter (fun e => !(e.2.valid && e.2.line == line)) }

def Core.l1Has (k : Core) (line : Nat) : Bool := k.l1.any (fun e => e.2.valid && e.2.line == line)

/-- Invalidate the L1 copies of a line in the cores of the marked rows, but for the writer (R236, R237). -/
def State.l1Inval (s : State) (rows : BitVec 16) (line : Nat) (writer : Option Nat) : State :=
  { s with cores := s.cores.filterMap (fun e =>
      let k := if rows.getLsbD (e.1 / 16) && writer != some e.1 then e.2.l1Drop line else e.2
      if k = coreDefault e.1 then none else some (e.1, k)) }

/-! ### Kinds of line -/

inductive LKind where
  | local_ | host | peer
  deriving DecidableEq, Repr

/-- What memory a device physical address of a cacheable line names. -/
def State.lkind (s : State) (pa : Nat) : LKind :=
  if pa / 2 ^ 46 ≠ s.chip then .peer else if isHostRange (pa % 2 ^ 46) then .host else .local_

/-- Does the line of `pa` have an open coherence transaction (R206)? -/
def State.lineOpen (s : State) (line : Nat) : Bool :=
  s.txns.any (fun t => s.paOf t.req.gran / 128 == line) || s.preqs.any (fun r => r.gran / 128 == line) ||
    s.hcReqs.any (fun r => s.paOf r.addr / 128 == line)

/-! ### The memory-side cache and memory below the L2 -/

/-- Write a whole sector to the array, with its poison (R221, R224). -/
def State.writeArr (s : State) (a : Nat) (data : List Byte) (poison : Bool) : State :=
  let s := s.setArr (a / 64 * 64) (data.take 64)
  let s := if isHbm a then s.event 3 (s.stackOf a) 2 else s
  if poison then s.poisonArr a else s.setArrPoison a false

/-- Write a whole sector to memory: the array, and a copy that the memory-side cache holds (R212). -/
def State.writeMem (s : State) (a : Nat) (data : List Byte) (poison : Bool) : State :=
  let s := s.writeArr a data poison
  match s.mscSec a with
  | some _ => s.setMsc a (some ⟨false, poison, data⟩)
  | none => s

/-- Write some bytes of a sector to memory at once (R198): to the memory-side cache's copy where there is one, else to the
array; a whole sector clears the poison (R221). -/
def State.writeMemBytes (s : State) (a : Nat) (bs : List (Nat × Byte)) : State :=
  let whole := bs.length ≥ 64
  match s.mscSec a with
  | some x => s.setMsc a (some ⟨true, x.poison && !whole, patchBytes x.data bs⟩)
  | none =>
    let s := bs.foldl (fun t b => t.setByte (a / 64 * 64 + b.1) b.2) s
    if whole then s.setArrPoison a false else s

/-- The sectors of a way of the memory-side cache, with their addresses. -/
def MscLine.secs (l : MscLine) : List (Nat × MscSec) :=
  (l.s0.map (fun x => (l.line * 128, x))).toList ++ (l.s1.map (fun x => (l.line * 128 + 64, x))).toList

/-- Dirty sectors of a way of the memory-side cache are written to HBM (R218). -/
def State.mscClean (s : State) (l : MscLine) : State :=
  l.secs.foldl (fun t x => if x.2.dirty then t.writeArr x.1 x.2.data x.2.poison else t) s

/-- A line enters the memory-side cache in the set that it has, whose placement is not architectural: into a free way, else in place
of the victim of R206 over the 8 ways. Its age is open (R218; log entry 10). -/
def State.mscTake (s : State) (a : Nat) (x0 x1 : Option MscSec) : State :=
  let base := Config.mscSet (a / 128) % (s.mscSize / 1024) * 8
  let (s, n) := s.takeFree
  let l : MscLine := ⟨a / 128, (Config.freeByte n).toNat % 4, x0, x1⟩
  match (List.range 8).find? (fun w => !(s.mscAt (base + w)).held) with
  | some w => s.setMscLine (base + w) l
  | none =>
    match ageVictim (List.range 8) (fun w => (s.mscAt (base + w)).age) with
    | none => s
    | some (up, v) =>
      let s := (List.range 8).foldl (fun t w => let m := t.mscAt (base + w); t.setMscLine (base + w) { m with age := m.age + up }) s
      (s.mscClean (s.mscAt (base + v))).setMscLine (base + v) l

/-- What a way holds of a sector, merged with what is offered (R217). -/
def mscMerge : Option MscSec → Option MscSec → Option MscSec
  | y, none => y
  | none, x => x
  | some y, some x => some ⟨x.dirty || y.dirty, x.poison, x.data⟩

/-- A line of HBM with a memory-side cache leaves the L2: a line that the cache holds is merged and takes age 0; a clean line is
declined when it is fresh, or when its bank has more than 32 requests, which is timing and so a free choice (R216, R217; log
entry 10). -/
def State.mscOffer (s : State) (a : Nat) (x0 x1 : Option MscSec) (fresh : Bool) : State :=
  if x0.isNone && x1.isNone then s
  else
    match s.mscFind a with
    | some k => let l := s.mscAt k; s.setMscLine k { l with age := 0, s0 := mscMerge l.s0 x0, s1 := mscMerge l.s1 x1 }
    | none =>
      let (s, n) := s.takeFree
      if !(MscLine.dirty ⟨0, 0, x0, x1⟩) && (fresh || (Config.freeByte n).getLsbD 0) then s.bump Fld.L2C_MSC_DECLINE_CNT_COUNT 1 else s.mscTake a x0 x1

/-- Read a sector from below the L2, counting a hit in the memory-side cache, which sets the line's age to 0 (R206, R218). -/
def State.readBelow (s : State) (a : Nat) : State × List Byte × Bool :=
  match s.mscFind a, s.mscSec a with
  | some k, some x => ((s.setMscLine k { s.mscAt k with age := 0 }).bump Fld.L2C_MSC_HIT_CNT_COUNT 1, x.data, x.poison)
  | _, _ => (if isHbm a then s.event 3 (s.stackOf a) 1 else s, s.belowL2 a)

/-! ### Compatibility mode (R255, R256) -/

/-- Is the line in memory of a partition in compatibility mode? -/
def State.compat (s : State) (a : Nat) : Bool :=
  match s.partOfAddr a with
  | some p => (s.fld Fld.HOME_MODE_COMPAT).testBit p
  | none => false

/-- The bit of the bias table for the page of a local address: 2 MiB for HBM, then 4 KiB for the Gallery (R255). A page of the
Gallery is one of its interleaved alias (DESIGN CHOICE, log entry 131). -/
def biasIndex (a : Nat) : Nat :=
  if isHbm a then a / 0x10000 else 2 * 0x100000 * 8 + (interOf a - galleryBase) / 0x10000

def State.hostBias (s : State) (a : Nat) : Bool :=
  s.compat a &&
    (let i := biasIndex a
     ((s.loadRun (s.fld Fld.HOME_BIAS_BASE_BASE + i / 8) 1).headD 0).getLsbD (i % 8))

/-! ### Evictions (R216, R217, R237, R246, Table 08.6) -/

/-- A fresh transaction number (R244). -/
def State.newTxn (s : State) : State × Nat := ({ s with nextTxn := (s.nextTxn + 1) % 4096 }, s.nextTxn)

/-- Send a coherence message of this chip as requester to the home of global address `g`. -/
def State.sendHome (s : State) (opc g txn : Nat) (data : List Byte) (poison : Bool) : State :=
  s.send { mkMsg opc (g / 2 ^ 46) s.chip txn g 0 data with span := Fin.ofNat 64 s.spanIdx, poison := poison }

/-- The host address of a line (Table 09.1); a line of this chip's memory in host bias goes by its local address. -/
def State.hostName (s : State) (a : Nat) : Nat :=
  if isHostRange a then s.fld Fld.XLT_HOST_BASE_BASE + (a - hostBase) else a

/-- A CXL.cache request to the host for a sector (Table 08.6). -/
def State.hostReq (s : State) (r : HcReq) : State :=
  ({ s with hcReqs := s.hcReqs ++ [r] } : State).hostOut r.who (.d2hReq (s.hostName r.addr) r.op r.data)

/-- A sector leaves this chip's caches for the host, as Table 08.6 gives. -/
def State.evictHost (s : State) (a : Nat) (x : Sector) : State :=
  match x.st with
  | .m => s.hostReq ⟨a / 64 * 64, .dirtyEvict, none, 0, x.data, 0, .nobody, false⟩
  | .e => s.hostReq ⟨a / 64 * 64, .cleanEvictNoData, none, 0, [], 0, .nobody, false⟩
  | _ => s

/-- One sector leaves this chip's caches (Tables 07.6, 08.4 and 08.6); a line in host bias leaves as one of the host does (R256). -/
def State.evictSec (s : State) (pa : Nat) (x : Sector) : State :=
  if x.st = .i then s
  else
    let a := pa % 2 ^ 46
    match s.lkind pa with
    | .peer =>
      if x.st = .m then
        let (s, t) := s.newTxn
        ({ s with wbuf := s.wbuf ++ [⟨pa / 64 * 64, x.data, x.poison, t, 0, false, false⟩] } : State).sendHome 0x13 (pa / 64 * 64) t x.data x.poison
      else
        let (s, t) := s.newTxn
        s.sendHome 0x14 (pa / 64 * 64) t zero64 false
    | .host => s.evictHost a x
    | .local_ => if s.hostBias a then s.evictHost a x else if x.st = .m then s.writeArr a x.data x.poison else s

/-- A sector as it is offered to the memory-side cache. -/
def Sector.offer (x : Sector) : Option MscSec := if x.st = .i then none else some ⟨x.st == .m, x.poison, x.data⟩

/-- The sectors of a line leave the L2 (R216): a line of HBM goes to the memory-side cache where there is one. -/
def State.evictLine (s : State) (l : L2Line) : State :=
  let pa := l.line * 128
  let a := pa % 2 ^ 46
  if s.lkind pa = .local_ && isHbm a && s.mscSize ≠ 0 && !(s.hostBias a) then s.mscOffer a (l.sec 0).offer (l.sec 64).offer l.fresh
  else (s.evictSec pa (l.sec 0)).evictSec (pa + 64) (l.sec 64)

/-- The L1 copies of a line go, in the cores of its marked rows (R237). -/
def State.l1Recall (s : State) (l : L2Line) : State := s.l1Inval l.rows l.line none

/-- The line in a way leaves the L2, its L1 copies first (R216, R237). The way is invalid and unlocked afterwards. -/
def State.evictWay (s : State) (key : Nat) : State :=
  let l := s.l2At key
  if !l.valid then s
  else
    let s := s.l1Recall l
    let s := if l.dirty then s.bump Fld.L2C_DIRTY_EVICT_CNT_COUNT 1 else s
    (s.evictLine l).setL2 key L2Line.empty

/-! ### Victims and fills (R206 to R209) -/

/-- Is a way powered and not being changed (R210)? -/
def State.wayLive (s : State) (w : Nat) : Bool :=
  (s.fld Fld.L2C_WAY_STATE_POWERED).testBit w && !(s.fld Fld.L2C_WAY_STATE_CHANGING).testBit w

/-- The ways that a partition may fill: its MASK, powered and not being changed (R206, R210). -/
def State.fillWays (s : State) (p : Nat) : List Nat :=
  (List.range 16).filter (fun w => (s.fld (Fld.L2C_PART_WAYS_MASK p)).testBit w && s.wayLive w)

/-- Is the way held for its line: is it valid, or does a refetch hold it? -/
def L2Line.inUse (l : L2Line) : Bool := l.valid || l.keep != 0

/-- The victim of a fill by partition `p` into the set at `base`, with the ages that the search leaves (R206). -/
def State.l2Victim (s : State) (p base : Nat) : Option (State × Nat) :=
  let cand := (s.fillWays p).filter (fun w =>
    let l := s.l2At (base + w)
    l.lock.isNone && !(l.inUse && s.lineOpen l.line))
  match cand.find? (fun w => !(s.l2At (base + w)).valid) with
  | some w => some (s, base + w)
  | none =>
    (ageVictim cand (fun w => (s.l2At (base + w)).age)).map (fun v =>
      (cand.foldl (fun t w => let l := t.l2At (base + w); t.setL2 (base + w) { l with age := l.age + v.1 }) s, base + v.2))

/-- The way that is reserved for a line whose sectors are gone: by its lock, or by its refetch (R209, Table 07.7). -/
def State.l2Reserved (s : State) (pa : Nat) : Option Nat :=
  (List.range 16).findSome? (fun w =>
    let l := s.l2At (l2Base pa + w)
    if !l.valid && (l.lock.isSome || l.keep != 0) && l.line == pa / 128 && s.wayLive w then some (l2Base pa + w) else none)

/-- The state of a line that enters a way with one sector; what reserved the way for it stays. -/
def newLine (isHost : Bool) (pa age : Nat) (was : L2Line) (x : Sector) : L2Line :=
  ({ L2Line.empty with valid := true, host := isHost, line := pa / 128, age := age, fresh := age == 3, lock := was.lock, keep := was.keep } :
    L2Line).setSec pa x

/-- May partition `p` fill the sector of `pa` into the way that holds its line: a refetch holds the way for it, or the way is in the
partition's MASK (R207, R210)? A line is never in two ways, so that a sector which may not enter its line's way has no place
(DEDUCED, log entry 109). -/
def State.mayJoin (s : State) (p pa k : Nat) : Bool :=
  s.wayLive (k % 16) && (((s.l2At k).keep &&& keepBit pa) != 0 || (s.fld (Fld.L2C_PART_WAYS_MASK p)).testBit (k % 16))

/-- Fill a sector into the L2 for partition `p`; the Bool says whether it has a place (R206, R207). -/
def State.l2Fill (s : State) (p pa age : Nat) (x : Sector) : State × Bool :=
  match s.l2Find pa with
  | some k =>
    let l := s.l2At k
    if (l.sec pa).st ≠ .i then (s.setL2 k (l.setSec pa x), true)
    else if s.mayJoin p pa k then (s.setL2 k { l.setSec pa x with age := age }, true)
    else (s, false)
  | none =>
    match s.l2Reserved pa with
    | some k => (s.setL2 k (newLine (s.lkind pa = .host) pa age (s.l2At k) x), true)
    | none =>
      match s.l2Victim p (l2Base pa) with
      | none => (s, false)
      | some (s, k) => ((s.evictWay k).setL2 k (newLine (s.lkind pa = .host) pa age L2Line.empty x), true)

/-- Would a fill for partition `p` find a place? -/
def State.l2Room (s : State) (p pa : Nat) : Bool :=
  match s.l2Find pa with
  | some k => ((s.l2At k).sec pa).st != .i || s.mayJoin p pa k
  | none => (s.l2Reserved pa).isSome || (s.l2Victim p (l2Base pa)).isSome

/-- A lookup that misses. -/
def State.l2Miss (s : State) (pa : Nat) : State :=
  let n := sliceOf (pa % 2 ^ 46)
  ((s.bump Fld.L2C_MISS_CNT_COUNT 1).event 1 n 1).event 1 n 2

/-- A lookup that hits: age 0, and no longer fresh (R206). -/
def State.l2Hit (s : State) (pa : Nat) : State :=
  match s.l2Find pa with
  | some k => (s.setL2 k { s.l2At k with age := 0, fresh := false }).bump Fld.L2C_HIT_CNT_COUNT 1 |>.event 1 (sliceOf (pa % 2 ^ 46)) 1
  | none => s

/-- Lock the line of `pa` for partition `p` where R208 allows it; the Bool says whether it is locked for `p`. -/
def State.l2Lock (s : State) (p pa : Nat) : State × Bool :=
  match s.l2Find pa with
  | none => (s.bump Fld.L2C_LOCK_SHORT_CNT_COUNT 1, false)
  | some k =>
    let l := s.l2At k
    let base := l2Base pa
    let held := ((List.range 16).filter (fun w => (s.l2At (base + w)).lock == some p)).length
    let way := k - base
    let pow := s.fld Fld.L2C_WAY_STATE_POWERED
    let left := fun (q : Nat) => (List.range 16).any (fun w =>
      w != way && (s.fld (Fld.L2C_PART_WAYS_MASK q)).testBit w && pow.testBit w && (s.l2At (base + w)).lock.isNone)
    let others := (List.range 16).all (fun q =>
      let m := s.fld (Fld.L2C_PART_WAYS_MASK q)
      m &&& pow == 0 || left q)
    match l.lock with
    | some q => if q = p then (s, true) else (s.bump Fld.L2C_LOCK_SHORT_CNT_COUNT 1, false)
    | none =>
      if (s.fld (Fld.L2C_PART_WAYS_MASK p)).testBit way && s.wayLive way && held + 1 ≤ s.fld (Fld.L2C_PART_WAYS_LOCK_MAX p) && others then
        (s.setL2 k { l with lock := some p }, true)
      else (s.bump Fld.L2C_LOCK_SHORT_CNT_COUNT 1, false)

/-- A coherence invalidation of a sector: the L1 copies go first; a line with no valid sector left is invalid, and a locked
line's way stays reserved (R209, R237). -/
def State.l2Inval (s : State) (pa : Nat) : State :=
  match s.l2Find pa with
  | none => s
  | some k =>
    let l := s.l2At k
    let l' := { l.setSec pa Sector.empty with rows := 0 }
    (s.l1Recall l).setL2 k (if l'.void then l.gone else l')

/-- A sector is invalidated to be fetched again from its home or the host: its L1 copies go first, and the way stays its line's
(Table 07.7, R209, R237). -/
def State.l2Unload (s : State) (pa : Nat) : State :=
  match s.l2Find pa with
  | none => s
  | some k =>
    let l := s.l2At k
    let l' := { l.setSec pa Sector.empty with rows := 0, keep := l.keep ||| keepBit pa }
    (s.l1Recall l).setL2 k (if l'.void then { l.gone with line := l.line, host := l.host, age := l.age, keep := l'.keep } else l')

end Sys2Proof.Machine
end

