-- ==== Sys2Proof/Machine/Home.lean ====
section
/-! DEFINITION. The home agent: directory, conflict queue, transactions and timeouts (R231 to R245, R249 to R253, R255 to
R261, Table 08.3). -/
namespace Sys2Proof.Machine

/-! ### Directory (R238 to R242) -/

def dirDefault (_ : Nat) : DirEnt := DirEnt.empty

/-- The first key of the directory set of a granule. -/
def dirBase (a : Nat) : Nat := (sliceOf a * 16384 + dirSetOf a) * 16

def State.dirAt (s : State) (k : Nat) : DirEnt := SMap.get dirDefault s.dir k

def State.setDir (s : State) (k : Nat) (e : DirEnt) : State :=
  { s with dir := SMap.set dirDefault s.dir k e }

/-- The way that holds the entry of a granule, by its key. -/
def State.dirFind (s : State) (g : Nat) : Option Nat :=
  (List.range 16).findSome? (fun w =>
    let e := s.dirAt (dirBase g + w)
    if e.st ≠ .free && e.gran = g then some (dirBase g + w) else none)

/-- The entry of a granule; free where there is none. -/
def State.dirGet (s : State) (g : Nat) : DirEnt :=
  match s.dirFind g with
  | some k => s.dirAt k
  | none => { DirEnt.empty with gran := g }

/-- Has the granule an open transaction, or does it lie in pages whose bias flips (R232, R258)? -/
def State.blocked (s : State) (g : Nat) : Bool :=
  s.txns.any (fun t => t.req.gran == g) ||
    (match s.flip with
      | some f => (List.range f.pages).any (fun i => let b := f.addr + 0x10000 * i; covers b 0x10000 g)
      | none => false)

/-- The peers that an entry names (Table 08.1): a coarse bit stands for every member it covers but the home. -/
def State.holders (s : State) (e : DirEnt) : List Nat :=
  if e.cv then
    (List.range 64).filter (fun k => e.vec.getLsbD (k / 4) && (s.spanChip k).isSome && k != s.spanIdx)
  else e.ptrs

/-- Add a sharer; a fourth one switches the entry to the coarse vector (R239). -/
def DirEnt.add (e : DirEnt) (k : Nat) : DirEnt :=
  let bit := fun (v : BitVec 16) (i : Nat) => v ||| (1#16 <<< (i / 4))
  if e.cv then { e with vec := bit e.vec k }
  else if e.ptrs.contains k then e
  else if e.ptrs.length < 3 then { e with ptrs := e.ptrs ++ [k] }
  else { e with cv := true, vec := (k :: e.ptrs).foldl bit 0, ptrs := [] }

/-- Remove a member; coarse bits stay set (R261). -/
def DirEnt.drop (e : DirEnt) (k : Nat) : DirEnt := { e with ptrs := e.ptrs.filter (· != k) }

/-- Free an S entry that names no holder any more (R245). -/
def DirEnt.norm (e : DirEnt) : DirEnt :=
  if e.st = .s && !e.h && e.ptrs.isEmpty && !e.cv then DirEnt.empty else e

/-- Replacement cost of an entry (R241). -/
def DirEnt.cost (e : DirEnt) : Nat :=
  (if e.h then 8 else 0) + (if e.st = .m then 4 else 0) + (if e.cv then 4 else e.ptrs.length)

/-- Choice of a way for a new entry (R241): a free way, or a victim with the ages that the search leaves; `none`: wait. -/
def State.dirWay (s : State) (g : Nat) : Option (State × Nat) :=
  let base := dirBase g
  let ways := List.range 16
  match ways.find? (fun w => (s.dirAt (base + w)).st = .free) with
  | some w => some (s, base + w)
  | none =>
    let cand := ways.filter (fun w => !s.blocked (s.dirAt (base + w)).gran)
    if cand.isEmpty then none
    else
      let top := cand.foldl (fun m w => max m (s.dirAt (base + w)).age) 0
      let s := cand.foldl (fun t w => let e := t.dirAt (base + w); t.setDir (base + w) { e with age := e.age + (3 - top) }) s
      let old := cand.filter (fun w => (s.dirAt (base + w)).age ≥ 3)
      match old with
      | [] => none
      | w :: r =>
        let best := r.foldl (fun b x => if (s.dirAt (base + x)).cost < (s.dirAt (base + b)).cost then x else b) w
        some (s, base + best)

/-- Record the state of a granule: its way is reused, a free way taken, or the entry freed. -/
def State.dirPut (s : State) (g : Nat) (e : DirEnt) : State :=
  let e := e.norm
  match s.dirFind g with
  | some k => s.setDir k (if e.st = .free then DirEnt.empty else { e with gran := g, age := 0 })
  | none =>
    if e.st = .free then s
    else
      match s.dirWay g with
      | some (s, k) => s.setDir k { e with gran := g, age := 0 }
      | none => s

/-! ### Messages of the home -/

/-- Can a span member be reached and expected to answer (R261, R390)? -/
def State.memberOk (s : State) (k : Nat) : Bool := (s.spanChip k).isSome && s.spanState k = 1

/-- A message of the home to span member `k` about granule `g`; SPAN and TXN name the requester. -/
def State.sendPeer (s : State) (opc k g rspan txn : Nat) (data : List Byte) (poison : Bool) : State :=
  match s.spanChip k with
  | some c => s.send { mkMsg opc c s.chip txn (s.paOf g) 0 data with span := Fin.ofNat 64 rspan, poison := poison }
  | none => s

/-- The requester's span index and transaction number, where it is a peer. -/
def Rqr.peerOf : Rqr → Option (Nat × Nat)
  | .peer k _ t => some (k, t)
  | _ => none

/-- The span index and transaction number that the messages of a request carry: the peer's own; where the host, a local requester or
the home itself is the requester, the home's with number 0 (R244; DEDUCED, log entry 110). -/
def State.tagOf (s : State) (q : Rqr) : Nat × Nat := q.peerOf.getD (s.spanIdx, 0)

/-- Invalidations to peers: those that can answer are awaited (R245, R261). -/
def State.askInv (s : State) (tag : Nat × Nat) (g : Nat) (l : List Nat) : State × List HWait :=
  l.foldl (fun r k => if r.1.memberOk k then (r.1.sendPeer 0x24 k g tag.1 tag.2 zero64 false, r.2 ++ [.invAck k]) else r) (s, [])

/-- A back-invalidate snoop to the host (R252): kind 1 BISnpData, 2 BISnpInv; none is sent while the host link is contained
(R261). -/
def State.askHost (s : State) (g kind : Nat) : State × List HWait :=
  if s.ep.cont = .normal then ((s.bump Fld.HOME_BISNP_CNT_COUNT 1).hostSend (.bisnp g kind), [.biRsp]) else (s, [])

/-- A recall of the owner's data: RclS or RclI (R245). -/
def State.askRcl (s : State) (tag : Nat × Nat) (g k : Nat) (inv : Bool) : State × List HWait :=
  if s.memberOk k then (s.sendPeer (if inv then 0x23 else 0x22) k g tag.1 tag.2 zero64 false, [.rclData k]) else (s, [])

/-! ### The home copy -/

/-- Data that comes back to the home: written to the home L2 as dirty, or to memory where it has no place (R242, R245). -/
def State.homeData (s : State) (g : Nat) (data : List Byte) (poison : Bool) : State :=
  let (s', ok) := s.l2Fill ((s.partOfAddr g).getD 0) (s.paOf g) 1 ⟨.m, poison, data⟩
  if ok then s' else s'.writeMem g data poison

/-- Merge a write at the home: the L2 copy where there is one, after its L1 copies, else memory (R198, R221, R236). -/
def State.homeMerge (s : State) (g : Nat) (bs : List (Nat × Byte)) (poison : Bool) : State :=
  match s.l2Sec (s.paOf g), s.l2Find (s.paOf g) with
  | some x, some k =>
    let l := s.l2At k
    let s := s.l1Recall l
    s.setL2 k { l.setSec (s.paOf g) ⟨.m, (x.poison && bs.length < 64) || poison, patchBytes x.data bs⟩ with rows := 0 }
  | _, _ =>
    let s := s.writeMemBytes g bs
    if poison then (match s.mscSec g with | some x => s.setMsc g (some { x with poison := true }) | none => s.poisonArr g) else s

/-- Before a grant of M the home invalidates its own copy; dirty data also goes to memory (R245). -/
def State.homeTake (s : State) (g : Nat) : State :=
  match s.l2Sec (s.paOf g) with
  | some x =>
    let s := if x.st = .m then s.writeMem g x.data x.poison else s
    s.l2Inval (s.paOf g)
  | none => s

/-- The granule is poisoned in memory (R259). -/
def State.poisonGran (s : State) (g : Nat) : State :=
  let s := s.l2Inval (s.paOf g)
  match s.mscSec g with
  | some x => s.setMsc g (some { x with poison := true, dirty := true })
  | none => s.poisonArr g

/-! ### Transactions (R232, R245) -/

/-- The length of this chip's route to a chip through port `p`: 1 where the Setting's neighbour at the port is that chip (key 0x0702),
whatever the port's state, and otherwise 2 or more. The Setting names only a route's first port, so that these lengths are open (R380;
log entry 11). -/
def State.hopsVia (s : State) (p chip : Nat) : Nat :=
  let r := s.srec 0x0702 p
  if !r.isEmpty && at' r 0 2 == chip then 1 else Config.hopCount s.chip chip + 2

/-- The hop count from member `k` to member `r`: this chip's own by its primary route; the routes of other chips are not part of this
chip's Setting (R249; log entry 11). -/
def State.hops (s : State) (k r : Nat) : Nat :=
  if k = r then 0
  else
    match s.spanChip k, s.spanChip r with
    | some a, some b =>
      match (s.route b).head? with
      | some p => if a = s.chip then s.hopsVia p b else Config.hopCount a b + 1
      | none => Config.hopCount a b + 1
    | _, _ => 64

/-- The sharer that is strictly nearer to the requester than the home, the lower index first (R249). -/
def State.nearest (s : State) (e : DirEnt) (r : Nat) : Option Nat :=
  if e.cv then none
  else
    let own := s.hops s.spanIdx r
    e.ptrs.foldl (fun b k =>
      if k = r || !s.memberOk k then b
      else
        let h := s.hops k r
        if h ≥ own then b
        else
          match b with
          | none => some k
          | some j => if h < s.hops j r || (h = s.hops j r && k < j) then some k else b) none

/-- A txn that waits for answers, nothing granted. -/
def mkTxn (r : HReq) (w : List HWait) : HTxn := ⟨r, w, false, false, false, false, false⟩

def HReq.isGrant (r : HReq) : Bool := r.op == .rds || r.op == .rdm || r.op == .upg

/-- Does the request leave an entry, so that it needs a way of the directory? -/
def HReq.needsWay (r : HReq) : Bool :=
  match r.op, r.rq with
  | .rds, _ => true
  | .rdm, _ => true
  | .upg, _ => true
  | .hostRead, .host .i => false
  | .hostRead, _ => true
  | .hostInv, .host .i => false
  | .hostInv, _ => true
  | .memWr, .host .i => false
  | .memWr, _ => true
  | .memWrPtl, .host .i => false
  | .memWrPtl, _ => true
  | _, _ => false

/-- What the home asks of other holders before it serves a request, by Table 08.3; the transaction that results. -/
def State.homeAsk (s : State) (r : HReq) : State × HTxn :=
  let e := s.dirGet r.gran
  let g := r.gran
  let tag := s.tagOf r.rq
  let owner := if e.st = .m && !e.h then e.ptrs.head? else none
  let hostOwns := e.st = .m && e.h
  let invAll := fun (t : State) (but : Option Nat) (hostToo : Bool) =>
    let (t, w1) := t.askInv tag g ((t.holders e).filter (fun k => some k != but))
    let (t, w2) := if hostToo && e.h then t.askHost g 2 else (t, [])
    (t, w1 ++ w2)
  match r.op with
  | .rds =>
    match owner, r.rq.peerOf with
    | some o, some (k, t) =>
      if s.memberOk o then (s.sendPeer 0x20 o g k t zero64 false, { mkTxn r [.wbS o] with granted := true })
      else (s, { mkTxn r [] with lost := true })
    | _, some (k, t) =>
      if hostOwns then
        let (s, w) := s.askHost g 1
        (s, { mkTxn r w with lost := w.isEmpty })
      else
        match (if e.st = .s then s.nearest e k else none) with
        | some o => (s.sendPeer 0x20 o g k t zero64 false, { mkTxn r [] with granted := true, fwd := true })
        | none => (s, mkTxn r [])
    | _, none => (s, mkTxn r [])
  | .rdm | .upg =>
    match owner, r.rq.peerOf with
    | some o, some (k, t) =>
      if s.memberOk o then (s.sendPeer 0x21 o g k t zero64 false, { mkTxn r [.fwdAck o] with granted := true })
      else (s, { mkTxn r [] with lost := true })
    | _, some (k, _) =>
      if hostOwns then
        let (s, w) := s.askHost g 2
        (s, { mkTxn r w with lost := w.isEmpty })
      else
        let (s, w) := invAll s (some k) true
        -- a coarse bit tells only of a peer that says it holds S (DEDUCED, log entry 111)
        (s, { mkTxn r w with inX := e.st == .s && (r.op == .upg || !e.cv) && (s.holders e).contains k })
    | _, none => (s, mkTxn r [])
  | .localRead =>
    match owner with
    | some o => let (s, w) := s.askRcl tag g o false; (s, { mkTxn r w with lost := w.isEmpty })
    | none =>
      if hostOwns then let (s, w) := s.askHost g 1; (s, { mkTxn r w with lost := w.isEmpty }) else (s, mkTxn r [])
  | .hostRead | .hostInv =>
    match owner, r.rq with
    | some o, .host .a => let (s, w) := s.askRcl tag g o true; (s, { mkTxn r w with lost := w.isEmpty })
    | some o, _ => let (s, w) := s.askRcl tag g o false; (s, { mkTxn r w with lost := w.isEmpty })
    | none, .host .a => let (s, w) := invAll s none false; (s, mkTxn r w)
    | none, _ => (s, mkTxn r [])
  | .memWr | .memWrPtl =>
    match owner with
    | some o => let (s, w) := s.askRcl tag g o true; (s, { mkTxn r w with lost := w.isEmpty && r.op == .memWrPtl })
    | none => let (s, w) := invAll s none false; (s, mkTxn r w)
  | .wrf | .wrp | .localWrite | .evict =>
    match owner with
    | some o => let (s, w) := s.askRcl tag g o true; (s, { mkTxn r w with lost := w.isEmpty && r.op != .wrf })
    | none =>
      let (s, w) := invAll s none true
      (s, { mkTxn r w with lost := hostOwns && s.ep.cont != .normal && r.op != .wrf })
  | .wbm | .discard => (s, mkTxn r [])

/-- Remove a transaction. -/
def State.dropTxn (s : State) (g : Nat) : State := { s with txns := s.txns.filter (fun t => t.req.gran != g) }

/-- The entry after a host access under its MetaValue (R252): what off-chip peers keep is `peers`. -/
def hostEntry (mv : Meta) (peers : DirEnt) : DirEnt :=
  match mv with
  | .a => { DirEnt.empty with st := .m, h := true }
  | .s => { peers with st := .s, h := true }
  | .i => { peers with h := false, st := if peers.ptrs.isEmpty && !peers.cv then .free else .s }

/-- The peers of an entry, as an S entry without H: what stays when the host's part is replaced. -/
def DirEnt.peersOnly (e : DirEnt) : DirEnt :=
  if e.st = .m && e.h then DirEnt.empty else { e with st := if e.ptrs.isEmpty && !e.cv then .free else .s, h := false }

/-- Every answer has arrived: the grant, or the end of a transaction that needs none (Table 08.3). The Bool says whether the
transaction has ended; one of a local requester ends when its access is applied (R232). -/
def State.homeServe (s : State) (t : HTxn) : State × Bool :=
  let r := t.req
  let g := r.gran
  let s := if t.lost then s.poisonGran g else s
  let e := s.dirGet g
  match r.op, r.rq with
  | .rds, .peer k _ x =>
    let (d, p) := s.curSec g
    let base : DirEnt :=
      if e.st = .m then
        (if e.h then { DirEnt.empty with st := .s, h := !t.lost } else { DirEnt.empty with st := .s, ptrs := if t.lost then [] else e.ptrs })
      else { e with st := .s }
    ((s.dirPut g (base.add k)).sendPeer 0x30 k g k x d p, false)
  | .rdm, .peer k _ x | .upg, .peer k _ x =>
    let (d, p) := s.curSec g
    let s := s.homeTake g
    let s := s.dirPut g { DirEnt.empty with st := .m, ptrs := [k] }
    (if t.inX then s.sendPeer 0x32 k g k x zero64 false else s.sendPeer 0x31 k g k x d p, false)
  | .wrf, .peer k _ x =>
    (((s.homeMerge g (maskBytes (BitVec.allOnes 64) r.data) r.poison).dirPut g DirEnt.empty).sendPeer 0x38 k g k x zero64 false, true)
  | .wrp, .peer k _ x =>
    (((s.homeMerge g (maskBytes r.mask r.data) r.poison).dirPut g DirEnt.empty).sendPeer 0x38 k g k x zero64 false, true)
  -- a write of the host through the Gallery aperture (R305)
  | .wrp, .local_ => ((s.homeMerge g (maskBytes r.mask r.data) r.poison).dirPut g DirEnt.empty, true)
  | .wbm, .peer k _ x =>
    -- a write-back whose sender is no longer the owner is stale (R247)
    let s := if e.st = .m && !e.h && e.ptrs = [k] then (s.homeData g r.data r.poison).dirPut g DirEnt.empty else s
    (s.sendPeer 0x37 k g k x zero64 false, true)
  | .hostRead, .host mv =>
    let (d, p) := s.curSec g
    let s := if mv = .a then s.homeTake g else s
    let peers := if mv = .a then DirEnt.empty
      else if e.st = .m && !e.h then { DirEnt.empty with st := .s, ptrs := if t.lost then [] else e.ptrs } else e.peersOnly
    let s := s.dirPut g (hostEntry mv peers)
    ((s.hostSend (.drs g d p)).hostSend (.ndr g (match mv with | .a => 2 | .s => 1 | .i => 0)), true)
  | .hostInv, .host mv =>
    let s := if mv = .a then s.homeTake g else s
    let peers := if mv = .a then DirEnt.empty
      else if e.st = .m && !e.h then { DirEnt.empty with st := .s, ptrs := if t.lost then [] else e.ptrs } else e.peersOnly
    ((s.dirPut g (hostEntry mv peers)).hostSend (.ndr g (match mv with | .a => 2 | .s => 1 | .i => 0)), true)
  | .memWr, .host mv =>
    let s := s.homeMerge g (maskBytes (BitVec.allOnes 64) r.data) r.poison
    let s := if mv = .a then s.homeTake g else s
    ((s.dirPut g (hostEntry mv DirEnt.empty)).hostSend (.ndr g 0), true)
  | .memWrPtl, .host mv =>
    let s := s.homeMerge g (maskBytes r.mask r.data) r.poison
    let s := if mv = .a then s.homeTake g else s
    ((s.dirPut g (hostEntry mv DirEnt.empty)).hostSend (.ndr g 0), true)
  | .localRead, _ | .discard, _ =>
    let e' : DirEnt :=
      if e.st = .m then
        (if e.h then { DirEnt.empty with st := .s, h := !t.lost }
         else { DirEnt.empty with st := .s, ptrs := if t.lost then [] else e.ptrs })
      else e
    (s.dirPut g e', r.op == .discard)
  | .localWrite, _ => (s.dirPut g DirEnt.empty, false)
  | .evict, _ => (s.dirPut g DirEnt.empty, true)
  | _, _ => (s, true)

/-- The entry of an owner that keeps S, with its holders (Table 08.3). -/
def DirEnt.shared (e : DirEnt) : DirEnt := if e.st = .s then e else { DirEnt.empty with st := .s, ptrs := e.ptrs }

/-- A granted transaction of a peer is over: the entry names the peer (Table 08.3). Where the home granted, it does already; where the
owner or a sharer did, it is named here. -/
def State.grantEnd (s : State) (t : HTxn) : State :=
  let g := t.req.gran
  match t.req.rq.peerOf with
  | some (k, _) =>
    match t.req.op with
    | .rds => s.dirPut g ((s.dirGet g).shared.add k)
    | .rdm | .upg => s.dirPut g { DirEnt.empty with st := .m, ptrs := [k] }
    | _ => s
  | none => s

/-- Start a transaction whose line is free and whose way is there (R232). -/
def State.homeStart (s : State) (r : HReq) : State :=
  let s := if r.starve then s.bump Fld.HOME_STARVE_CNT_COUNT 1 else s
  let (s, t) := s.homeAsk r
  if t.waits.isEmpty && !t.granted then
    let (s, ended) := s.homeServe t
    if ended then s else { s with txns := s.txns ++ [{ t with granted := true }] }
  else { s with txns := s.txns ++ [t] }

/-- Is there a way for the request, or does a victim have to be evicted first (R241, R242)? -/
inductive WayRes where
  | ok
  | wait
  | evict (g : Nat)
  deriving DecidableEq, Repr

/-- Does the request need a way that its granule has not got? -/
def State.wantsWay (s : State) (r : HReq) : Bool := r.needsWay && (s.dirFind r.gran).isNone

/-- Is an entry of the directory set of a granule being evicted? Its way goes to the request that waits for it (R242). -/
def State.evicting (s : State) (g : Nat) : Bool := s.txns.any (fun t => t.req.op == .evict && dirBase t.req.gran == dirBase g)

def State.wayFor (s : State) (r : HReq) : State × WayRes :=
  if !s.wantsWay r then (s, .ok)
  else
    match s.dirWay r.gran with
    | none => (s, .wait)
    | some (t, k) =>
      let e := t.dirAt k
      if e.st = .free then (s, .ok) else if s.evicting r.gran then (s, .wait) else (t, .evict e.gran)

/-- Begin the eviction of a directory entry (R242). -/
def State.homeEvict (s : State) (g : Nat) : State :=
  (s.bump Fld.HOME_DIR_EVICT_CNT_COUNT 1).homeStart ⟨g, .local_, .evict, false, false, 0, zero64, false⟩

/-- Does request `x`, which waits, hold back `r`: one of the same line, or one of the same directory set that waits for a way as `r`
does (R233)? -/
def State.holdsBack (s : State) (r x : HReq) : Bool :=
  x.gran == r.gran || (s.wantsWay r && s.wantsWay x && dirBase x.gran == dirBase r.gran && !s.blocked x.gran)

/-- Start a request whose line is free, once it has its way; for a way a victim is evicted. The Bool says whether it has started. -/
def State.tryStart (s : State) (r : HReq) : State × Bool :=
  match s.wayFor r with
  | (s, .ok) => (s.homeStart r, true)
  | (s, .wait) => (s, false)
  | (s, .evict g) =>
    match (s.homeEvict g).wayFor r with
    | (s, .ok) => (s.homeStart r, true)
    | (s, _) => (s, false)

/-- Serve the conflict queue once, in arrival order for each line and each directory set (R233). -/
def State.serveQueue (s : State) : State :=
  (s.conflict).foldl (fun t r =>
    if t.blocked r.gran || (t.conflict.takeWhile (fun x => x != r)).any (t.holdsBack r) then t
    else
      match t.tryStart r with
      | (u, true) => { u with conflict := u.conflict.erase r }
      | (u, false) => u) s

/-- Serve the queue until nothing more can start: each pass starts at least one request. -/
def State.serveAll (s : State) : Nat → State
  | 0 => s
  | n + 1 => let t := s.serveQueue; if t.conflict.length = s.conflict.length then t else t.serveAll n

/-- A granule of which no off-chip copy is left has no entry (R238). -/
def State.dirTrim (s : State) (g : Nat) : State :=
  match s.dirFind g with
  | some k => s.setDir k (s.dirAt k).norm
  | none => s

/-- End a transaction and serve those that wait (R232, R233). Its entry goes where a walk has meanwhile removed its last holder. -/
def State.endTxn (s : State) (g : Nat) : State := let s := (s.dropTxn g).dirTrim g; s.serveAll (s.conflict.length + 1)

/-- Shared entries of the conflict queue in use at the slice of a granule. -/
def State.sharedUsed (s : State) (g : Nat) : Nat :=
  (s.conflict.filter (fun r => sliceOf r.gran == sliceOf g && !r.rsv)).length

/-- Can a request take an entry of the conflict queue, and is it a reserved one (R233, R234)? -/
def State.queueEntry (s : State) (r : HReq) : Option Bool :=
  let mine := fun (p : HReq → Bool) => (s.conflict.filter (fun x => sliceOf x.gran == sliceOf r.gran && x.rsv && p x)).length
  if s.sharedUsed r.gran < 64 && !r.starve then some false
  else
    match r.rq with
    | .host _ => if mine (fun x => match x.rq with | .host _ => true | _ => false) < 32 then some true else none
    -- the L2 slice that asks for a line of this chip is its home slice
    | .local_ => if mine (fun x => x.rq == .local_) < 1 then some true else none
    | .peer k _ _ =>
      if r.starve && mine (fun x => match x.rq.peerOf with | some (j, _) => j == k | none => false) < 1 then some true else none

/-- Does the request wait in the conflict queue (R233)? -/
def State.mustQueue (s : State) (r : HReq) : Bool := s.blocked r.gran || s.conflict.any (s.holdsBack r)

/-- Admit a request at the home, or queue it; the Bool says whether it was taken (R232 to R234). -/
def State.homeAdmit (s : State) (r : HReq) : State × Bool :=
  let queue := fun (t : State) =>
    match t.queueEntry r with
    | some rsv => (({ t with conflict := t.conflict ++ [{ r with rsv := rsv }] } : State), true)
    | none => (t, false)
  if s.mustQueue r then queue s
  else
    match (s.wayFor r).2 with
    | .ok => let t := s.homeStart r; (if t.blocked r.gran then t else t.serveAll (t.conflict.length + 1), true)
    | .wait => queue s
    | .evict _ => match queue s with | (s, true) => (s.serveAll (s.conflict.length + 1), true) | (s, false) => (s, false)

/-! ### Answers (R245, R259, R260) -/

/-- An answer for granule `g` has arrived, if a transaction waits for it: go on with it. -/
def State.homeAnswer (s : State) (g : Nat) (w : HWait) (f : HTxn → HTxn) : State :=
  match s.txns.find? (fun t => t.req.gran == g && t.waits.contains w) with
  | none => s
  | some t0 =>
    let t := f { t0 with waits := t0.waits.erase w }
    let put := fun (x : State) (t : HTxn) => ({ x with txns := x.txns.map (fun y => if y.req.gran == g then t else y) } : State)
    if !t.waits.isEmpty then put s t
    else if t.granted then
      if t.done then ((put s t).grantEnd t).endTxn g else put s t
    else
      let (s, ended) := (put s t).homeServe t
      if ended then s.endTxn g else put s { t with granted := true }

/-- Does an open transaction wait for this answer? -/
def State.awaits (s : State) (g : Nat) (w : HWait) : Bool := s.txns.any (fun t => t.req.gran == g && t.waits.contains w)

/-- A late answer (R260). `k`: the span index; `none`: the host. -/
def State.lateAnswer (s : State) (g : Nat) (k : Option Nat) : State :=
  let s := s.bump Fld.HOME_LATE_CNT_COUNT 1
  let s := s.memErr 0x16 1 1 (sliceOf g) g (match k with | some i => i | none => 0x8000)
  match k with
  | some i => ({ s with lateInv := s.lateInv ++ [(g, i)] } : State).sendPeer 0x24 i g s.spanIdx 0 zero64 false
  | none => s

/-- Is the answer one that would have carried the only current data (R259)? -/
def HWait.carries (e : DirEnt) : HWait → Bool
  | .rclData _ => true
  | .wbS _ => true
  | .biRsp => e.st == .m && e.h
  | _ => false

/-- The agent that an awaited answer comes from: a span index, or `none` for the host. -/
def HWait.agent : HWait → Option Nat
  | .invAck k => some k
  | .fwdAck k => some k
  | .rclData k => some k
  | .wbS k => some k
  | .biRsp => none
  | .hostGrant => none

/-- The answers of a transaction that `p` selects time out; with none awaited its Done does (R259). A grant to a local requester whose
access has not come ends without a note (DESIGN CHOICE, log entry 108). -/
def State.homeTimeout (s : State) (t : HTxn) (p : HWait → Bool) : State :=
  let g := t.req.gran
  let e := s.dirGet g
  let note := fun (x : State) (a : Option Nat) => x.memErr 0x15 1 1 (sliceOf g) g (match a with | some i => i | none => 0x8000)
  let out := t.waits.filter p
  let rest := t.waits.filter (fun w => !p w)
  if t.waits.isEmpty && t.req.rq == .local_ then s.endTxn g
  else
  let s := s.bump Fld.HOME_TIMEOUT_CNT_COUNT 1
  if t.waits.isEmpty then
    -- only Done is missing: the line unblocks and the entry stays as granted
    ((note s (t.req.rq.peerOf.map (·.1))).grantEnd t).endTxn g
  else
    let lost := t.lost || out.any (fun w => w.carries e)
    let s := out.foldl (fun x w => note x w.agent) s
    let e' := out.foldl (fun (x : DirEnt) w =>
      match w.agent with
      | some k => x.drop k
      | none => { x with h := false, st := if x.st = .m then .s else x.st }) e
    let put := fun (x : State) (t : HTxn) => ({ x with txns := x.txns.map (fun y => if y.req.gran == g then t else y) } : State)
    if !rest.isEmpty then (put s { t with waits := rest, lost := lost }).dirPut g e'
    else if t.granted && t.done then
      let s := if lost then s.poisonGran g else s
      (((put s { t with waits := [], lost := lost }).dirPut g e').grantEnd { t with lost := lost }).endTxn g
    else
      let t' := { t with waits := [], lost := lost, granted := false, fwd := false }
      let s := (put s t').dirPut g e'
      let (s, ended) := s.homeServe t'
      if ended then s.endTxn g else put s { t' with granted := true, lost := false }

end Sys2Proof.Machine
end

