-- ==== Sys2Proof/Machine/Mem.lean ====
section
/-! DEFINITION. Reading and writing coherent memory for this chip's own agents: what an address leads to, and each sector's
read, write and ownership, with the requests that bring what is missing (R198, R205, R243, R246, R254, R265 to R267, R508). -/
namespace Sys2Proof.Machine

/-! ### Targets (R265, R266) -/

/-- Cache_Enable of the CXL Device DVSEC: bit 0 of its control register at 0x164 (R254, log entry 12). -/
def State.cacheEnable (s : State) : Bool := (SMap.get zeroCfg s.ep.cfg 0x164).getLsbD 0

/-- Where a device physical address leads. -/
def State.target (s : State) (pa : Nat) : Tgt :=
  let c := pa / 2 ^ 46 % 1024
  let a := pa % 2 ^ 46
  if isWindow a then .window c (bits a 43 32) (bits a 31 0)
  else if c = s.chip then
    if isHbm a || isGallery a then (if s.holdsMem (canon a) then .coh c (canon a) else .err)
    else if isHostRange a then .host a
    else if isRegImage a then .reg (a - regBase)
    else .err
  else if (isHbm a || isGallery a) && (s.spanOf c).isSome then .coh c (canon a)
  else .err

/-- The device physical address by which the caches name a target. -/
def State.tgtPa (s : State) : Tgt → Option Nat
  | .coh c a => some (c * 2 ^ 46 + a)
  | .host a => if s.cacheEnable then some (s.paOf a) else none
  | _ => none

/-- A target as a number: a name for its byte, the same for every access to it. -/
def Tgt.name : Tgt → Nat
  | .coh c a => c * 2 ^ 46 + a
  | .host a => 2 ^ 60 + a
  | .window c w o => 2 ^ 61 + (c * 4096 + w) * 2 ^ 32 + o
  | .reg o => 2 ^ 62 + o
  | .err => 2 ^ 63

/-- The target `n` bytes on, within the same 64-byte block. -/
def Tgt.plus (t : Tgt) (n : Nat) : Tgt :=
  match t with
  | .coh c a => .coh c (a + n)
  | .host a => .host (a + n)
  | .window c w o => .window c w (o + n)
  | .reg o => .reg (o + n)
  | .err => .err

/-! ### Requests that bring what is missing -/

/-- Ask the home for local access to a granule, unless such a request already waits (R232, R245). -/
def State.askLocal (s : State) (g : Nat) (op : HOp) : State :=
  let same := fun (r : HReq) => r.gran == g && r.rq == .local_ && (r.op == op || r.op == .localWrite)
  if s.txns.any (fun t => same t.req) || s.conflict.any same then s
  else (s.homeAdmit ⟨g, .local_, op, false, false, 0, zero64, false⟩).1

/-- Ask a peer home for a sector, unless a request for it is outstanding (R246). -/
def State.askPeer (s : State) (g : Nat) (op : HOp) (age : Option Nat) (part : Nat) : State :=
  if s.preqs.any (fun r => r.gran == g) then s
  else
    let (s, t) := (if op = .upg then s else s.l2Miss g).newTxn
    let opc := match op with | .rds => 0x10 | .rdm => 0x11 | _ => 0x12
    ({ s with preqs := s.preqs ++ [⟨g, op, t, 0, false, false, age, part, [], 0, .nobody⟩] } : State).sendHome opc g t zero64 false

/-- Ask the host for a sector, unless a request for it is outstanding (Table 08.6). -/
def State.askCxl (s : State) (a : Nat) (op : HcOp) (age : Option Nat) (part : Nat) : State :=
  if s.hcReqs.any (fun r => r.addr == a) then s
  else (if (s.l2Sec (s.paOf a)).isSome then s else s.l2Miss (s.paOf a)).hostReq ⟨a, op, age, part, [], 0, .nobody, false⟩

/-- Has the home granted a local requester the granule, for a write where `write` is set, while its access is still to be applied
(R232)? -/
def HTxn.localFor (t : HTxn) (g : Nat) (write : Bool) : Bool :=
  t.req.gran == g && t.req.rq == .local_ && t.granted && (t.req.op == .localWrite || (!write && t.req.op == .localRead))

def State.localHeld (s : State) (g : Nat) (write : Bool) : Bool := s.txns.any (fun t => t.localFor g write)

/-- May a local requester read the granule now: its line is not blocked by another, and no off-chip agent owns it (Table 08.3)? -/
def State.mayRead (s : State) (g : Nat) : Bool := (!s.blocked g || s.localHeld g false) && (s.dirGet g).st != .m

/-- May a local requester write the granule now: no off-chip copy (Table 08.3)? -/
def State.mayWrite (s : State) (g : Nat) : Bool := (!s.blocked g || s.localHeld g true) && (s.dirGet g).st == .free

/-- A request touches the entry of a granule: its age is 0 (Table 08.1). -/
def State.dirTouch (s : State) (g : Nat) : State :=
  match s.dirFind g with
  | some k => if (s.dirAt k).age = 0 then s else s.setDir k { s.dirAt k with age := 0 }
  | none => s

/-- A local access has been applied: a transaction that the home granted for it ends (R232). A read leaves one that was granted for a
write. -/
def State.localDone (s : State) (g : Nat) (write : Bool) : State :=
  let s := s.dirTouch g
  if s.txns.any (fun t => t.localFor g false && (write || t.req.op == .localRead)) then s.endTxn g else s

/-- The sector of `pa` in the buffer of sectors without a place. -/
def State.rbufSec (s : State) (pa : Nat) : Option Sector := (s.rbuf.find? (fun e => e.1 == pa / 64 * 64)).map (·.2)

def State.dropRbuf (s : State) (pa : Nat) : State := { s with rbuf := s.rbuf.filter (fun e => e.1 != pa / 64 * 64) }

/-- A load takes a sector that has no place in the L2: the copy is given up as an evicted one is (Tables 08.4 and 08.6). -/
def State.takeRbuf (s : State) (pa : Nat) : State × Option Sector :=
  match s.rbufSec pa with
  | none => (s, none)
  | some x => ((s.dropRbuf pa).evictSec pa x, some x)

/-! ### Reading a sector -/

/-- The sector's bytes and poison for a read by partition `p`, where it can be read now; otherwise the request that brings
it. `age`: the age of an L2 fill, `none`: no allocation (Table 07.3). -/
def State.readSec (s : State) (p pa : Nat) (age : Option Nat) : State × Option (List Byte × Bool) :=
  let g := pa / 64 * 64
  let a := g % 2 ^ 46
  match s.lkind pa, s.l2Sec pa with
  | .local_, some _ =>
    let s := if s.mayRead a then s else s.askLocal a .localRead
    match s.l2Sec pa with
    | some x => if s.mayRead a then ((s.l2Hit pa).localDone a false, some (x.data, x.poison)) else (s, none)
    | none => (s, none)
  | _, some x => (s.l2Hit pa, some (x.data, x.poison))
  | k, none =>
    match s.takeRbuf pa with
    | (s, some x) => (s, some (x.data, x.poison))
    | (s, none) =>
      match k with
      | .peer => (s.askPeer g .rds age p, none)
      | .host => (s.askCxl a .rdShared age p, none)
      | .local_ =>
        if s.hostBias a then (if s.blocked a then (s, none) else (s.askCxl a .rdShared age p, none))
        else
          let s := if s.mayRead a then s else s.askLocal a .localRead
          if !s.mayRead a then (s, none)
          else
            let (s, d, po) := (s.l2Miss pa).readBelow a
            let s := match age with | some n => (s.l2Fill p pa n ⟨.s, po, d⟩).1 | none => s
            (s.localDone a false, some (d, po))

/-! ### Writing a sector -/

/-- Outcome of a write attempt: performed; not yet possible; handed to the home or host, which acknowledges it; or an error response
of the host. -/
inductive WRes where
  | done
  | wait
  | sent
  | bad
  deriving DecidableEq, Repr

/-- How a write goes into the L2 (Table 07.3, R228). -/
inductive WPol where
  /-- Allocate dirty with an age. -/
  | alloc (age : Nat)
  /-- Allocate clean and write to memory. -/
  | through
  /-- Update a present copy and write to memory. -/
  | around
  deriving DecidableEq, Repr

def MType.pol : MType → WPol
  | .wb => .alloc 1
  | .wt => .through
  | .streaming => .alloc 3
  | .wtm => .around
  | .device => .around

/-- Age of the L2 fill on a load miss (Table 07.3). -/
def MType.readAge : MType → Option Nat
  | .wb => some 1
  | .wt => some 1
  | .streaming => some 3
  | .wtm => none
  | .device => none

/-- After a write the other cores' L1 copies are gone, and only the writer's row stays marked (R236). -/
def State.afterWrite (s : State) (pa : Nat) (writer : Option Nat) : State :=
  match s.l2Find pa with
  | some k =>
    let l := s.l2At k
    let mine : BitVec 16 := match writer with | some c => 1#16 <<< (c / 16) | none => 0
    (s.l1Inval l.rows l.line writer).setL2 k { l with rows := l.rows &&& mine }
  | none => s

/-- Write bytes of a local sector that this chip alone holds (Table 07.3, R205, R221). -/
def State.writeLocal (s : State) (p pa : Nat) (pol : WPol) (bs : List (Nat × Byte)) (writer : Option Nat) : State :=
  let a := pa % 2 ^ 46 / 64 * 64
  let whole := bs.length ≥ 64
  match s.l2Sec pa with
  | some x =>
    let x' : Sector := ⟨match pol with | .alloc _ => .m | _ => x.st, x.poison && !whole, patchBytes x.data bs⟩
    let s := ((s.l2Hit pa).setL2Sec pa x').afterWrite pa writer
    match pol with
    | .alloc _ => s
    | _ => s.writeMemBytes a bs
  | none =>
    let s := s.l2Miss pa
    match pol with
    | .around => (s.writeMemBytes a bs).afterWrite pa writer
    | _ =>
      let (age, st) : Nat × Coh := match pol with | .alloc n => (n, .m) | _ => (1, .s)
      let (s, d, po) := if whole then (s, zero64, false) else s.readBelow a
      let (s', ok) := s.l2Fill p pa age ⟨st, po && !whole, patchBytes d bs⟩
      let s' := s'.afterWrite pa writer
      if ok && st = .m then s' else s'.writeMemBytes a bs

/-- A store in the L2 to a sector of a host or peer line that the chip owns: it is dirty. -/
def State.dirtySec (s : State) (pa : Nat) (x : Sector) (bs : List (Nat × Byte)) (writer : Option Nat) : State :=
  ((s.l2Hit pa).setL2Sec pa ⟨.m, x.poison && bs.length < 64, patchBytes x.data bs⟩).afterWrite pa writer

/-- A store to a sector whose home is the host: of host memory, or of a line in host bias (Table 08.6, R256). -/
def State.writeCxl (s : State) (p pa : Nat) (pol : WPol) (bs : List (Nat × Byte)) (writer : Option Nat) (who : Who) : State × WRes :=
  let a := pa / 64 * 64 % 2 ^ 46
  let whole := bs.length ≥ 64
  let mask : W64 := bs.foldl (fun m b => m ||| (1#64 <<< b.1)) 0
  let data := patchBytes zero64 bs
  -- the sector is to be owned before the store; a whole-sector store goes with its request
  let own := fun (t : State) (age : Nat) =>
    if whole then
      (if t.hcReqs.any (fun r => r.addr == a) then (t, WRes.wait)
       else (t.hostReq ⟨a, .rdOwnNoData, some age, p, data, mask, who, false⟩, WRes.sent))
    else (t.askCxl a .rdOwn (some age) p, WRes.wait)
  let past := fun (t : State) => (t.hostReq ⟨a, if whole then .woWrInvF else .woWrInv, none, p, data, mask, who, false⟩, WRes.sent)
  let back := fun (t : State) (x : Sector) => (t.hostReq ⟨a, .dirtyEvict, none, p, patchBytes x.data bs, 0, who, false⟩, WRes.sent)
  match s.l2Sec pa, pol with
  | some x, .alloc _ => if x.st = .s then own s 1 else (s.dirtySec pa x bs writer, .done)
  | some x, _ => if x.st = .s then past (s.l2Inval pa) else back ((s.dirtySec pa x bs writer).l2Inval pa) x
  | none, _ =>
    -- a sector without a place in the L2 is owned like one in it, and leaves with the store
    match s.rbufSec pa, pol with
    | some x, _ =>
      match x.st, pol with
      | .i, _ => (s.dropRbuf pa, .bad)
      | .s, .alloc n => own s n
      | .s, _ => past (s.dropRbuf pa)
      | _, _ => back (s.dropRbuf pa) x
    | none, .alloc n => if s.l2Room p pa then own s n else past s
    | none, _ => past s

/-- Give up M of a peer's granule with its data, which the write-back buffer keeps until WbAck (Table 08.4). A Normal-WT store, which
allocates clean, then reads it again (DEDUCED, log entry 113). -/
def State.giveBack (s : State) (p g : Nat) (pol : WPol) (d : List Byte) (poison : Bool) : State :=
  let s := s.evictSec g ⟨.m, poison, d⟩
  if pol = .through then s.askPeer g .rds (some 1) p else s

/-- Write bytes of one sector, where the chip may write it now; otherwise the request that brings what is missing. -/
def State.writeSec (s : State) (p pa : Nat) (pol : WPol) (bs : List (Nat × Byte)) (writer : Option Nat) (who : Who) : State × WRes :=
  let g := pa / 64 * 64
  let a := g % 2 ^ 46
  let whole := bs.length ≥ 64
  let mask : W64 := bs.foldl (fun m b => m ||| (1#64 <<< b.1)) 0
  let data := patchBytes zero64 bs
  match s.lkind pa with
  | .local_ =>
    if s.hostBias a then (if s.blocked a then (s, .wait) else s.writeCxl p pa pol bs writer who)
    else
      let s := if s.mayWrite a then s else s.askLocal a .localWrite
      if s.mayWrite a then ((s.writeLocal p pa pol bs writer).localDone a true, .done) else (s, .wait)
  | .host => s.writeCxl p pa pol bs writer who
  | .peer =>
    let uncached := fun (t : State) =>
      let (t, x) := t.newTxn
      let op : HOp := if whole then .wrf else .wrp
      let q : PReq := ⟨g, op, x, 0, false, false, none, p, data, mask, who⟩
      let t : State := { t with preqs := t.preqs ++ [q] }
      (t.send { mkMsg (if whole then 0x15 else 0x16) (g / 2 ^ 46) t.chip x g 0 data with
        span := Fin.ofNat 64 t.spanIdx, mask := mask }, WRes.sent)
    match s.l2Sec pa with
    | some x =>
      if pol = .around then
        -- the home invalidates this chip's copy with the others (Table 08.3)
        uncached (if x.st = .m then s else s.l2Inval pa)
      else if x.st = .m then
        let s := s.dirtySec pa x bs writer
        (if pol = .through then (s.l2Inval pa).giveBack p g pol (patchBytes x.data bs) (x.poison && !whole) else s, .done)
      else (s.askPeer g .upg (some 1) p, .wait)
    | none =>
      if pol = .around then uncached s
      else
        match s.rbufSec pa with
        | some x =>
          match x.st with
          -- the home has refused the line (R257)
          | .i => (s.dropRbuf pa, .done)
          | .s => (s.askPeer g .upg (some 1) p, .wait)
          | _ => ((s.dropRbuf pa).giveBack p g pol (patchBytes x.data bs) (x.poison && !whole), .done)
        | none =>
          if s.l2Room p pa || s.preqs.any (fun r => r.gran == g) then
            (s.askPeer g .rdm (match pol with | .alloc n => some n | _ => some 1) p, .wait)
          else uncached s

/-! ### Atomics on a sector (R508) -/

/-- This chip's copy of a sector of a host or peer line: in the L2, or in the buffer of sectors without a place. -/
def State.copySec (s : State) (pa : Nat) : Option Sector :=
  match s.l2Sec pa with
  | some x => some x
  | none => s.rbufSec pa

/-- The sector's bytes for an atomic, where this chip may write it now (R243, R508). A refusal is consumed as poison. -/
def State.ownSec (s : State) (p pa : Nat) : State × Option (List Byte × Bool) :=
  let g := pa / 64 * 64
  let a := g % 2 ^ 46
  let own := fun (s : State) (up ask : State) =>
    match s.copySec pa with
    | some x =>
      match x.st with
      | .i => (s.dropRbuf pa, some (x.data, true))
      | .s => (up, none)
      | _ => (s, some (x.data, x.poison))
    | none => (ask, none)
  let cxl := fun (s : State) => own s (s.askCxl a .rdOwn (some 1) p) (s.askCxl a .rdOwn (some 1) p)
  match s.lkind pa with
  | .local_ =>
    if s.hostBias a then (if s.blocked a then (s, none) else cxl s)
    else
      let s := if s.mayWrite a then s else s.askLocal a .localWrite
      if s.mayWrite a then (s, some (s.curSec a)) else (s, none)
  | .host => cxl s
  | .peer => own s (s.askPeer g .upg (some 1) p) (s.askPeer g .rdm (some 1) p)

/-- An atomic that `ownSec` answered with poison writes nothing: the home's grant is over. -/
def State.ownEnd (s : State) (pa : Nat) : State :=
  if s.lkind pa = .local_ then s.localDone (pa % 2 ^ 46 / 64 * 64) true else s

/-! ### Whole reads and writes by engines that wait for every sector -/

/-- Sector addresses that `n` bytes at `pa` touch. -/
def secsOf (pa n : Nat) : List Nat := (List.range ((pa % 64 + n + 63) / 64)).map (fun i => pa / 64 * 64 + 64 * i)

/-- Can the sector be read now? -/
def State.secReady (s : State) (pa : Nat) : Bool :=
  let a := pa % 2 ^ 46 / 64 * 64
  if (s.l2Sec pa).isSome then s.lkind pa != .local_ || s.mayRead a
  else (s.rbufSec pa).isSome || (s.lkind pa == .local_ && !s.hostBias a && s.mayRead a)

/-- Read whole sectors, all of them or none: while one cannot be read, those that cannot are asked for. -/
def State.readSecs (s : State) (p : Nat) (secs : List Nat) (age : Option Nat) : State × Option (List Byte × Bool) :=
  if secs.all s.secReady then
    let (s, l) := secs.foldl (fun (r : State × Option (List Byte × Bool)) q =>
      match r.1.readSec p q age, r.2 with
      | (t, some (d, po)), some (acc, pa) => (t, some (acc ++ d, pa || po))
      | (t, _), _ => (t, none)) (s, some ([], false))
    (s, l)
  else ((secs.filter (fun q => !s.secReady q)).foldl (fun t q => (t.readSec p q age).1) s, none)

/-- Read `n` bytes at physical address `pa` (canonical within its sectors), all of them or none. -/
def State.readAll (s : State) (p pa n : Nat) (age : Option Nat) : State × Option (List Byte × Bool) :=
  let (s, l) := s.readSecs p (secsOf pa n) age
  (s, l.map (fun x => ((x.1.drop (pa % 64)).take n, x.2)))

/-- The bytes of a run that fall in the sector at `q`, by their offset in it. -/
def secBytes (pa : Nat) (data : List Byte) (q : Nat) : List (Nat × Byte) :=
  let lo := max pa q
  let hi := min (pa + data.length) (q + 64)
  (((data.drop (lo - pa)).take (hi - lo)).zipIdx).map (fun d => (lo - q + d.2, d.1))

/-- Could every sector of a list be written by this chip at once? -/
def State.canWrite (s : State) (secs : List Nat) : Bool :=
  secs.all (fun q =>
    let a := q % 2 ^ 46
    let own : Bool := match s.copySec q with | some x => x.st == .m || x.st == .e | none => false
    match s.lkind q with
    | .local_ => if s.hostBias a then own && !s.blocked a else s.mayWrite a
    | _ => own)

/-- Canonical physical address of a local address of this chip's memory or of the host range. -/
def State.unitPa (s : State) (la : Nat) : Nat := s.paOf (canon la)

/-- Write a run at local address `la` at once where every sector can be written; otherwise ask for what is missing. The Bool
says whether it was written. Used by the chip's own units for records and rings. -/
def State.writeAll (s : State) (p la : Nat) (data : List Byte) : State × Bool :=
  let secs := secsOf la data.length
  if s.canWrite (secs.map s.unitPa) then
    (secs.foldl (fun t q => (t.writeSec p (t.unitPa q) (.alloc 1) (secBytes la data q) none .nobody).1) s, true)
  else
    (secs.foldl (fun t q => if t.canWrite [t.unitPa q] then t else (t.ownSec p (t.unitPa q)).1) s, false)

/-! ### CXL.io (R302, R317) -/

/-- How many CXL.io reads may be outstanding (R317); 10-Bit Tag Requester Enable is bit 12 of Device Control 2. -/
def State.tagLimit (s : State) : Nat :=
  let n := s.fld Fld.EP_TAG_LIMIT_LIMIT
  if (s.cfgW 0x98).getLsbD 12 then n else min n 256

/-- The largest CXL.io read: Max Read Request Size of Device Control (R317), 512 bytes at reset. -/
def State.maxRead (s : State) : Nat := min 4096 (128 * 2 ^ (bits (s.cfgW 0x78).toNat 14 12 ^^^ 2))

/-- The requests, of at most `m` bytes each and none across a multiple of `m`, that read `len` bytes at `a`: address and length. -/
def ioParts (m a len : Nat) : List (Nat × Nat) :=
  if len = 0 then []
  else (List.range ((a + len - 1) / m + 1 - a / m)).map (fun i =>
    let lo := max a ((a / m + i) * m)
    (lo, min (a + len) ((a / m + i + 1) * m) - lo))

/-- The request that a reader has outstanding for a part. -/
def State.ioTag (s : State) (w : IoWho) (q : Nat × Nat) : Option IoTag :=
  s.ep.tags.find? (fun t => t.owner == w && t.addr == q.1 && t.len == q.2)

/-- Make the request for a part, when none is outstanding and a tag is free. -/
def State.ioAsk (s : State) (w : IoWho) (q : Nat × Nat) : State :=
  let used := s.ep.tags.filter (fun t => t.ans.isNone)
  if (s.ioTag w q).isSome || s.ioBarred || used.length ≥ s.tagLimit then s
  else
    let n := ((List.range 1024).find? (fun i => !(used.any (fun t => t.tag == i)))).getD 0
    ({ s with ep := { s.ep with tags := s.ep.tags ++ [⟨n, q.1, q.2, w, none⟩] } } : State).hostOut .nobody (.memRd n (s.hostName q.1) q.2)

/-- The answers of the parts as one: an error where one is an error, poison where one is poisoned. -/
def ioJoin (l : List IoTag) : Option (List Byte × Bool) :=
  l.foldr (fun t r =>
    match t.ans, r with
    | some (some (b, p)), some (bs, ps) => some (b ++ bs, p || ps)
    | _, _ => none) (some ([], false))

/-- The answer of a CXL.io read of `len` bytes at local address `a`, where it has come: bytes with poison, or `none` for an
error response. Requests that are not outstanding are made, as tags are free. -/
def State.ioRead (s : State) (w : IoWho) (a len : Nat) : State × Option (Option (List Byte × Bool)) :=
  let l := ioParts s.maxRead a len
  let got := l.filterMap (s.ioTag w)
  if got.length = l.length && got.all (·.ans.isSome) then
    ({ s with ep := { s.ep with tags := s.ep.tags.filter (fun t => !got.contains t) } }, some (ioJoin got))
  else (l.foldl (fun t q => t.ioAsk w q) s, none)

/-! ### Windows: the issuing chip (R293) -/

/-- The global address of a byte of a window (R266). -/
def winAddr (chip win off : Nat) : Nat := chip * 2 ^ 46 + winBase + win * 2 ^ 32 + off

/-- The answer of a window read, or of an atomic, where it has come; without one outstanding it is sent. -/
def State.winAsk (s : State) (w : IoWho) (chip addr len : Nat) (m : Nat → Msg) : State × Option (Option (List Byte × Bool)) :=
  match s.winOut.find? (fun a => !a.wr && a.owner == w && a.chip == chip && a.addr == addr && a.len == len) with
  | some a =>
    match a.ans with
    | some r => ({ s with winOut := s.winOut.erase a }, some r)
    | none => (s, none)
  | none =>
    let (s, t) := s.newTxn
    (({ s with winOut := s.winOut ++ [⟨t, chip, addr, len, false, w, .nobody, none⟩] } : State).send (m t), none)

/-- Read `len` bytes through a window. -/
def State.winRead (s : State) (w : IoWho) (chip win off len : Nat) : State × Option (Option (List Byte × Bool)) :=
  let a := winAddr chip win off
  s.winAsk w chip a len (fun t => mkMsg 0x40 chip s.chip t a (len - 1) zero64)

/-- Write bytes of one block through a window. -/
def State.winWrite (s : State) (who : Who) (chip win off : Nat) (bs : List (Nat × Byte)) : State :=
  let a := winAddr chip win off / 64 * 64
  let mask : W64 := bs.foldl (fun m b => m ||| (1#64 <<< b.1)) 0
  let (s, t) := s.newTxn
  ({ s with winOut := s.winOut ++ [⟨t, chip, a, 64, true, .unit, who, none⟩] } : State).send
    { mkMsg 0x41 chip s.chip t a 0 (patchBytes zero64 bs) with mask := mask }

/-! ### Reads and writes by units of the chip, at local addresses -/

/-- Read `n` bytes at local address `la` for a unit of the chip: bytes with poison, an error, or not yet (outer `none`). -/
def State.unitRead (s : State) (p la n : Nat) : State × Option (Option (List Byte × Bool)) :=
  if isHostRange la && !s.cacheEnable then s.ioRead .unit la n
  else if isHostRange la || s.holdsMem (canon la) then
    match s.readSecs p ((secsOf la n).map s.unitPa) none with
    | (s, some r) => (s, some (some ((r.1.drop (la % 64)).take n, r.2)))
    | (s, none) => (s, none)
  else (s, some none)

/-- Write one sector of host memory for a unit of the chip, past the L2 as a transfer with HINT 0b00 does (Table 08.6): a copy in S is
dropped and the write goes out, and a copy in E or M is updated and written with DirtyEvict. -/
def State.hostSecWrite (s : State) (who : Who) (a : Nat) (bs : List (Nat × Byte)) : State :=
  let data := patchBytes zero64 bs
  if !s.cacheEnable then s.hostOut who (.memWr (s.hostName (a + (bs.headD (0, 0)).1)) (bs.map (·.2)))
  else
    let pa := s.paOf a
    let past := fun (t : State) => t.hostOut who (.d2hReq (s.hostName a) (if bs.length ≥ 64 then .woWrInvF else .woWrInv) data)
    let back := fun (t : State) (x : Sector) =>
      if x.st = .s || x.st = .i then past t else t.hostOut who (.d2hReq (s.hostName a) .dirtyEvict (patchBytes x.data bs))
    match s.l2Sec pa, s.rbufSec pa with
    | some x, _ => back (s.l2Inval pa) x
    | none, some x => back (s.dropRbuf pa) x
    | none, none => past s

/-- Write a run at local address `la` for a unit of the chip, with `who` to be told when a held write leaves; the Bool says
whether the write has been made: memory of this chip may first need a recall. -/
def State.unitWrite (s : State) (p : Nat) (who : Who) (la : Nat) (data : List Byte) : State × Bool :=
  if isHostRange la then
    let q := secsOf la data.length
    if !s.cacheEnable && s.ioBarred then (s, false)
    else
      (q.foldl (fun t a =>
        t.hostSecWrite (if a + 64 ≥ la + data.length then who else .nobody) a (secBytes la data a)) s, true)
  else s.writeAll p la data

/-- Does local address range `la`, `n` lie in installed memory of this chip or in the host range? -/
def State.unitOk (s : State) (la n : Nat) : Bool :=
  (isHostRange la && isHostRange (la + n - 1)) ||
    ((List.range (n / 64 + 1)).all (fun i => s.holdsMem (canon (min (la + 64 * i) (la + n - 1)))))

end Sys2Proof.Machine
end

