-- ==== Sys2Proof/Machine/Pages.lean ====
section
/-! DEFINITION. Where the tier manager's pages stand in its virtual range, and which page is mapped at an address (R357, R358,
R366). -/
namespace Sys2Proof.Machine

/-- The base of the tier manager's range (R357). -/
def tierVa : Nat := 0xC00000000000

/-- Positions that one page of a layer holds (R366). -/
def Image.perPage (i : Image) : Nat := 1024 / i.kvb

/-- Pages of each layer of a stream (R366). -/
def TStream.np (v : TStream) (i : Image) : Nat := ceilDiv v.maxpos i.perPage

/-- The virtual address of a page. The input area of a stream follows its pages. -/
def State.pageVa (s : State) (o : POwner) (idx : Nat) : Nat :=
  let inStream := fun (n : Nat) (f : TStream → Image → Nat) =>
    match s.strm n with
    | some v => match s.img v.image with | some i => v.va + 0x10000 * (f v i) | none => 0
    | none => 0
  match o with
  | .image i => match s.img i with | some m => m.va + 0x10000 * idx | none => 0
  | .copy i => match s.img i with | some m => m.va + 0x10000 * idx | none => 0
  | .stream n l => inStream n (fun v i => l * v.np i + idx)
  | .input n => inStream n (fun v i => i.layers * v.np i + idx)

/-- Are the weights of an image read from its tier-0 copy: in GALLERY, and while it leaves that state (Table 12.4)? -/
def Image.fromCopy (i : Image) : Bool := i.res == .gallery || (i.res == .changing && i.was == .gallery)

def POwner.isCopy : POwner → Bool
  | .copy _ => true
  | _ => false

/-- Is a page the tier-0 copy that an image's weights are read from? -/
def State.copyRead (s : State) (g : Page) : Bool :=
  match g.owner with
  | .copy h => (s.img h).elim false Image.fromCopy
  | _ => false

/-- The page that is mapped at a virtual address of partition `p`: a page in tier 0 or 1, where the image is read from its tier-0 copy
that one before its home copy (Table 12.4). -/
def State.mappedPage (s : State) (p va : Nat) : Option Page :=
  let hit := fun (g : Page) => g.part == p && g.tier < 2 && s.pageVa g.owner g.idx == va / 0x10000 * 0x10000
  match s.pages.find? (fun g => s.copyRead g && hit g) with
  | some g => some g
  | none => s.pages.find? (fun g => !g.owner.isCopy && hit g)

/-- Is `t` the level-3 table of the tier manager that serves `va` in partition `p` (R357)? -/
def State.tierTable (s : State) (p t va : Nat) : Bool :=
  va ≥ tierVa && va < 2 ^ 48 && t == s.paOf (s.fld (Fld.TIER_VA_ROOT_BASE p) + 4096 * (va / 2 ^ 39 - 384))

end Sys2Proof.Machine
end

