-- ==== Sys2Proof/Machine/Xlat.lean ====
section
/-! DEFINITION. Translation buffers and the second level, misses and walkers, the walk, faults, their records and replies
(R266 to R285). -/
namespace Sys2Proof.Machine

/-! ### Contexts and page tables (R268 to R273) -/

def noCtx (_ : Nat) : Ctx := Ctx.empty

def State.ctx (s : State) (tag : Nat) : Ctx := SMap.get noCtx s.ctxs tag

def State.setCtx (s : State) (tag : Nat) (c : Ctx) : State := { s with ctxs := SMap.set noCtx s.ctxs tag c }

/-- table_ok: the 4 KiB lie in HBM or tier-0 Gallery of this chip that the Setting assigns to `p`. -/
def State.tableOk (s : State) (p t : Nat) : Bool :=
  t / 2 ^ 46 == s.chip && (isHbm (t % 2 ^ 46) || isGallery (t % 2 ^ 46)) && s.ownsRange p (t % 2 ^ 46) 4096

/-- Entries of key 0x030C: chip, base and length of shared memory of span members. -/
def peerRanges : Nat → List Byte → List (Nat × Nat × Nat)
  | 0, _ => []
  | n + 1, l => if l.length < 18 then [] else (at' l 0 2, at' l 2 8, at' l 10 8) :: peerRanges n (l.drop 18)

/-- target_ok of R273 for a page at device physical address `b`. -/
def State.targetOk (s : State) (p b size : Nat) (priv : Bool) (ty : MType) : Bool :=
  let a := b % 2 ^ 46
  if isWindow a then true
  else if b / 2 ^ 46 = s.chip then
    if isHostRange a then s.ownsHost p a size
    else if isRegImage a then priv && ty == .device
    else (isHbm a || isGallery a) && s.ownsRange p a size
  else
    (s.spanOf (b / 2 ^ 46)).isSome &&
      (peerRanges 64 (s.srec 0x030C p)).any (fun r =>
        r.1 == b / 2 ^ 46 && r.2.1 ≤ a && a + size ≤ r.2.1 + r.2.2)

/-- TYPE of a leaf (Table 09.2). -/
def leafType (n : Nat) : Option MType :=
  match n with
  | 0 => some .wb | 1 => some .wt | 2 => some .streaming | 3 => some .wtm | 4 => some .device | _ => none

/-- Is the entry a leaf at its level? -/
def isLeaf (e lvl : Nat) : Bool := lvl == 1 || (lvl ≤ 3 && e.testBit 2)

/-- Is a reserved bit of a present entry set (R271)? -/
def reservedSet (e lvl : Nat) : Bool :=
  bits e 62 56 != 0 || e.testBit 7 || (lvl ≥ 2 && e.testBit 3) || (lvl == 4 && e.testBit 2) ||
    (if isLeaf e lvl then (leafType (bits e 6 4)).isNone else bits e 6 4 != 0)

inductive WalkRes where
  | leaf (t : Tlb)
  | fault (kind level : Nat)
  /-- A table entry has to be brought to its home first. -/
  | wait
  deriving DecidableEq, Repr

/-- The level of a leaf, by its size. -/
def leafLevel (size : Nat) : Nat := if size ≤ 0x10000 then 1 else if size = 0x200000 then 2 else 3

/-- The walk of R273 from table `t` at level `lvl`. -/
def State.walkFrom (s : State) (tag p va : Nat) (priv : Bool) : Nat → Nat → State × WalkRes
  | 0, _ => (s, .wait)
  | lvl + 1, t =>
    let l := lvl + 1
    if !s.tableOk p t then (s, .fault 4 l)
    else if l == 3 && s.tierTable p t va then
      -- the tier manager writes the entries from here on, and maps each page by one 64 KiB leaf (R357, R358; log entry 58)
      match s.readAll p (s.paOf (canon (t % 2 ^ 46 + 8 * (va / 2 ^ 30 % 512)))) 8 (some 1) with
      | (s, none) => (s, .wait)
      | (s, some (_, true)) => (s, .fault 7 l)
      | (s, some (_, false)) =>
        match s.mappedPage p va with
        | some g =>
          if s.targetOk p (s.paOf g.phys) 0x10000 priv .wb then
            (s, .leaf ⟨tag, va / 0x10000 * 0x10000, 0x10000, s.paOf g.phys, true, .wb, true⟩)
          else (s, .fault 5 1)
        | none => (s, .fault 1 1)
    else
      let sh := 12 + 9 * lvl
      let ea := s.paOf (canon (t % 2 ^ 46 + 8 * (va / 2 ^ sh % 512)))
      match s.readAll p ea 8 (some 1) with
      | (s, none) => (s, .wait)
      | (s, some (b, po)) =>
        let e := leNat b
        if po then (s, .fault 7 l)
        else if !e.testBit 0 then (s, .fault 1 l)
        else if reservedSet e l then (s, .fault 3 l)
        else if isLeaf e l then
          let size := if l = 1 && e.testBit 3 then 0x10000 else 2 ^ sh
          let base := bits e 55 12 * 4096
          let ty := (leafType (bits e 6 4)).getD .wb
          if base % size ≠ 0 then (s, .fault 3 l)
          else if !s.targetOk p base size priv ty then (s, .fault 5 l)
          else (s, .leaf ⟨tag, va / size * size, size, base, e.testBit 1, ty, true⟩)
        else s.walkFrom tag p va priv lvl (bits e 55 12 * 4096)

/-- The walk of a virtual address in the context of a tag; a tag without a context gives CONTEXT, whose level the manual
leaves open (R279). -/
def State.walk (s : State) (tag va : Nat) : State × WalkRes :=
  let c := s.ctx tag
  if c.valid then s.walkFrom tag c.part va c.priv 4 c.root
  else
    let (s, n) := s.takeFree
    (s, .fault 6 ((Config.freeByte n).toNat % 4 + 1))

/-! ### Buffers (R276) -/

def noTlb (_ : Nat) : List Tlb := []

/-- The translation buffers: of core `c`, instruction fetch 3c, load/store 3c+1, transfer engine 3c+2; of chip-level channel
`n`, 768+n. -/
def fetchBuf (c : Nat) : Nat := 3 * c
def lsBuf (c : Nat) : Nat := 3 * c + 1
def xferBuf (c : Nat) : Nat := 3 * c + 2
def chanBuf (n : Nat) : Nat := 768 + n

def State.tlb (s : State) (u : Nat) : List Tlb := SMap.get noTlb s.tlbs u
def State.setTlb (s : State) (u : Nat) (l : List Tlb) : State := { s with tlbs := SMap.set noTlb s.tlbs u l }

def Tlb.maps (t : Tlb) (tag va : Nat) : Bool := t.tag == tag && t.va ≤ va && va < t.va + t.size

/-- The used bit of the entry that a lookup or fill selects is set; when all of a full buffer are, the others' are cleared
(NRU). -/
def nruMark (n : Nat) (l : List Tlb) (t : Tlb) : List Tlb :=
  let l := l.map (fun x => if x = t then { x with used := true } else x)
  if l.length ≥ n && l.all (·.used) then l.map (fun x => if x = { t with used := true } then x else { x with used := false }) else l

/-- Put a leaf into a list of at most `n` entries, replacing the first whose used bit is clear. -/
def tlbPut (n : Nat) (l : List Tlb) (t : Tlb) : List Tlb :=
  let l := l.filter (fun x => !(x.tag == t.tag && x.va == t.va && x.size == t.size))
  let l := if l.length < n then l
    else
      match l.findIdx? (fun x => !x.used) with
      | some i => l.eraseIdx i
      | none => l.tail
  nruMark n (l ++ [t]) t

/-- The set of 8 ways of the second level in which a leaf stands, of the 512 in each of the 16 slices (R276). -/
def Tlb.set (t : Tlb) : Nat := Config.stlbSet t.tag t.va t.size % 8192

/-- Put a leaf into the second level, in its set (R276; replacement by NRU, log entry 114). -/
def stlbPut (l : List Tlb) (t : Tlb) : List Tlb := l.filter (fun x => x.set != t.set) ++ tlbPut 8 (l.filter (fun x => x.set == t.set)) t

/-- A lookup has found leaf `t` in the second level. -/
def stlbMark (l : List Tlb) (t : Tlb) : List Tlb := l.filter (fun x => x.set != t.set) ++ nruMark 8 (l.filter (fun x => x.set == t.set)) t

/-- Install a leaf in a buffer and in the second level. -/
def State.install (s : State) (u : Nat) (t : Tlb) : State :=
  (s.setTlb u (tlbPut 48 (s.tlb u) t)) |> fun s => { s with stlb := stlbPut s.stlb t }

/-- Look a page up in a buffer and then in the second level, which fills the buffer. -/
def State.tlbLook (s : State) (u tag va : Nat) : State × Option Tlb :=
  match (s.tlb u).find? (fun t => t.maps tag va) with
  | some t => (s.setTlb u (nruMark 48 (s.tlb u) t), some t)
  | none =>
    let s := if u < 768 then s.event 0 (u % 256) 6 else s
    match s.stlb.find? (fun t => t.maps tag va) with
    | some t =>
      let s := s.bump Fld.XLT_STLB_HIT_CNT_COUNT 1
      let s := { s with stlb := stlbMark s.stlb t }
      (s.setTlb u (tlbPut 48 (s.tlb u) { t with used := true }), some t)
    | none => (s, none)

/-- Remove translations from every buffer and the second level. -/
def State.dropTlb (s : State) (p : Tlb → Bool) : State :=
  { s with
    tlbs := s.tlbs.filterMap (fun e => let l := e.2.filter (fun t => !p t); if l.isEmpty then none else some (e.1, l)),
    stlb := s.stlb.filter (fun t => !p t) }

/-! ### Misses and walkers (R277, R278) -/

def samePage (a b : Nat) : Bool := a / 4096 == b / 4096

/-- Do two requests share one walk? -/
def WalkReq.shares (a b : WalkReq) : Bool := a.tag == b.tag && samePage a.va b.va && !a.only && !b.only

/-- Is the walk of the miss under way? -/
def WalkReq.walks (r : WalkReq) : Bool := r.st == .walking && r.started

/-- Those that hold a walker, one of each that share it. -/
def walkersHeld (l : List WalkReq) : List WalkReq :=
  l.foldl (fun b r => if r.walks && !(b.any (fun x => x.shares r)) then b ++ [r] else b) []

/-- Is a walker free for a walk of a class and partition, beside the walks `busy` (R278)? -/
def walkerFree (busy : List WalkReq) (cls part : Nat) : Bool :=
  let other := busy.filter (fun b => b.cls != 0)
  busy.length < 64 && (cls == 0 || (other.length < 56 && (other.filter (fun b => b.part == part)).length < 32))

/-- Give walkers to the waiting misses in arrival order, within the limits of R278 and up to 8 misses of each buffer (R277, log entry
115); `act` holds those whose walks are under way. The number tells the walks started. -/
def giveWalkers : List WalkReq → List WalkReq → List WalkReq × Nat
  | _, [] => ([], 0)
  | act, r :: rest =>
    let busy := walkersHeld act
    let shared := busy.any (fun b => b.shares r)
    if r.st == .walking && !r.started && (act.filter (fun b => b.buf == r.buf)).length < 8 && (shared || walkerFree busy r.cls r.part) then
      let r := { r with started := true }
      let (l, n) := giveWalkers (act ++ [r]) rest
      (r :: l, if shared then n else n + 1)
    else let (l, n) := giveWalkers act rest; (r :: l, n)

def State.startWalks (s : State) : State :=
  let (l, n) := giveWalkers (s.walks.filter WalkReq.walks) s.walks
  let s := { s with walks := l }
  if n = 0 then s else s.bump Fld.XLT_WALK_CNT_COUNT n

def State.modWalk (s : State) (k : Nat) (f : WalkReq → WalkReq) : State :=
  { s with walks := s.walks.map (fun r => if r.id == k then f r else r) }

/-- The request goes to the end of the order in which requests are served. -/
def State.lastWalk (s : State) (k : Nat) : State :=
  { s with walks := s.walks.filter (fun r => r.id != k) ++ s.walks.filter (fun r => r.id == k) }

def State.dropWalk (s : State) (k : Nat) : State := { s with walks := s.walks.filter (fun r => r.id != k) }

/-! ### Fault records (R279 to R285) -/

/-- What an access asks of translation. -/
structure XReq where
  stream : Stream
  buf    : Nat
  tag    : Nat
  part   : Nat
  cls    : Nat
  va     : Nat
  mask   : W32
  write  : Bool
  fetch  : Bool
  deriving DecidableEq, Repr

inductive XRes where
  | leaf (t : Tlb)
  | wait (k : Nat)
  | err
  deriving DecidableEq, Repr

/-- The unit kind and number of a buffer (Table 09.5). -/
def bufUnit (b : Nat) : Nat × Nat := if b ≥ 768 then (3, b - 768) else (b % 3, b / 3)

def State.noteUsed (s : State) : State :=
  (s.setFld Fld.XLT_FAULT_STATUS_USED s.frecs.length).setFldB Fld.XLT_FAULT_STATUS_RING_FULL
    (distance 32 (s.fld Fld.XLT_RING_CONS_CONS) (s.fld Fld.XLT_RING_PROD_PROD) ≥ 2 ^ s.fld Fld.XLT_RING_CTL_SIZE)

/-- Has the team in slot `t` of core `c` stopped after a fault? -/
def State.teamStopped (s : State) (c t : Nat) : Bool := match (s.core c).team t with | some tm => tm.st == .stopping | none => true

/-- Fail a request that waits for a translation: its transfer or channel sees the error (R279), and its group faults at the end of the
event (`State.raiseFailed`). -/
def State.failWalk (s : State) (r : WalkReq) : State :=
  match r.stream with
  | .xfer c k =>
    (s.dropWalk r.id).modCore c (fun q => { q with xfers := q.xfers.map (fun x => if x.id == k then { x with failed := true, bad := BitVec.ofNat 64 r.va } else x) })
  | _ => s.modWalk r.id (fun r => { r with st := .failed })

/-- The number of the lowest lane of a mask. -/
def lowLane (m : W32) : Nat := (lanes32.find? (fun l => m.getLsbD l)).getD 32

/-- The request among some whose lowest lane is lowest. -/
def lowestWalk (r : WalkReq) (l : List WalkReq) : WalkReq :=
  l.foldl (fun (m : WalkReq) x => if lowLane x.mask < lowLane m.mask then x else m) r

/-- The failed requests for which the group in slot `slot` waits: of a team that has stopped they raise nothing. -/
def State.failedOf (s : State) (c slot : Nat) : List WalkReq :=
  match (s.core c).group slot with
  | some g =>
    match g.hold with
    | .xlate l =>
      if s.teamStopped c g.team then []
      else s.walks.filter (fun r => r.st == .failed && r.stream == .group c g.team g.gidx && l.contains r.id)
    | _ => []
  | none => []

/-- What an event has failed together is raised: the groups in ascending order of their slots, each once, with the lanes of its failed
requests and the address of the lowest (R116, R117, R279). -/
def State.raiseFailed (s : State) : State :=
  if s.walks.all (fun r => r.st != .failed) then s
  else
    s.coreNums.foldl (fun t c => (List.range 64).foldl (fun t slot =>
      match s.failedOf c slot with
      | [] => t
      | r :: l =>
        let t := (r :: l).foldl (fun (t : State) x => t.dropWalk x.id) t
        t.raiseFault c slot 0x0A (l.foldl (fun m x => m ||| x.mask) r.mask) (BitVec.ofNat 64 (lowestWalk r l).va)) t) s

/-- A group whose translations have all come is ready again, and its instruction issues again. -/
def State.wakeStream (s : State) (st : Stream) : State :=
  match st with
  | .group c t i =>
    s.modCore c (fun k => k.modGroupOf t i (fun g =>
      match g.hold with
      | .xlate l =>
        if s.walks.any (fun r => l.contains r.id && (match r.st with | .leaf _ => false | _ => true)) then g else { g with hold := .none }
      | _ => g))
  | _ => s

/-- Records that need no entry any more leave the queue (R282). -/
def State.trimRecs (s : State) : State :=
  ({ s with frecs := s.frecs.filter (fun r => r.opn || !r.written) } : State).noteUsed

/-- The command for which a request walks: queue and SEQ. -/
def State.cmdOf (s : State) (w : Stream) : Option (Nat × Nat) :=
  let ofTeam := fun (c t : Nat) => (s.core c).team t |>.map (fun tm => (tm.q, tm.seq))
  match w with
  | .group c t _ => ofTeam c t
  | .xfer c i => match (s.core c).xfers.find? (fun x => x.id == i) with | some x => ofTeam c x.team | none => none
  | .chan n => (SMap.get (fun _ => none) s.chanXf n).map (fun x => (x.team, x.seq))

/-- Make or join the record of a request that has faulted (R280, R281, R285). -/
def State.noteFault (s : State) (r : WalkReq) (kind level : Nat) (ovf : Bool) : State :=
  let fails := kind ≥ 3
  match s.frecs.find? (fun f => f.opn && f.kind == kind && f.tag == r.tag && samePage f.va r.va && f.write == r.write) with
  | some f =>
    let s := { s with frecs := s.frecs.map (fun (x : FRec) => if x.seq == f.seq then { x with joined := min (x.joined + 1) 65535 } else x) }
    s.modWalk r.id (fun w => { w with st := .stalled f.seq, faulted := true })
  | none =>
    if s.frecs.length ≥ 4096 then
      let s := (s.setFldB Fld.XLT_FAULT_STATUS_OVERFLOW true).bump Fld.XLT_STALL_CNT_COUNT 1
      (s.modWalk r.id (fun w => { w with st := .queueWait kind level, faulted := true })).lastWalk r.id
    else
      let (uk, u) := bufUnit r.buf
      let f : FRec := ⟨s.fseq.toNat, r.va, kind, level, r.tag, r.write, r.fetch, fails, ovf, uk, u, r.part, r.cls, 0, s.aon.newel,
        !fails, false⟩
      let s : State := { s with frecs := s.frecs ++ [f], fseq := s.fseq + 1 }
      let s := (s.bump Fld.XLT_FAULT_CNT_COUNT 1).noteUsed
      let s := match s.cmdOf r.stream with | some m => s.voidCmds 9 (fun q n => q == m.1 && n == m.2) | none => s
      let s := s.modWalk r.id (fun w => { w with st := .stalled f.seq, faulted := true })
      if fails then s.failWalk r else s

/-- Requests that wait for an entry take the free ones in the order of their faults, in which they stand (R285). -/
def State.serveFaultWaits (s : State) : State :=
  (s.walks.foldl (fun t r =>
    match r.st with
    | .queueWait kind level => if t.frecs.length < 4096 then t.noteFault r kind level true else t
    | _ => t) s).raiseFailed

/-- A request walks (R283). -/
def WalkReq.again (r : WalkReq) : WalkReq := { r with st := .walking, started := false, only := false }

/-! ### Translating an access -/

/-- A new request that missed or faults. -/
def State.newMiss (s : State) (q : XReq) : State × WalkReq :=
  let r : WalkReq := ⟨s.nextWalk, q.stream, q.buf, q.tag, q.part, q.va, q.mask, q.write, q.fetch, q.cls, .walking, false, false, false⟩
  ({ s with walks := s.walks ++ [r], nextWalk := s.nextWalk + 1 }, r)

/-- Translate an access: its leaf, the number of the request that it waits for, or an error response (R267, R276 to R280). Tag
zero names no table: its addresses are device physical addresses (R268). -/
def State.xlate (s : State) (q : XReq) : State × XRes :=
  if q.va ≥ 2 ^ 48 && q.tag ≠ 0 then (s, .err)
  else if q.tag = 0 then (s, .leaf ⟨0, 0, 2 ^ 56, 0, true, .wb, true⟩)
  else
    match s.walks.find? (fun r => r.stream == q.stream && r.tag == q.tag && samePage r.va q.va && r.write == q.write && r.fetch == q.fetch) with
    | some r =>
      match r.st with
      | .leaf t => (s, .leaf t)
      | .failed => (s.dropWalk r.id, .err)
      | _ => (s.modWalk r.id (fun w => { w with mask := w.mask ||| q.mask }), .wait r.id)
    | none =>
      match s.tlbLook q.buf q.tag q.va with
      | (s, some t) =>
        if q.write && !t.w then
          let s := s.dropTlb (fun x => x.maps q.tag q.va)
          let (s, r) := s.newMiss q
          (s.noteFault r 2 (leafLevel t.size) false, .wait r.id)
        else (s, .leaf t)
      | (s, none) =>
        let (s, r) := s.newMiss q
        (s.startWalks, .wait r.id)

/-- The translations that a stream used once have served it. -/
def State.dropLeaves (s : State) (st : Stream) : State :=
  if s.walks.isEmpty then s
  else { s with walks := s.walks.filter (fun r => !(r.stream == st && (match r.st with | .leaf _ => true | _ => false))) }

/-- Free a team of a core (R117, R122), with the translations that its groups waited for. -/
def State.freeTeamAt (s : State) (c t : Nat) : State :=
  let s := s.modCore c (fun k => k.freeTeam t)
  if s.walks.isEmpty then s
  else
    { s with walks := s.walks.filter (fun r =>
        match r.stream with
        | .group c' t' _ => !(c' == c && t' == t)
        | .xfer c' i => c' != c || (s.core c).xfers.any (fun x => x.id == i)
        | .chan _ => true) }

/-- The device physical address that a leaf gives. -/
def Tlb.paOf (t : Tlb) (va : Nat) : Nat := t.pa + (va - t.va)

/-- The outcome of a walk for one request. -/
def State.walkEnd (s : State) (r : WalkReq) (res : WalkRes) : State :=
  match res with
  | .wait => s
  | .fault kind level => s.noteFault r kind level false
  | .leaf t =>
    if r.write && !t.w then (s.dropTlb (fun x => x.maps r.tag r.va)).noteFault r 2 (leafLevel t.size) false
    else
      let s := if r.only then s else s.install r.buf t
      (s.modWalk r.id (fun r => { r with st := .leaf t })).wakeStream r.stream

/-- The walk of request `k` ends, for it and for those that share it (R273, R277). -/
def State.runWalk (s : State) (k : Nat) : State :=
  match s.walks.find? (fun r => r.id == k && r.st == .walking && r.started) with
  | none => s
  | some r =>
    match s.walk r.tag r.va with
    | (s, .wait) => s
    | (s, res) =>
      let all := s.walks.filter (fun x => x.id == k || (x.st == .walking && x.started && x.shares r))
      (all.foldl (fun t x => t.walkEnd x res) s).raiseFailed.startWalks

/-- A request that has faulted reaches its fault-stall limit (R284). -/
def State.stallLimit (s : State) (k : Nat) : State :=
  match s.walks.find? (fun r => r.id == k && r.faulted && (match r.st with | .leaf _ => false | .failed => false | _ => true)) with
  | none => s
  | some r =>
    let s := (s.bump Fld.XLT_LIMIT_FAIL_CNT_COUNT 1).failWalk r
    let s :=
      match r.st with
      | .stalled q =>
        if s.walks.any (fun (x : WalkReq) => x.id != k && x.st == WalkSt.stalled q) then s
        else ({ s with frecs := s.frecs.map (fun (f : FRec) => if f.seq == q then { f with opn := false } else f) } : State).trimRecs.serveFaultWaits
      | _ => s
    s.raiseFailed.startWalks

/-! ### Replies (R283) -/

/-- Close an open record: its requests walk again, or fail. -/
def State.closeRec (s : State) (seq : Nat) (retry : Bool) : State :=
  let l := s.walks.filter (fun r => r.st == .stalled seq)
  let s := { s with frecs := s.frecs.map (fun (f : FRec) => if f.seq == seq then { f with opn := false } else f) }
  let s := l.foldl (fun t r => if retry then (t.modWalk r.id WalkReq.again).lastWalk r.id else t.failWalk r) s
  s.trimRecs.serveFaultWaits.startWalks

def State.stale (s : State) : State := s.bump Fld.XLT_STALE_RESP_CNT_COUNT 1

/-- The effect of a write of XLT_FAULT_RESP. -/
def State.faultResp (s : State) (action tag seq : Nat) : State :=
  if action = 3 then
    let l := s.frecs.filter (fun f => f.opn && f.tag == tag)
    if l.isEmpty then s.stale else l.foldl (fun t f => t.closeRec f.seq true) s
  else if s.frecs.any (fun f => f.opn && f.seq == seq) then s.closeRec seq (action = 1)
  else s.stale

end Sys2Proof.Machine
end

