-- ==== Sys2Proof/Machine/Issue.lean ====
section
/-! DEFINITION. Issuing a core instruction (R92, R165, R104, R116): readiness of the group, the instruction cache, the checks
that every instruction makes, advancing the path, parking and the yield. -/
namespace Sys2Proof.Machine

/-! ### Readiness (R92) -/

/-- Is a buffered store still in the core? -/
def Core.buffers (k : Core) (i : Nat) : Bool := k.sq.any (fun e => e.id == i) || k.mb.any (fun e => e.id == i)

/-- Is a request still outstanding? -/
def Core.asks (k : Core) (i : Nat) : Bool := k.reqs.any (fun r => r.id == i)

/-- Is any store or request of a list still pending? -/
def Core.pendingAny (k : Core) (l : List Nat) : Bool := l.any (fun i => k.buffers i || k.asks i)

/-- The x registers that an outstanding request will write. -/
def MemReq.runs (r : MemReq) : List (Nat × Nat) :=
  match r.kind with
  | .mld w d _ _ _ =>
    (rDst w, 4) :: ((if rC w = 255 then [] else [(rC w, 3)]) ++
      (if encMod w 19 12 = 255 then [] else [(encMod w 19 12, escLen (at' d 0 1))]))
  | _ => if r.cnt = 0 then [] else [(r.dst, r.cnt)]

/-- Does an earlier instruction of the group have a pending write to a register that this one names (R92)? -/
def Core.pendingWrite (k : Core) (g : Group) (runs : List (Nat × Nat)) : Bool :=
  k.reqs.any (fun r => r.team == g.team && r.gidx == g.gidx &&
    r.runs.any (fun a => runs.any (fun b => runsMeet a.1 a.2 b.1 b.2)))

/-- An instruction at issue: core, group slot, words, the core, the group and its team before it. -/
structure Iss where
  c    : Nat
  slot : Nat
  w    : Enc
  k    : Core
  g    : Group
  tm   : Team
  deriving DecidableEq, Repr

/-- The x runs that the words name: none where their opcode byte is reserved (R92, R152). -/
def namedRuns (o : Op) (i : Issue) : List (Nat × Nat) := if opOf i.opc = some o then xNamed o i.w else []

/-- Does the group wait for nothing, or for buffered stores and requests that are gone? -/
def Core.unheld (k : Core) (g : Group) : Bool :=
  match g.hold with
  | .none => true
  | .after l => !(k.pendingAny l)
  | _ => false

/-- The group as it issues, where it is ready: its team runs on an active core, it waits for nothing, no yield is due, and
no earlier instruction has a pending write to a register that this one names (R92, R98); and the words spell the operation. -/
def State.ready (s : State) (o : Op) (i : Issue) : Option Iss :=
  let k := s.core i.core
  match k.group i.grp with
  | none => none
  | some g =>
    match k.team g.team with
    | none => none
    | some tm =>
      if (k.sleep = .active || k.sleep = .idle) && tm.st = .running && k.unheld g && g.bb < 64 && g.act ≠ 0 && spells i o &&
          !(k.pendingWrite g (namedRuns o i))
      then some ⟨i.core, i.grp, i.w, k, s.spillIn i.core i.grp { g with hold := .none }, tm⟩
      else none

/-- Has the instruction waited for what a release waits for, or for room, since it first issued (R173, R180)? -/
def Iss.waited (x : Iss) : Bool :=
  match x.k.group x.slot with
  | some g => (match g.hold with | .after _ => true | _ => false)
  | none => false

/-! ### Ends of an instruction -/

/-- The stream of a group at its own engines (R277). -/
def Iss.stream (x : Iss) : Stream := .group x.c x.g.team x.g.gidx

/-- A Memory fault that an answer brings to the group with index `i` of team `t`: raised on it, or, while the team is preempted, kept in
the frame's team state for its resume (R121). -/
def State.lateFault (s : State) (c t i : Nat) (pc : W64) (mask : W32) (addr : W64) : State :=
  if ((s.core c).groupsOf t).any (fun e => e.2.gidx == i) then s.faultGroup c t i 0x0A pc mask addr
  else match (s.core c).team t with
    | some tm =>
      if tm.err || !tm.away then s
      else (s.modCore c (fun k =>
        k.setTeam t (some { tm with err := true, errMask := mask, errAddr := addr, errPc := pc, errG := i }))).writeTeam c t
    | none => s

/-- Put a group's paths back, counting spills and fills (R95). A fill that consumes poison gives the group a Memory fault (Table 03.5,
R221; DEDUCED, log entry 106). -/
def State.putPath (s : State) (c slot : Nat) (r : PathRes) : State :=
  let s' := s.modCore c (fun k => k.setGroup slot (some r.g))
  if r.n = 0 then s'
  else
    let bad := match (s.core c).group slot with
      | some g => (s.spillPoison c slot r.low g.spilled).map (fun a => (g, a))
      | none => none
    let s' := (s'.bump (Fld.CORE_SPILL_CNT_COUNT c) r.n).writeSpill c slot r.low r.g.stack
    match bad with
    | some (g, a) => s'.raiseFaultAt c slot 0x0A g.pc g.act (BitVec.ofNat 64 (s.paOf a))
    | none => s'

/-- The instruction has executed, with `g` the group at its own address: the path runs on to the next instruction (R97). -/
def State.retire (s : State) (x : Iss) (g : Group) : State :=
  (s.putPath x.c x.slot (g.goto (nextPc x.w g))).dropLeaves x.stream

/-- The path parks at the instruction's own address: a yield (R98, R100). -/
def State.park (s : State) (x : Iss) : State :=
  (s.bump (Fld.CORE_YIELD_CNT_COUNT x.c) 1).putPath x.c x.slot (x.g.yieldAt x.g.pc)

/-- A fault of the instruction (R115, R116). -/
def State.faultOf (s : State) (x : Iss) (code : Nat) (mask : W32) (addr : W64) : State :=
  s.raiseFault x.c x.slot code mask addr

/-- Does the instruction name a register beyond the thread's allocation (R104)? -/
def Iss.rangeBad (x : Iss) (runs : List (Nat × Nat)) : Bool := runs.any (beyond x.tm.r)

/-! ### Holding and outcomes of a fetch -/

/-- Outcome of a fetch: the words are there; not yet; or a Memory fault. -/
inductive FRes where
  | hit
  | wait
  | bad
  /-- The line lies in Normal-WTM memory, and the context has no privilege (R170, R273). -/
  | priv
  deriving DecidableEq, Repr

/-- The group waits for translations, and its instruction issues again after them. -/
def State.holdFor (s : State) (x : Iss) (ids : List Nat) : State :=
  s.modCore x.c (fun k => k.setGroup x.slot ((k.group x.slot).map (fun g => { g with hold := .xlate ids })))

/-! ### Reads that an instruction makes before it has effect -/

inductive NowRes where
  | bytes (l : List Byte)
  | wait
  | fault (code : Nat) (addr : W64)
  deriving DecidableEq, Repr

/-- What the group keeps of the instruction at which it stands. -/
def Core.keptOf (k : Core) (g : Group) : Option Kept := k.kept.find? (fun e => e.team == g.team && e.gidx == g.gidx)

/-- The instruction waits in the middle of its work, and keeps the FMT_GUARD_CTL of its issue (R75). -/
def State.keep (s : State) (x : Iss) : State :=
  match (s.core x.c).keptOf x.g with
  | some _ => s
  | none =>
    let w := s.reg (Reg.FMT_GUARD_CTL x.c)
    s.modCore x.c (fun k => { k with kept := k.kept ++ [⟨k.nextId, x.g.team, x.g.gidx, w, []⟩], nextId := k.nextId + 1 })

/-- The instruction is over: what the group kept for it goes. -/
def Core.dropKept (k : Core) (t i : Nat) : Core := { k with kept := k.kept.filter (fun e => !(e.team == t && e.gidx == i)) }

def State.dropKept (s : State) (x : Iss) : State := s.modCore x.c (fun k => k.dropKept x.g.team x.g.gidx)

/-- Bytes that an instruction has read stay with it, so that no access is made twice. -/
def State.keepRead (s : State) (x : Iss) (va : Nat) (b : List Byte) : State :=
  (s.keep x).modCore x.c (fun k => { k with kept := k.kept.map (fun e =>
    if e.team == x.g.team && e.gidx == x.g.gidx then { e with reads := e.reads ++ [(va, b)] } else e) })

/-- The bytes that an earlier turn of the instruction read at `va`. -/
def State.keptRead (s : State) (x : Iss) (va n : Nat) : Option (List Byte) :=
  match (s.core x.c).keptOf x.g with
  | some e => (e.reads.find? (fun r => r.1 == va && r.2.length == n)).map (·.2)
  | none => none

/-- Read up to 64 bytes at a target that the L2 does not reach: through a window, or of the host over CXL.io (R293, R508). -/
def State.farRead (s : State) (x : Iss) (tg : Tgt) (va n : Nat) : State × NowRes :=
  match s.keptRead x va n with
  | some b => (s, .bytes b)
  | none =>
    let s := s.keep x
    let me : IoWho := .kept x.c (((s.core x.c).keptOf x.g).elim 0 (·.id))
    let r := match tg with
      | .window c w o => s.winRead me c w o n
      | .host a => s.ioRead me a n
      | _ => (s, some none)
    match r with
    | (s, none) => (s, .wait)
    | (s, some (some (b, false))) => (s.keepRead x va b, .bytes b)
    | (s, some _) => (s, .fault 0x0A (BitVec.ofNat 64 va))

/-! ### Instruction fetch (R147, R199 to R201, R276) -/

/-- Is a miss of another group's outstanding, or of this group's for another line, so that this one waits (R199)? A group that has
left its core waits for its line no longer. -/
def Core.missBusy (k : Core) (g : Group) : Bool :=
  match k.imiss with
  | some (t, i) => !(t == g.team && i == g.gidx) && k.groupList.any (fun e => e.2.team == t && e.2.gidx == i)
  | none => false

def State.setMiss (s : State) (c : Nat) (m : Option (Nat × Nat)) : State := s.modCore c (fun k => { k with imiss := m })

/-- Read the 128 bytes of an instruction line at their target, as a Normal-WB load. -/
def State.readLine (s : State) (x : Iss) (va : Nat) (tg : Tgt) : State × NowRes :=
  match s.tgtPa tg with
  | some pa =>
    match s.readAll x.tm.part pa 128 (some 1) with
    | (s, none) => (s, .wait)
    | (s, some (b, poison)) => (s, if poison then .fault 0x0A (BitVec.ofNat 64 va) else .bytes b)
  | none =>
    match s.farRead x tg va 64 with
    | (s, .bytes b) =>
      match s.farRead x (tg.plus 64) (va + 64) 64 with
      | (s, .bytes d) => (s.dropKept x, .bytes (b ++ d))
      | r => r
    | r => r

/-- Fetch the 128-byte instruction line at virtual address `va`: from the instruction cache, else through the translation buffer
and the L2. What the words are comes with the command (log entry 13). -/
def State.fetchLine (s : State) (x : Iss) (va : Nat) : State × FRes :=
  let line := va / 128
  let fill := fun (t : State) => t.modCore x.c (fun k => { k with ic := nruTouch k.ic [0, 1, 2, 3] x.tm.tag line false })
  if (nruFind (s.core x.c).ic (line % 128) [0, 1, 2, 3] x.tm.tag line).isSome then (fill s, .hit)
  else if (s.core x.c).missBusy x.g then (s, .wait)
  else
    let s := s.setMiss x.c (some (x.g.team, x.g.gidx))
    match s.xlate ⟨x.stream, fetchBuf x.c, x.tm.tag, x.tm.part, x.tm.cls, va, x.g.act, false, true⟩ with
    | (s, .wait k) => (s.holdFor x [k], .wait)
    | (s, .err) => (s.setMiss x.c none, .bad)
    | (s, .leaf t) =>
      if t.ty = .device then (s.setMiss x.c none, .bad)
      else if t.ty = .wtm && !x.tm.priv then (s.setMiss x.c none, .priv)
      else
        match s.readLine x (va / 128 * 128) (s.target (t.paOf (va / 128 * 128))) with
        | (s, .wait) => (s, .wait)
        | (s, .fault _ _) => (s.setMiss x.c none, .bad)
        | (s, .bytes _) => (fill (s.setMiss x.c none), .hit)

/-- Fetch the words of an instruction, which may cross from one line into the next. -/
def State.fetchWords (s : State) (x : Iss) : State × FRes :=
  let a := x.g.pc.toNat
  let b := a + encLen x.w - 1
  match s.fetchLine x a with
  | (s, .hit) => if b / 128 = a / 128 then (s, .hit) else s.fetchLine x b
  | r => r

/-- The core is Active, and the first instruction of a command's kernel to issue on it is dated (R463, Table 11.7). -/
def Core.issues (k : Core) (tm : Team) (now : W64) : Core :=
  { k with
    sleep := .active
    began := if k.began.any (fun b => b.1 == tm.q && b.2.1 == tm.seq) then k.began else k.began ++ [(tm.q, tm.seq, now)] }

/-- Issue an instruction whose only early check is its encoding (R165). -/
def State.issueRaw (s : State) (o : Op) (i : Issue) (f : Iss → State → State) : State :=
  s.whenRuns (fun s =>
    match s.ready o i with
    | none => s
    | some x =>
      match (s.modCore i.core (fun k => k.issues x.tm s.aon.newel)).fetchWords x with
      | (s, .wait) => s
      | (s, .bad) => s.faultOf x 0x0A x.g.act x.g.pc
      | (s, .priv) => s.faultOf x 9 x.g.act 0
      | (s, .hit) =>
        if opOf i.opc = some o && legal o x.w then f x (s.event 0 i.core 1) else s.faultOf x 1 x.g.act 0)

/-- Issue an instruction that also shall name no register beyond its allocation (R104, R116). -/
def State.issue (s : State) (o : Op) (i : Issue) (f : Iss → State → State) : State :=
  s.issueRaw o i (fun x s => if x.rangeBad (xNamed o x.w) then s.faultOf x 4 x.g.act 0 else f x s)

/-- An operation on the lanes that take part, each written from the operands before the instruction; a uniform operation
writes its u register once (R151, R154). -/
def State.laneOp (s : State) (o : Op) (i : Issue) (f : Iss → W32 → W32 → W32 → W32) : State :=
  s.issue o i (fun x s =>
    s.retire x
      (if mayU o && isU x.w then x.g.setU (rDst x.w) (f x (uSrcA x.w x.g) (uSrcB x.w x.g) 0)
       else x.g.writeLanes (takers x.w x.g) (rDst x.w)
        (fun l => f x (srcA x.w x.g l) (srcB x.w x.g l) (srcC x.w x.g l))))

/-- An operation that writes a predicate in the lanes that take part. -/
def State.predOp (s : State) (o : Op) (i : Issue) (f : Iss → W32 → W32 → Bool) : State :=
  s.issue o i (fun x s =>
    s.retire x (x.g.writePreds (takers x.w x.g) (rDst x.w) (fun l => f x (srcA x.w x.g l) (srcB x.w x.g l))))

end Sys2Proof.Machine
end

