-- ==== Sys2Proof/Machine/FloatOps.lean ====
section
/-! DEFINITION. The float instructions, CVT (Table 05.2, R155, R157). -/
namespace Sys2Proof.Machine

/-- Negate a value when the bit of NEG says so (Table 05.4). -/
def negIf (b : Bool) (v : FVal) : FVal := if b then v.flip else v

/-- FP32 operands with NEG. -/
def fA (w : Enc) (v : W32) : FVal := negIf (encMod w 7 7 = 1) (f32 v)
def fB (w : Enc) (v : W32) : FVal := negIf (encMod w 6 6 = 1) (f32 v)
def fC (w : Enc) (v : W32) : FVal := negIf (encMod w 5 5 = 1) (f32 v)

def w32f (v : FVal) : W32 := BitVec.ofNat 32 (fp32.round v)

/-- ADDF: A + B in FP32. -/
def execAddf (i : Issue) (s : State) : Out :=
  .next (s.laneOp .addf i (fun x a b _ => w32f ((fA x.w a).add (fB x.w b))))

/-- MULF: A × B. -/
def execMulf (i : Issue) (s : State) : Out :=
  .next (s.laneOp .mulf i (fun x a b _ => w32f ((fA x.w a).mul (fB x.w b))))

/-- FMAF: A × B + C, rounded once. -/
def execFmaf (i : Issue) (s : State) : Out :=
  .next (s.laneOp .fmaf i (fun x a b c => w32f (FVal.fma (fA x.w a) (fB x.w b) (fC x.w c))))

/-- MINF (R155). -/
def execMinf (i : Issue) (s : State) : Out :=
  .next (s.laneOp .minf i (fun x a b _ => w32f ((fA x.w a).minf (fB x.w b))))

/-- MAXF (R155). -/
def execMaxf (i : Issue) (s : State) : Out :=
  .next (s.laneOp .maxf i (fun x a b _ => w32f ((fA x.w a).maxf (fB x.w b))))

/-- TESTF: p(DST) := A CMP B (R155). -/
def execTestf (i : Issue) (s : State) : Out :=
  .next (s.predOp .testf i (fun x a b => cmpF (encMod x.w 11 8) (fA x.w a) (fB x.w b)))

/-- Apply an operation to each half of packed words, in FP16 or BF16 by FUNC (R155). -/
def packed (w : Enc) (f : FVal → FVal → FVal → FVal) (a b c : W32) : W32 :=
  let fm := if encMod w 14 12 = 0 then fp16 else bf16
  let half := fun (h : Nat) =>
    fm.round (f (negIf (encMod w 7 7 = 1) (fm.decode (bits a.toNat (h + 15) h)))
      (negIf (encMod w 6 6 = 1) (fm.decode (bits b.toNat (h + 15) h)))
      (negIf (encMod w 5 5 = 1) (fm.decode (bits c.toNat (h + 15) h))))
  BitVec.ofNat 32 (half 0 + half 16 * 0x10000)

/-- FMAP: packed 16-bit A × B + C in each half, rounded once. -/
def execFmap (i : Issue) (s : State) : Out := .next (s.laneOp .fmap i (fun x => packed x.w FVal.fma))

/-- ADDP: packed 16-bit A + B. -/
def execAddp (i : Issue) (s : State) : Out := .next (s.laneOp .addp i (fun x => packed x.w (fun a b _ => a.add b)))

/-- MULP: packed 16-bit A × B. -/
def execMulp (i : Issue) (s : State) : Out := .next (s.laneOp .mulp i (fun x => packed x.w (fun a b _ => a.mul b)))

/-! ### SPF (R155) -/

/-- The unit in the last place of FP32 at a value of magnitude `m`. -/
def ulp32 (m : Rat) : Rat := if m ≤ 0 then pow2 (-149) else pow2 (max (ratLog2 m) (-126) - 23)

/-- The finite value of a code, where it has one. -/
def fin32 (c : W32) : Option Rat := match f32 c with | .fin _ v => some v | _ => none

/-- A free value where it keeps the bound, else the value given: every result that the bound admits may arise, and no other. -/
def pickOk (ok : W32 → Bool) (dflt free : W32) : W32 := if ok free then free else dflt

def absQ (x : Rat) : Rat := if x < 0 then -x else x

/-- A value that lies from `lo` to `hi`, to within two units in the last place. -/
def near2 (lo hi : Rat) (c : W32) : Bool :=
  match fin32 c with
  | some v => lo - 2 * ulp32 (absQ lo) ≤ v && v ≤ hi + 2 * ulp32 (absQ hi)
  | none => false

/-- Fixed-point numbers with 128 bits of fraction. -/
def fixOne : Nat := 2 ^ 128

/-- `2^f` in fixed point, for a fraction of 64 bits, by its bits from the highest: `r` is the root of 2 of the bit. -/
def exp2Fix : Nat → Nat → Nat → Nat → Nat
  | 0, _, _, acc => acc
  | n + 1, f, r, acc =>
    let r := Nat.sqrt (r * fixOne)
    exp2Fix n f r (if f.testBit n then acc * r / fixOne else acc)

/-- Bounds of `2^x`. A fraction below 2^-64 of the exponent and the rounding of the roots lie within the width. -/
def exp2Bounds (x : Rat) : Rat × Rat :=
  let n := x.floor
  let f := ((x - (n : Rat)) * pow2 64).floor.toNat
  let y : Rat := ((exp2Fix 64 f (2 * fixOne) fixOne : Nat) : Rat) * pow2 (n - 128)
  (y * (1 - pow2 (-60)), y * (1 + pow2 (-60)))

/-- The first `n` bits of the fraction of `log2 y`, of `y` from 1 to 2 in fixed point, by squaring. -/
def log2Fix : Nat → Nat → Nat → Nat
  | 0, _, acc => acc
  | n + 1, y, acc =>
    let q := y * y / fixOne
    if q ≥ 2 * fixOne then log2Fix n (q / 2) (2 * acc + 1) else log2Fix n q (2 * acc)

/-- Bounds of `log2 m` of a positive `m`. -/
def log2Bounds (m : Rat) : Rat × Rat :=
  let e := ratLog2 m
  let y := (m * pow2 (128 - e)).floor.toNat
  let f : Rat := ((log2Fix 56 y 0 : Nat) : Rat) * pow2 (-56)
  let l : Rat := (e : Rat) + f
  if f = 0 && y = fixOne then (l, l) else (l - pow2 (-70), l + pow2 (-56) + pow2 (-70))

/-- 2π as a number of FP64. -/
def twoPi64 : Rat := (0x1921FB54442D18 : Rat) * pow2 (-50)

/-- The terms of a sine or cosine series from term `t` (fixed point) of degree `k`, added with alternating signs. -/
def trigSum (x2 : Int) : Nat → Int → Int → Int
  | 0, _, _ => 0
  | n + 1, t, k => t - trigSum x2 n (t * x2 / ((fixOne : Int) * ((k + 1) * (k + 2)))) (k + 2)

/-- The sine, or the cosine, of the remainder of a value modulo the 2π of FP64, to within 2^-60. That remainder is exact in FP64
(DEDUCED, log entry 9). -/
def trigOf (cos : Bool) (x : Rat) : Rat :=
  let r := ((x - ((x / twoPi64).floor : Rat) * twoPi64) * pow2 128).floor
  let x2 := r * r / (fixOne : Int)
  ((if cos then trigSum x2 32 (fixOne : Int) 0 else trigSum x2 32 r 1 : Int) : Rat) * pow2 (-128)

/-- An absolute error of at most 2^-21 of the sine or cosine of the reduced argument (R155). -/
def trigOk (cos : Bool) (x : Rat) (c : W32) : Bool :=
  match fin32 c with
  | some v => absQ (v - trigOf cos x) ≤ pow2 (-21) + pow2 (-60)
  | none => false

/-- The square root of `1 / v`, rounded down to 200 bits below the point. -/
def rsqrtLow (v : Rat) : Rat := ((Nat.sqrt ((pow2 400 / v).floor.toNat) : Nat) : Rat) * pow2 (-200)

/-- SPF of one lane: a result within 2 units in the last place of the exact value, of sine and cosine within 2^-21 of it, as a free
value chooses; a NaN gives the one NaN (R155). Where there is no exact value (a reciprocal or logarithm of zero, a root or logarithm
of a negative number, an infinity) the manual states no result, and it is free, with one code for a NaN (log entry 9). -/
def spfFn (func : Nat) (a : FVal) (raw : W32) : W32 :=
  let free := let c := Config.spf func raw; if (f32 c).isNan then 0x7FC00000#32 else c
  let within := fun (b : Rat × Rat) => pickOk (near2 b.1 b.2) (w32f (.fin (b.1 < 0) b.1)) free
  match func, a with
  | _, .nan _ => 0x7FC00000#32
  | 0, .fin _ v => if v = 0 then free else within (1 / v, 1 / v)
  | 1, .fin _ v => if v ≤ 0 then free else within (rsqrtLow v, rsqrtLow v + pow2 (-190))
  | 2, .fin _ v => within (if v > 256 then (pow2 256, pow2 256) else if v < -256 then (0, pow2 (-256)) else exp2Bounds v)
  | 3, .fin _ v => if v ≤ 0 then free else within (log2Bounds v)
  | 4, .fin _ v => pickOk (trigOk false v) (w32f (.fin (trigOf false v < 0) (trigOf false v))) free
  | 5, .fin _ v => pickOk (trigOk true v) (w32f (.fin (trigOf true v < 0) (trigOf true v))) free
  | _, _ => free

/-- SPF: a special function of A under FUNC. -/
def execSpf (i : Issue) (s : State) : Out :=
  .next (s.laneOp .spf i (fun x a _ _ => spfFn (encMod x.w 14 12) (fA x.w a) a))

/-! ### CVT (R157) -/

/-- Is a format code enabled for a partition (R41, key 0x0307)? -/
def State.fmtEnabled (s : State) (p code : Nat) : Bool := (s.snat 0x0307 p).testBit code

/-- One element conversion of CVT: slot PS of A, as format FS, into format FD. -/
def cvtLane (w : Enc) (rnd : Rnd) (d : Nat → Nat) (k : Nat) (a : W32) : EncRes :=
  let fs := encMod w 19 15
  let sw := elemBits fs
  let lo := sw * encMod w 8 7
  match elemOf fs, elemOf (encMod w 14 10) with
  | some e, some f => f.encode rnd d k (e.decode (bits a.toNat (lo + sw - 1) lo))
  | _, _ => encOk 0 k

/-- Convert the lanes that take part, in lane order, each using the next draw. -/
def cvtLanes (w : Enc) (rnd : Rnd) (d : Nat → Nat) (g : Group) : Nat → List Nat → List (Nat × EncRes)
  | _, [] => []
  | k, l :: r =>
    let e := cvtLane w rnd d k (g.xr (rA w) l)
    (l, e) :: cvtLanes w rnd d g e.used r

/-- CVT: single-element conversion (R157). -/
def execCvt (i : Issue) (s : State) : Out :=
  .next (s.issueRaw .cvt i (fun x s =>
    let fs := encMod x.w 19 15
    let fd := encMod x.w 14 10
    if !isPlain fs || !isPlain fd || !s.fmtEnabled x.tm.part fs || !s.fmtEnabled x.tm.part fd then s.faultOf x 2 x.g.act 0
    else if x.rangeBad (xNamed .cvt x.w) then s.faultOf x 4 x.g.act 0
    else
      let tk := takers x.w x.g
      let rnd := s.rndOf x.c (encMod x.w 9 9 = 1)
      let dry := cvtLanes x.w rnd noDraw x.g 0 tk
      let (s, d) := s.takeDraws x.c ((dry.getLast?.map (fun e => e.2.used)).getD 0)
      let out := cvtLanes x.w rnd d x.g 0 tk
      let s := out.foldl (fun t e => t.noteEnc x.c e.2) s
      let dw := elemBits fd
      let lo := dw * encMod x.w 6 5
      s.retire x (out.foldl (fun g e =>
        g.setX (rDst x.w) e.1 (BitVec.ofNat 32 (setBits (x.g.xr (rDst x.w) e.1).toNat (lo + dw - 1) lo e.2.code))) x.g)))

end Sys2Proof.Machine
end

