-- ==== Sys2Proof/Machine/LoadStore.lean ====
section
/-! DEFINITION. Loads, stores and atomics at issue, local memory, and the steps by which an outstanding access of coherent
memory is made (R105 to R110, R159, R160, R167 to R181, R198, R508). -/
namespace Sys2Proof.Machine

/-! ### Atomic operations (R108, R109, R160, AOP of Table 05.4) -/

def aopOf (n : Nat) : AOp :=
  match n with
  | 0 => .add | 1 => .fadd | 2 => .smin | 3 => .smax | 4 => .umin | 5 => .umax | 6 => .and | 7 => .or | 8 => .xor | 9 => .xchg
  | _ => .cas

def AOp.code : AOp → Nat
  | .add => 0 | .fadd => 1 | .smin => 2 | .smax => 3 | .umin => 4 | .umax => 5 | .and => 6 | .or => 7 | .xor => 8 | .xchg => 9
  | .cas => 10

/-- An atomic through a window (Table 13.5): operand in bytes 0 to 7, compare value in bytes 8 to 15. -/
def State.winRmw (s : State) (w : IoWho) (chip win off : Nat) (op : AOp) (w64 : Bool) (b c : Nat) :
    State × Option (Option (List Byte × Bool)) :=
  let a := winAddr chip win off
  s.winAsk w chip a (if w64 then 8 else 4) (fun t =>
    mkMsg 0x42 chip s.chip t a (op.code + if w64 then 16 else 0) (natLe 8 b ++ natLe 8 c ++ List.replicate 48 0))

/-- The value that one operation leaves, at a width of `w` bits: old value, operand B, compare value C. -/
def aopFn (op : AOp) (w old b c : Nat) : Nat :=
  match op with
  | .add => (old + b) % 2 ^ w
  | .fadd => (fadd32 (BitVec.ofNat 32 old) (BitVec.ofNat 32 b)).toNat
  | .smin => if sext w old ≤ sext w b then old else b
  | .smax => if sext w old ≥ sext w b then old else b
  | .umin => min old b
  | .umax => max old b
  | .and => old &&& b
  | .or => old ||| b
  | .xor => old ^^^ b
  | .xchg => b
  | .cas => if old = c then b else old

/-- A tree of FP32 additions over values in lane order, split as a free value says (R109). -/
def treeSum (key : Nat × Nat) (node : Nat) : Nat → List W32 → W32
  | 0, l => l.headD 0
  | n + 1, l =>
    match l with
    | [] => 0
    | [v] => v
    | _ =>
      let k := 1 + Config.treeSplit key.1 key.2 node l.length % (l.length - 1)
      fadd32 (treeSum key (2 * node) n (l.take k)) (treeSum key (2 * node + 1) n (l.drop k))

/-- The operations on one address, given as operands in lane order: what each lane receives, and the value that stays. -/
def combine (op : AOp) (w : Nat) (key : Nat × Nat) (old : Nat) (l : List (Nat × Nat)) : List Nat × Nat :=
  match op with
  | .fadd =>
    let v := l.map (fun x => BitVec.ofNat 32 x.1)
    let plus := fun (n : Nat) =>
      if n = 0 then old else (fadd32 (BitVec.ofNat 32 old) (treeSum key 1 n (v.take n))).toNat
    ((List.range l.length).map plus, plus l.length)
  | _ => l.foldl (fun (r : List Nat × Nat) x => (r.1 ++ [r.2], aopFn op w r.2 x.1 x.2)) ([], old)

/-! ### Local memory (R105 to R107) -/

def zeroByte (_ : Nat) : Byte := 0

def Team.locBytes (t : Team) (a n : Nat) : List Byte := (List.range n).map (fun i => SMap.get zeroByte t.loc (a + i))

def Team.setLoc (t : Team) (a : Nat) (v : List Byte) : Team :=
  { t with loc := v.zipIdx.foldl (fun m b => SMap.set zeroByte m (a + b.2) b.1) t.loc }

/-- Bytes of a team's allocation. -/
def Team.locSize (t : Team) : Nat := 1024 * ceilDiv t.l 1024

/-- The words of consecutive registers as bytes, the first lowest. -/
def Group.runBytes (g : Group) (r n lane : Nat) : List Byte :=
  ((List.range (sizeRegs n)).flatMap (fun i => natLe 4 (g.xr (r + i) lane).toNat)).take n

/-- Write loaded bytes to consecutive registers; fewer than four are extended (R159). -/
def Group.setRunBytes (g : Group) (r lane : Nat) (sx : Bool) (b : List Byte) : Group :=
  if b.length < 4 then
    let v := leNat b
    g.setX r lane (if sx then BitVec.ofInt 32 (sext (8 * b.length) v) else BitVec.ofNat 32 v)
  else (List.range (b.length / 4)).foldl (fun g i => g.setX (r + i) lane (BitVec.ofNat 32 (at' b (4 * i) 4))) g

/-- Lanes as a mask. -/
def maskOf (l : List Nat) : W32 := l.foldl (fun m i => m ||| (1#32 <<< i)) 0

/-- Local addresses of the lanes that take part, checked (R105): the lowest fault code first. -/
def State.locals (s : State) (x : Iss) (size : Nat) (addr : Nat → Nat) (f : List (Nat × Nat) → State) : State :=
  let l := (takers x.w x.g).map (fun i => (i, addr i))
  let out := l.filter (fun a => a.2 + size > x.tm.locSize)
  let odd := l.filter (fun a => a.2 % size != 0)
  if !out.isEmpty then s.faultOf x 5 (maskOf (out.map (·.1))) (BitVec.ofNat 64 (out.headD (0, 0)).2)
  else if !odd.isEmpty then s.faultOf x 6 (maskOf (odd.map (·.1))) (BitVec.ofNat 64 (odd.headD (0, 0)).2)
  else f l

def State.setTeamOf (s : State) (x : Iss) (t : Team) : State := s.modCore x.c (fun k => k.setTeam x.g.team (some t))

/-- The local address of a lane: its register plus OFS16, modulo 2^32 (DESIGN CHOICE, log entry 128). -/
def locAddr (x : Iss) (ofs : Nat) (lane : Nat) : Nat := ((x.g.xr (rA x.w) lane).toNat + ofs) % 2 ^ 32

/-- LDLOC: load from local memory. -/
def execLdloc (i : Issue) (s : State) : Out :=
  .next (s.issue .ldloc i (fun x s =>
    let size := sizeBytes (encMod x.w 19 17)
    s.locals x size (locAddr x (encMod x.w 15 0)) (fun l =>
      s.retire x (l.foldl (fun g a => g.setRunBytes (rDst x.w) a.1 (encMod x.w 16 16 = 1) (x.tm.locBytes a.2 size)) x.g))))

/-- STLOC: store to local memory; the highest lane's bytes remain (R110). -/
def execStloc (i : Issue) (s : State) : Out :=
  .next (s.issue .stloc i (fun x s =>
    let size := sizeBytes (encMod x.w 19 17)
    s.locals x size (locAddr x (encMod x.w 15 0)) (fun l =>
      (s.setTeamOf x (l.foldl (fun t a => t.setLoc a.2 (x.g.runBytes (rB x.w) size a.1)) x.tm)).retire x x.g)))

/-- The distinct addresses of a list of lanes, in lane order. -/
def addrsOf (l : List (Nat × Nat)) : List Nat := l.foldl (fun r a => if r.contains a.2 then r else r ++ [a.2]) []

/-- RMWL: atomic on local memory, combined (R108, R160). -/
def execRmwl (i : Issue) (s : State) : Out :=
  .next (s.issue .rmwl i (fun x s =>
    let w64 := encMod x.w 15 15 = 1
    let n := if w64 then 8 else 4
    let op := aopOf (encMod x.w 19 16)
    s.locals x n (locAddr x 0) (fun l =>
      let (s, key) := s.takeFree
      let r := (addrsOf l).foldl (fun (r : Team × Group × Nat) a =>
        let mine := l.filter (fun b => b.2 == a)
        let ops := mine.map (fun b => (leNat (x.g.runBytes (rB x.w) n b.1), leNat (x.g.runBytes (rC x.w) n b.1)))
        let (got, last) := combine op (8 * n) (key, a) (leNat (r.1.locBytes a n)) ops
        let g := if rDst x.w = 255 then r.2.1
          else (mine.zip got).foldl (fun g m => g.setRunBytes (rDst x.w) m.1.1 false (natLe n m.2)) r.2.1
        (r.1.setLoc a (natLe n last), g, r.2.2 + (mine.length - 1))) (x.tm, x.g, 0)
      let s := if r.2.2 = 0 then s else s.bump (Fld.CORE_COMBINE_CNT_COUNT x.c) r.2.2
      (s.setTeamOf x r.1).retire x r.2.1)))

/-! ### Targets of translated accesses -/

/-- The target of the 64-byte block, and the offset within it. -/
def Tgt.block : Tgt → Tgt
  | .coh c a => .coh c (a / 64 * 64)
  | .host a => .host (a / 64 * 64)
  | .window c w o => .window c w (o / 64 * 64)
  | .reg o => .reg (o / 64 * 64)
  | .err => .err

def Tgt.off : Tgt → Nat
  | .coh _ a => a % 64
  | .host a => a % 64
  | .window _ _ o => o % 64
  | .reg o => o % 64
  | .err => 0

/-- Coherent memory, reached through the L2 (R508). -/
def State.cohTgt (s : State) (t : Tgt) : Bool := (s.tgtPa t).isSome

/-- Bytes of one access to a target: 4-byte parts where nothing larger is single-copy atomic (Table 06.4). -/
def State.pieceOf (s : State) (t : Tgt) (size : Nat) : Nat :=
  if s.cohTgt t then size else match t with | .reg _ => min size 8 | _ => min size 4

/-- Outcome of translating the lanes of an instruction. -/
structure LaneXl where
  lanes : List LaneAcc
  waits : List Nat
  errs  : List (Nat × W64)
  deriving DecidableEq, Repr

/-- Translate each lane's address and find its target. -/
def State.xlateLanes (s : State) (x : Iss) (write : Bool) (size : Nat) (l : List (Nat × W64)) : State × LaneXl :=
  l.foldl (fun (r : State × LaneXl) a =>
    let q : XReq := ⟨x.stream, lsBuf x.c, x.tm.tag, x.tm.part, x.tm.cls, a.2.toNat, maskOf [a.1], write, false⟩
    match r.1.xlate q with
    | (s, .wait k) => (s, { r.2 with waits := r.2.waits ++ [k] })
    | (s, .err) => (s, { r.2 with errs := r.2.errs ++ [a] })
    | (s, .leaf t) =>
      let tg := s.target (t.paOf a.2.toNat)
      if tg = .err then (s, { r.2 with errs := r.2.errs ++ [a] })
      else
        (s, { r.2 with lanes := r.2.lanes ++ [⟨a.1, 0, size, a.2, tg, t.ty, 0, 0⟩] }))
    (s, ⟨[], [], []⟩)

/-- Check and translate the lanes of LD, ST or RMW, then go on with them: Misaligned, Privilege and Memory faults by the
lowest code (R116, R170, R179, R267); a missing translation holds the group (R277). -/
def State.withLanes (s : State) (x : Iss) (write : Bool) (size : Nat) (ua : Bool) (f : List LaneAcc → State → State) : State :=
  let l := (takers x.w x.g).map (fun i => (i, laneAddr x.w ua x.g i))
  let odd := l.filter (fun a => a.2.toNat % size != 0)
  if !odd.isEmpty then s.faultOf x 6 (maskOf (odd.map (·.1))) (odd.headD (0, 0)).2
  else
    let (s, r) := s.xlateLanes x write size l
    let priv := r.lanes.filter (fun a => a.ty == .wtm && !x.tm.priv)
    if !r.waits.isEmpty then s.holdFor x r.waits
    else if !priv.isEmpty then
      s.faultOf x 9 (maskOf (priv.map (·.lane))) 0
    else if !r.errs.isEmpty then s.faultOf x 0x0A (maskOf (r.errs.map (·.1))) (r.errs.headD (0, 0)).2
    else f r.lanes s

/-- Does an acquire of the group still wait for its answer (R174)? -/
def Core.acquiring (k : Core) (g : Group) : Bool := k.reqs.any (fun r => r.acq && r.team == g.team && r.gidx == g.gidx)

/-- Numbers of the group's outstanding Device-Strict accesses (R171). -/
def Core.deviceIds (k : Core) (g : Group) : List Nat :=
  (k.reqs.filter (fun r => r.team == g.team && r.gidx == g.gidx && r.lanes.any (fun a => a.ty == .device))).map (·.id) ++
    (k.sq.filter (fun e => e.team == g.team && e.gidx == g.gidx && e.ty == .device)).map (·.id)

/-- Does a request touch the block that a target lies in? -/
def MemReq.touches (r : MemReq) (t : Tgt) : Bool := r.lanes.any (fun a => a.tgt.block == t.block)

/-- Does an access share a byte with the `n` bytes at a target? -/
def LaneAcc.shares (a : LaneAcc) (t : Tgt) (n : Nat) : Bool := a.tgt.name < t.name + n && t.name < a.tgt.name + a.n

/-- Is a request of the group outstanding that touches any of the `n` bytes at a target (R167)? -/
def Core.reqOn (k : Core) (g : Group) (t : Tgt) (n : Nat) : Bool :=
  k.reqs.any (fun r => r.team == g.team && r.gidx == g.gidx && r.lanes.any (fun a => a.shares t n))

/-- The numbers of the group's outstanding loads and atomics. -/
def Core.reqIds (k : Core) (g : Group) : List Nat := (k.reqs.filter (fun r => r.team == g.team && r.gidx == g.gidx)).map (·.id)

/-! ### What the store queue and the merging buffer supply (R177, R181) -/

/-- The byte that the core's buffered stores hold for a target's byte, with the number of its entry: of every entry that holds it,
open or draining, the newest. The store queue serves every group, and the merging buffer the context (R177, R181). -/
def Core.newest (k : Core) (tag : Nat) (t : Tgt) : Option (Nat × Byte) :=
  let q := k.sq.filterMap (fun e =>
    if e.tgt == t.block then (e.bytes.find? (fun b => b.1 == t.off)).map (fun b => (e.id, b.2)) else none)
  let m := k.mb.filterMap (fun e =>
    if e.tag == tag && e.tgt == t.block then (SMap.get (fun _ => none) e.bytes t.off).map (fun b => (e.id, b)) else none)
  (q ++ m).foldl (fun best b => match best with | some a => if a.1 < b.1 then some b else some a | none => some b) none

/-- That byte, where the entry is no older than `after`: an atomic may stand between. -/
def Core.buffered (k : Core) (tag : Nat) (after : Nat) (t : Tgt) : Option Byte :=
  match k.newest tag t with
  | some e => if e.1 ≥ after then some e.2 else none
  | none => none

/-- Is the request an atomic? -/
def MemReq.isAtomic (r : MemReq) : Bool := match r.kind with | .rmw _ _ _ => true | _ => false

/-- One more than the number of the newest outstanding atomic of the group on the byte at a target; zero: there is none. -/
def Core.lastAtomic (k : Core) (g : Group) (t : Tgt) : Nat :=
  (k.reqs.filter (fun r => r.team == g.team && r.gidx == g.gidx && r.lanes.any (fun a => a.shares t 1) &&
    r.isAtomic)).foldl (fun m r => max m (r.id + 1)) 0

/-- The bytes of an access that buffered stores supply. -/
def Core.forwards (k : Core) (tag : Nat) (g : Group) (a : LaneAcc) : List (Nat × Byte) :=
  (List.range a.n).filterMap (fun i =>
    let t := a.tgt.plus i
    (k.buffered tag (k.lastAtomic g t) t).map (fun b => (t.name, b)))

/-! ### What a release waits for (Table 06.3) -/

/-- Has a group written into the entry? -/
def MergeEnt.writtenBy (e : MergeEnt) (g : Nat × Nat) : Bool := e.grps.any (fun m => m.grp == g)

/-- A window or a CXL.io destination: chip scope does not order stores to it (Table 06.3). -/
def State.farTgt (s : State) (t : Tgt) : Bool :=
  match t with
  | .window _ _ _ => true
  | .host _ => !(s.cohTgt t)
  | _ => false

/-- The numbers of the buffered stores that a release of a scope waits for: all of them are of this core, those of other
groups and, in the merging buffer, of the context included, since what the thread has observed through them is covered as well
(R173, R175, log entry 14). At core scope, where the other stores are seen by every load of the core, the group's Device-Strict
stores are waited for, which no load sees before they are performed. -/
def State.releaseWaits (s : State) (c : Nat) (tag : Nat) (g : Group) (scope : Nat) : List Nat :=
  let k := s.core c
  if scope ≤ 1 then (k.sq.filter (fun e => e.ty == .device && e.team == g.team && e.gidx == g.gidx)).map (·.id)
  else
    (k.sq.filter (fun e => scope = 3 || !(s.farTgt e.tgt))).map (·.id) ++
      (k.mb.filter (fun e => e.tag == tag || e.writtenBy (g.team, g.gidx))).map (·.id)

/-- Everything that a release waits for: the thread's outstanding loads and atomics too (R173, R175). -/
def State.relWaits (s : State) (x : Iss) (scope : Nat) : List Nat :=
  (s.core x.c).reqIds x.g ++ s.releaseWaits x.c x.tm.tag x.g scope

/-- A release of chip or system scope closes the merging-buffer entries that the group wrote into (Table 06.5). -/
def Core.closeWrote (k : Core) (g : Group) : Core :=
  { k with mb := k.mb.map (fun e => if e.writtenBy (g.team, g.gidx) then { e with closed := true } else e) }

def State.closeFor (s : State) (c : Nat) (g : Group) (scope : Nat) : State :=
  if scope ≤ 1 then s else s.modCore c (fun k => k.closeWrote g)

/-- The group waits for buffered stores and requests, and its instruction issues again after them. -/
def State.waitFor (s : State) (x : Iss) (ids : List Nat) : State :=
  s.modCore x.c (fun k => k.setGroup x.slot ((k.group x.slot).map (fun g => { g with hold := .after ids })))

/-- A release, with its scope, does not execute before what it waits for has been performed: until then the group waits at its
address, and its merging-buffer entries close (R173, R177, R190). Without a release the instruction goes on. -/
def State.release (s : State) (x : Iss) (rel : Option Nat) (f : State → State) : State :=
  match rel with
  | none => f s
  | some scope =>
    let l := s.relWaits x scope
    if x.waited || l.isEmpty then f s else (s.closeFor x.c x.g scope).waitFor x l

/-! ### LD -/

/-- Split accesses into the parts that their targets take, each at its own place of the lane's value. -/
def State.pieces (s : State) (l : List LaneAcc) : List LaneAcc :=
  l.flatMap (fun a =>
    let p := s.pieceOf a.tgt a.n
    (List.range (a.n / p)).map (fun i =>
      { a with off := a.off + p * i, n := p, va := a.va + BitVec.ofNat 64 (p * i), tgt := a.tgt.plus (p * i) }))

/-- LD: load from translated memory. The request is outstanding until its LOAD_RESPONSE (R92, R159, R167). -/
def execLd (i : Issue) (s : State) : Out :=
  .next (s.issue .ld i (fun x s =>
    let size := sizeBytes (encMod x.w 19 17)
    if (s.core x.c).acquiring x.g then s
    else
      s.withLanes x false size (uaMem x.w) (fun l s =>
        if l.isEmpty then s.retire x x.g
        else
          let k := s.core x.c
          let l := s.pieces l
          let fwd := (l.filter (fun a => a.ty != .device)).flatMap (k.forwards x.tm.tag x.g)
          let after := if l.any (fun a => a.ty == .device) then k.deviceIds x.g else []
          let r : MemReq := ⟨k.nextId, x.g.team, x.g.gidx, x.g.pc, .ld size (encMod x.w 16 16 = 1), rDst x.w,
            sizeRegs size, encMod x.w 15 15 = 1, after, x.tm.tag, l, fwd, [], []⟩
          let s := s.modCore x.c (fun k => { k with reqs := k.reqs ++ [r], nextId := k.nextId + 1 })
          s.retire x x.g)))

/-! ### ST -/

/-- Bytes of stores to one block of one type, the later lane's remaining (R110). -/
structure BlkStore where
  tgt   : Tgt
  ty    : MType
  bytes : List BlkByte
  va    : W64
  mask  : W32
  deriving DecidableEq, Repr

/-- Put a byte into a list of block bytes. -/
def putBlk (l : List BlkByte) (b : BlkByte) : List BlkByte := l.filter (fun c => c.1 != b.1) ++ [b]

/-- Gather the lanes of a store by block; Device-Strict accesses stay apart, in lane order (R171). -/
def gather (l : List (LaneAcc × List Byte)) : List BlkStore :=
  l.foldl (fun acc a =>
    let bs := a.2.zipIdx.map (fun b => (a.1.tgt.off + b.2, b.1))
    let bit : W32 := 1#32 <<< a.1.lane
    let same := fun (e : BlkStore) => a.1.ty != .device && e.tgt == a.1.tgt.block && e.ty == a.1.ty
    if acc.any same then acc.map (fun e => if same e then { e with bytes := bs.foldl putBlk e.bytes, mask := e.mask ||| bit } else e)
    else acc ++ [⟨a.1.tgt.block, a.1.ty, bs, a.1.va, bit⟩]) []

/-- Put a Normal-WTM block store into the merging buffer (R180): into the open entry of the context, else a new one. -/
def Core.merge (k : Core) (x : Iss) (b : BlkStore) : Core :=
  let me : MergeBy := ⟨x.g.team, x.g.gidx, x.g.pc, b.va, b.mask⟩
  let cmd := (x.tm.q, x.tm.seq)
  let put := fun (m : SMap (Option Byte)) => b.bytes.foldl (fun m v => SMap.set (fun _ => none) m v.1 (some v.2)) m
  let full := fun (e : MergeEnt) => { e with closed := e.closed || e.bytes.length ≥ 64 }
  let add := fun (e : MergeEnt) => full { e with
    bytes := put e.bytes, grps := e.grps.filter (fun m => m.grp != me.grp) ++ [me],
    cmds := if e.cmds.contains cmd then e.cmds else e.cmds ++ [cmd] }
  let isOpen := fun (e : MergeEnt) => e.tag == x.tm.tag && e.tgt == b.tgt && !e.closed
  if k.mb.any isOpen then { k with mb := k.mb.map (fun e => if isOpen e then add e else e) }
  else
    { k with
      mb := k.mb ++ [full ⟨k.nextId, x.tm.tag, x.tm.part, b.tgt, put [], [me], false, false, [cmd]⟩],
      nextId := k.nextId + 1 }

/-- Do the Normal-WTM block stores of an instruction find their entries? Where they do not, they need every free entry and one
more. -/
def Core.mergeRoom (k : Core) (x : Iss) (l : List BlkStore) : Bool :=
  k.mb.length + (l.filter (fun b => !(k.mb.any (fun e => e.tag == x.tm.tag && e.tgt == b.tgt && !e.closed)))).length ≤ 64

/-- A store needs an entry and every one is in use: the oldest open entry closes, and the store waits until it is free, with no
further one closed on its account (R180, Table 06.5). -/
def State.closeOldest (s : State) (x : Iss) : State :=
  match (s.core x.c).mb.find? (fun e => !e.closed) with
  | some o =>
    (s.modCore x.c (fun k => { k with mb := k.mb.map (fun e => if e.id == o.id then { e with closed := true } else e) })).waitFor x [o.id]
  | none => s

/-- Put block stores into the store queue, each Device-Strict one after the earlier Device-Strict accesses (R171, R177). -/
def Core.enqueue (k : Core) (x : Iss) (l : List BlkStore) : Core :=
  l.foldl (fun k b =>
    let after := if b.ty = .device then k.deviceIds x.g else []
    let e : StoreEnt := ⟨k.nextId, x.g.team, x.g.gidx, x.tm.tag, x.tm.part, b.ty, b.tgt, b.bytes, after, false, x.tm.q,
      x.tm.seq, x.g.pc, b.va, b.mask⟩
    { k with sq := k.sq ++ [e], nextId := k.nextId + 1 }) k

/-- Does a block store go to the merging buffer: Normal-WTM, but not through a window, whose stores the store queue takes (R180,
R293)? -/
def BlkStore.merges (b : BlkStore) : Bool := b.ty == .wtm && (match b.tgt with | .window _ _ _ => false | _ => true)

/-- Buffer the stores of an instruction, or let it wait for room (R177, R180). -/
def State.bufferStores (s : State) (x : Iss) (l : List BlkStore) : State :=
  let k := s.core x.c
  let wtm := l.filter (·.merges)
  let rest := l.filter (fun b => !b.merges)
  if k.sq.length + rest.length > 128 then s
  else if !wtm.isEmpty && !(k.mergeRoom x wtm) then s.closeOldest x
  else (s.modCore x.c (fun k => wtm.foldl (fun k b => k.merge x b) (k.enqueue x rest))).retire x x.g

/-- ST: store to translated memory through the store queue or the merging buffer (R159, R173, R177, R180). -/
def execSt (i : Issue) (s : State) : Out :=
  .next (s.issue .st i (fun x s =>
    let size := sizeBytes (encMod x.w 19 17)
    if (s.core x.c).acquiring x.g then s
    else
      s.withLanes x true size (uaMem x.w) (fun l s =>
        let vals := (s.pieces l).map (fun a => (a, ((x.g.runBytes (rB x.w) size a.lane).drop a.off).take a.n))
        let rel := if encMod x.w 15 15 = 1 then some (encMod x.w 14 13) else none
        s.release x rel (fun s => s.bufferStores x (gather vals)))))

/-! ### RMW -/

/-- Buffered stores of the core on the block of an access: an atomic is performed after them, and closes those of the merging
buffer (Table 06.5). -/
def Core.blockIds (k : Core) (t : Tgt) : List Nat :=
  (k.sq.filter (fun e => e.tgt == t.block)).map (·.id) ++ (k.mb.filter (fun e => e.tgt == t.block)).map (·.id)

def Core.closeBlock (k : Core) (t : Tgt) : Core :=
  { k with mb := k.mb.map (fun e => if e.tgt == t.block then { e with closed := true } else e) }

/-- RMW: atomic on translated memory; it is outstanding until its LOAD_RESPONSE (R108, R109, R160, R173, R508). -/
def execRmw (i : Issue) (s : State) : Out :=
  .next (s.issue .rmw i (fun x s =>
    let w64 := encMod x.w 15 15 = 1
    let n := if w64 then 8 else 4
    let aord := encMod x.w 14 13
    let scope := encMod x.w 12 11
    let ret := rDst x.w ≠ 255
    if (s.core x.c).acquiring x.g then s
    else
      s.withLanes x true n (uaRmw x.w) (fun l s =>
        if l.isEmpty then s.retire x x.g
        else
          let l := l.map (fun a =>
            { a with b := leNat (x.g.runBytes (rB x.w) n a.lane), c := leNat (x.g.runBytes (rC x.w) n a.lane) })
          s.release x (if aord ≥ 2 then some scope else none) (fun s =>
            let k := s.core x.c
            let after := l.flatMap (fun a => k.blockIds a.tgt) ++
              (if l.any (fun a => a.ty == .device) then k.deviceIds x.g else [])
            let r : MemReq := ⟨k.nextId, x.g.team, x.g.gidx, x.g.pc, .rmw (aopOf (encMod x.w 19 16)) w64 ret, rDst x.w,
              if ret then sizeRegs n else 0, aord % 2 = 1, after, x.tm.tag, l, [], [], []⟩
            let s := s.modCore x.c (fun k =>
              let k := l.foldl (fun k a => k.closeBlock a.tgt) k
              { k with reqs := k.reqs ++ [r], nextId := k.nextId + 1 })
            s.retire x x.g))))

end Sys2Proof.Machine
end

