-- ==== Sys2Proof/Machine/Sync.lean ====
section
/-! DEFINITION. Branches, EXIT, barriers, fences, waits, special registers and the yield (R95 to R100, R111 to R114, R161 to
R164, R172 to R178), and what ends when a wait or a command has nothing left to wait for. -/
namespace Sys2Proof.Machine

/-! ### Commands that end (R182, R183) -/

/-- The publish clean of R183: every dirty tier-0 Gallery line in the ways of partition `p` goes to the array. -/
def State.publishClean (s : State) (p : Nat) : State :=
  let m := s.fld (Fld.L2C_PART_WAYS_MASK p)
  s.l2.foldl (fun t e =>
    let l := e.2
    let pa := l.line * 128
    let a := pa % 2 ^ 46
    if l.valid && m.testBit (e.1 % 16) && pa / 2 ^ 46 == s.chip && isGallery a then
      let one := fun (t : State) (x : Sector) (b : Nat) => if x.st = .m then t.writeMem b x.data x.poison else t
      (one (one t (l.sec 0) a) (l.sec 64) (a + 64)).setL2 e.1 l.cleaned
    else t) s

/-- Has a transfer of team `t` a write on its way (R178, R182)? -/
def Core.writing (k : Core) (t : Nat) : Bool := k.xfers.any (fun x => x.team == t && x.pend != [])

/-- May a team that has stopped be freed: the buffered stores of its command are drained, its atomics made and its transfers' writes
acknowledged (R117, R182, R186)? -/
def Core.spent (k : Core) (t : Nat) (tm : Team) : Bool :=
  tm.st == .stopping && k.drained tm.q tm.seq && !(k.writing t) &&
    !(k.reqs.any (fun r => r.team == t && r.isAtomic))

/-- Free the stopped teams that have nothing left to drain, but for one whose fault waits to be recorded (R117). -/
def State.reap (s : State) : State :=
  s.coreNums.foldl (fun t c =>
    ((t.core c).teamList).foldl (fun t e =>
      let k := t.core c
      if k.spent e.1 e.2 && !(match k.fault with | some f => f.team == e.1 | none => false) then t.freeTeamAt c e.1 else t) t) s

/-- End every running command that has nothing left to do (R182, R183, R186). -/
def State.sweepCmds (s : State) : State :=
  let s := s.reap
  s.sqs.foldl (fun t e =>
    (t.sq e.1).cmds.foldl (fun t c =>
      let t := if t.kernelOver e.1 c then (if descType c.desc = 1 then t.endCmd e.1 c.seq 0 0 else t.layerOver e.1 c) else t
      match t.cmd e.1 c.seq with
      | some c =>
        if t.cmdOver e.1 c then
          let pub := descFlag c.desc 0 && c.status != 4
          (if pub then t.publishClean (t.sq e.1).part else t).finishCmd e.1 { c with pub := pub }
        else t
      | none => t) t) s

/-! ### Waits of a group -/

/-- The group in slot `g` goes on past the 8-byte instruction at which it waited. -/
def State.goOn (s : State) (c g : Nat) (f : Group → Group) : State :=
  match (s.core c).group g with
  | some gr => s.putPath c g ((f (s.spillIn c g { gr with hold := .none })).goto (gr.pc + 8))
  | none => s

/-- Transfers of a group that are outstanding. -/
def Core.xfersOf (k : Core) (g : Group) : List Xfer := k.xfers.filter (fun x => x.team == g.team && x.gidx == g.gidx)

/-- Transfers that count as outstanding: a failed one waits only for XWAIT to deliver its error (R161). -/
def Core.xferLeft (k : Core) (g : Group) : Nat := ((k.xfersOf g).filter (fun x => !x.failed)).length

/-- The end of an XWAIT: N = 0 delivers the error of a failed transfer as a Memory fault (R161), once that transfer is next in issue
order, whatever later ones are outstanding (R166). -/
def State.xwaitEnd (s : State) (c slot n : Nat) : State :=
  let k := s.core c
  match k.group slot with
  | none => s
  | some g =>
    match (k.xfersOf g).head? with
    | some x =>
      if n = 0 && x.failed then s.raiseFaultAt c slot 0x0A x.pc g.act x.bad
      else if k.xferLeft g > n then s else s.goOn c slot id
    | none => s.goOn c slot id

/-- Wake the groups of a core whose FENCE or XWAIT has nothing left to wait for. -/
def State.wakeCore (s : State) (c : Nat) : State :=
  (s.core c).groupList.foldl (fun t e =>
    match e.2.hold with
    | .fence l st => if (t.core c).pendingAny (l ++ st) then t else t.goOn c e.1 id
    | .xwait n => t.xwaitEnd c e.1 n
    | _ => t) s

/-! ### Barriers (R111 to R113) -/

def noBar (_ : Nat) : Barrier := Barrier.empty

def Team.bar (t : Team) (i : Nat) : Barrier := SMap.get noBar t.bars i
def Team.setBar (t : Team) (i : Nat) (b : Barrier) : Team := { t with bars := SMap.set noBar t.bars i b }

/-- Groups of a team that have live threads. -/
def Core.liveGroups (k : Core) (t : Nat) : List (Nat × Group) := (k.groupsOf t).filter (fun e => e.2.live != 0)

/-- Has the phase of a barrier completed? -/
def Barrier.done (b : Barrier) (live : Nat) : Bool :=
  b.active && b.arrivals.length ≥ (match b.expect with | some n => n | none => live)

/-- Complete the phases of a team that have their arrivals: those that waited in them are ready again. -/
def State.phases (s : State) (c t : Nat) : State :=
  (List.range 16).foldl (fun s i =>
    match (s.core c).team t with
    | none => s
    | some tm =>
      if (tm.bar i).done ((s.core c).liveGroups t).length then
        let s := s.modCore c (fun k => k.setTeam t (some (tm.setBar i Barrier.empty)))
        ((s.core c).groupsOf t).foldl (fun s e => if e.2.hold = .tbr i then s.goOn c e.1 id else s) s
      else s) s

/-- Raise Barrier Deadlock when every live group of the team waits at a barrier, on the one of them that arrived last (R113). -/
def State.deadlock (s : State) (c t : Nat) : State :=
  let k := s.core c
  let l := k.liveGroups t
  let waits := fun (g : Group) => match g.hold with | .tbr _ => true | _ => false
  match k.team t with
  | some tm =>
    if !l.isEmpty && l.all (fun e => waits e.2) then
      match tm.arrs.findSome? (fun i => l.find? (fun e => e.2.gidx == i)) with
      | some e => s.raiseFault c e.1 8 e.2.act 0
      | none => s
    else s
  | none => s

/-- Group `i` arrives at barrier `n`, whose phase then expects `want`. A group that has arrived in the phase before adds nothing to its
arrivals, which are a number of groups (DEDUCED, log entry 104). -/
def Team.arrive (t : Team) (n : Nat) (want : Option Nat) (i : Nat) : Team :=
  let b := t.bar n
  { t.setBar n ⟨true, want, if b.arrivals.contains i then b.arrivals else b.arrivals ++ [i]⟩ with arrs := i :: t.arrs.filter (· != i) }

/-- TBR.WAIT and TBR.PASS: the group's arrival, which is a core-scope release of its earlier accesses (R100, R111, R112, R114). -/
def State.tbrOp (s : State) (i : Issue) (pass : Bool) : State :=
  s.issue .tbr i (fun x s =>
    if (encMod x.w 19 19 = 1) ≠ pass then s
    else if !x.g.converged then s.park x
    else if (takers x.w x.g).isEmpty then s.retire x x.g
    else
      let n := encMod x.w 18 15
      let want := if encMod x.w 14 14 = 1 then none else some (encMod x.w 13 8)
      let b := x.tm.bar n
      if b.active && b.expect != want then s.faultOf x 7 x.g.act 0
      else s.release x (some 1) (fun s =>
        let s := s.setTeamOf x (x.tm.arrive n want x.g.gidx)
        if pass then (s.retire x x.g).phases x.c x.g.team
        else
          let s := s.modCore x.c (fun k => k.setGroup x.slot (some { x.g with hold := .tbr n }))
          (s.phases x.c x.g.team).deadlock x.c x.g.team))

/-- TBR_WAIT: arrives and waits for the phase. -/
def execTbrWait (i : Issue) (s : State) : Out := .next (s.tbrOp i false)

/-- TBR_PASS: arrives and goes on. -/
def execTbrPass (i : Issue) (s : State) : Out := .next (s.tbrOp i true)

/-! ### Branches (R163) -/

/-- An address plus a signed offset. -/
def pcPlus (pc : W64) (d : Int) : W64 := pc + BitVec.ofInt 64 d

/-- BR: direct branch. -/
def execBr (i : Issue) (s : State) : Out :=
  .next (s.issue .br i (fun x s =>
    let g := if encMod x.w 19 19 = 1 then x.g.setUPair (rDst x.w) (nextPc x.w x.g) else x.g
    let t := pcPlus x.g.pc (brTgt x.w)
    (s.putPath x.c x.slot (g.branch (takeMask x.w x.g) t (nextPc x.w x.g) (pcPlus x.g.pc (brRcv x.w)) (brTgt x.w ≤ 0))).dropLeaves x.stream))

/-- The target that a lane of BRI names. -/
def briTarget (x : Iss) (lane : Nat) : W64 :=
  if predOf x.w x.g lane then
    (if uaBri x.w then uPair x.g (rA x.w) else xPair x.g (rA x.w) lane) &&& 0x0000FFFFFFFFFFF8#64
  else nextPc x.w x.g

/-- BRI: indirect branch. -/
def execBri (i : Issue) (s : State) : Out :=
  .next (s.issue .bri i (fun x s =>
    let tg := (lanesOf x.g.act).map (fun l => (l, briTarget x l))
    (s.putPath x.c x.slot (x.g.branchInd tg (pcPlus x.g.pc (brRcv x.w)) x.g.pc)).dropLeaves x.stream))

/-- YIELD: the backward-branch count has reached 64 (R98). -/
def execYield (c : Fin 256) (g : Fin 64) (s : State) : Out :=
  .next (s.whenRuns (fun s =>
    match (s.core c).group g with
    | some gr =>
      if gr.bb ≥ 64 && gr.hold = .none then
        (s.bump (Fld.CORE_YIELD_CNT_COUNT c) 1).putPath c g ((s.spillIn c g gr).yieldAt gr.pc)
      else s
    | none => s))

/-! ### EXIT (R97, R164) -/

/-- Free a team whose groups have all exited, once nothing of it is outstanding, and end its command where that was all. -/
def State.tryFree (s : State) (c t : Nat) : State :=
  let k := s.core c
  match k.team t with
  | some tm =>
    if tm.st = .running && (k.liveGroups t).isEmpty && !(k.reqs.any (fun r => r.team == t)) && !(k.xfers.any (fun x => x.team == t && (!x.failed || x.pend != []))) then
      ((s.modCore c (fun k => k.closeTeam t)).freeTeamAt c t).sweepCmds
    else s
  | none => s

/-- EXIT: ends every lane whose predicate is true. -/
def execExit (i : Issue) (s : State) : Out :=
  .next (s.issue .exit i (fun x s =>
    match x.g.exitLanes (takeMask x.w x.g) (nextPc x.w x.g) with
    | some r => (s.putPath x.c x.slot r).dropLeaves x.stream
    | none =>
      let n := x.g.gidx
      let g := { x.g with live := 0, act := 0, stack := [], hold := .none }
      let s := (s.modCore x.c (fun k => k.setGroup x.slot (some g))).dropLeaves x.stream
      -- it leaves every phase: under "all" its arrival is withdrawn (R112); a phase that this leaves without an arrival stays open
      -- and still holds "all" (DESIGN CHOICE, log entry 105)
      let tm := (List.range 16).foldl (fun (t : Team) b =>
        let v := t.bar b
        if v.active && v.expect.isNone then t.setBar b { v with arrivals := v.arrivals.filter (· != n) } else t) x.tm
      (((s.setTeamOf x tm).phases x.c x.g.team).deadlock x.c x.g.team).tryFree x.c x.g.team))

/-! ### FENCE, XWAIT, NOP -/

/-- FENCE of a kind and scope: the group waits for its earlier accesses (R176, Table 06.3). -/
def execFence (i : Issue) (s : State) : Out :=
  .next (s.issue .fence i (fun x s =>
    if (takers x.w x.g).isEmpty then s.retire x x.g
    else
      let kind := encMod x.w 17 16
      let scope := encMod x.w 19 18
      let loads := (s.core x.c).reqIds x.g
      let stores := if kind = 1 then [] else s.releaseWaits x.c x.tm.tag x.g scope
      let s := if kind = 1 then s else s.closeFor x.c x.g scope
      if loads.isEmpty && stores.isEmpty then s.retire x x.g
      else s.modCore x.c (fun k => k.setGroup x.slot (some { x.g with hold := .fence loads stores }))))

/-- XWAIT: until at most N of the group's transfers are outstanding (R161). -/
def execXwait (i : Issue) (s : State) : Out :=
  .next (s.issue .xwait i (fun x s =>
    if (takers x.w x.g).isEmpty then s.retire x x.g
    else
      let n := encMod x.w 4 0
      (s.modCore x.c (fun k => k.setGroup x.slot (some { x.g with hold := .xwait n }))).xwaitEnd x.c x.slot n |>.dropLeaves x.stream))

/-- NOP. -/
def execNop (i : Issue) (s : State) : Out := .next (s.issue .nop i (fun x s => s.retire x x.g))

/-! ### XFER (R161, R178, R226) -/

/-- Rows of a shape word, and the bytes that a transfer moves (Table 07.8). -/
def Xfer.rows (x : Xfer) : Nat := if bits x.shape.toNat 31 30 = 1 then bits x.shape.toNat 29 20 + 1 else 1
def Xfer.total (x : Xfer) : Nat := x.len * x.rows

/-- The next chunk of a transfer: source, destination, bytes and the end of its destination row (R227). -/
def Xfer.chunk (x : Xfer) : Nat × Nat × Nat × Nat :=
  let row := x.done / x.len
  let o := x.done % x.len
  let sa := (x.src.toNat + row * bits x.shape.toNat 19 10 * 64 + o) % 2 ^ 64
  let da := (x.dst.toNat + row * bits x.shape.toNat 9 0 * 64 + o) % 2 ^ 64
  let inD := min (x.len - o) (4096 - da % 4096)
  (sa, da, if bits x.shape.toNat 31 30 = 2 then inD else min inD (4096 - sa % 4096), da + (x.len - o))

/-- Does the transfer stand at the start of a chunk, with nothing of it outstanding? -/
def Xfer.atChunk (x : Xfer) : Bool :=
  let (sa, da, _, _) := x.chunk
  x.done % x.len == 0 || da % 4096 == 0 || (bits x.shape.toNat 31 30 != 2 && sa % 4096 == 0)

/-- Is a shape word one that XFER takes (Table 07.8)? -/
def shapeOk (v : W32) : Bool :=
  let m := bits v.toNat 31 30
  m ≤ 2 && (m == 1 || bits v.toNat 29 0 == 0)

/-- XFER: hands one transfer to the core's engine. -/
def execXfer (i : Issue) (s : State) : Out :=
  .next (s.issue .xfer i (fun x s =>
    let k := s.core x.c
    if (takers x.w x.g).isEmpty then s.retire x x.g
    else if !shapeOk (x.g.ur (rC x.w + 1)) then s.faultOf x 1 x.g.act 0
    else if k.acquiring x.g || k.xferLeft x.g ≥ 16 then s
    else
      let after := s.relWaits x 2
      let s := s.closeFor x.c x.g 2
      let t : Xfer := ⟨k.nextId, x.g.team, x.g.gidx, x.g.xseq, encMod x.w 19 19 = 1, encMod x.w 18 18 = 1, encMod x.w 17 16,
        uPair x.g (rA x.w), uPair x.g (rB x.w), (x.g.ur (rC x.w)).toNat, x.g.ur (rC x.w + 1), 0, after, [], 0, false, 0, x.g.pc⟩
      let s := s.modCore x.c (fun k => { k with xfers := k.xfers ++ [t], nextId := k.nextId + 1 })
      let old := x.g.ur (rDst x.w)
      let g := x.g.setU (rDst x.w) (BitVec.ofNat 32 (setBits old.toNat 15 0 x.g.xseq))
      s.retire x { g with xseq := (x.g.xseq + 1) % 2 ^ 16 }))

/-! ### GETS (R164, Table 05.5) -/

/-- The value of a special register in a lane. -/
def getsVal (s : State) (x : Iss) (free : Nat) (lane : Nat) : Nat :=
  match encMod x.w 7 0 with
  | 0 => lane
  | 1 => x.g.gidx
  | 2 => x.tm.tx
  | 3 => x.tm.ty
  | 4 => x.tm.tz
  | 5 => x.c
  | 6 => s.aon.newel.toNat
  | 7 => x.g.gstat.toNat
  | 8 => x.g.act.toNat
  | 9 => x.g.live.toNat
  | 10 => (Config.freeW64 free).toNat
  | 11 => x.tm.part
  | _ => x.tm.tag

/-- GETS: reads a special register, and clears GSTATUS where CLR is 1. CYCLES counts core cycles, which this model leaves
free (log entry 15). -/
def execGets (i : Issue) (s : State) : Out :=
  .next (s.issue .gets i (fun x s =>
    let tk := takers x.w x.g
    let sel := encMod x.w 7 0
    let pair := sel = 6 || sel = 10
    let (s, n) := if sel = 10 then s.takeFree else (s, 0)
    let v := getsVal s x n
    let g :=
      match tk with
      | [] => x.g
      | l0 :: _ =>
        let g := if encMod x.w 8 8 = 1 then { x.g with gstat := 0 } else x.g
        if encMod x.w 19 19 = 1 then
          (if pair then g.setUPair (rDst x.w) (BitVec.ofNat 64 (v l0)) else g.setU (rDst x.w) (BitVec.ofNat 32 (v l0)))
        else
          tk.foldl (fun g l =>
            if pair then g.setXPair (rDst x.w) l (BitVec.ofNat 64 (v l)) else g.setX (rDst x.w) l (BitVec.ofNat 32 (v l))) g
    s.retire x g))

/-! ### LWAIT (R162) -/

def noLanding (_ : Nat) : Landing := Landing.empty

def State.flight (s : State) (p i : Nat) : Landing := SMap.get noLanding s.flights (256 * p + i)
def State.setFlight (s : State) (p i : Nat) (v : Landing) : State := { s with flights := SMap.set noLanding s.flights (256 * p + i) v }

/-- Write the outcome of an LWAIT. -/
def Group.lwaitOut (g : Group) (dst : Nat) (mask : W32) (v : Nat) : Group :=
  g.writeLanes (lanesOf mask) dst (fun _ => BitVec.ofNat 32 v)

/-- LWAIT: reads the named entry of the partition's Flight, and waits while it is ARMED. -/
def execLwait (i : Issue) (s : State) : Out :=
  .next (s.issue .lwait i (fun x s =>
    let m := takeMask x.w x.g
    if m = 0 then s.retire x x.g
    else
      let n := if encMod x.w 19 19 = 1 then (x.g.ur (rA x.w)).toNat % 256 else encMod x.w 7 0
      let out := fun v => s.retire x (x.g.lwaitOut (rDst x.w) m v)
      if n ≥ s.fld (Fld.NWL_FLIGHT_N x.tm.part) then out 3
      else
        match (s.flight x.tm.part n).st with
        | .fired => out 0
        | .cancelled => out 1
        | .empty => out 2
        | .armed => s.modCore x.c (fun k => k.setGroup x.slot (some { x.g with hold := .lwait n (rDst x.w) m }))))

/-- An entry fires or is cancelled: the groups that wait on it go on with outcome `v`, resident ones at once, those of
preempted teams at their resume, where the wait is found ended. -/
def State.lwaitEnd (s : State) (p n v : Nat) : State :=
  s.coreNums.foldl (fun s c =>
    let k := s.core c
    let mine := fun (t : Nat) => match k.team t with | some tm => tm.part == p | none => false
    let s := k.groupList.foldl (fun s e =>
      match e.2.hold with
      | .lwait i dst m => if i = n && mine e.2.team then s.goOn c e.1 (fun g => g.lwaitOut dst m v) else s
      | _ => s) s
    (k.teamList.filter (fun e => e.2.part == p)).foldl (fun s e =>
      (e.2.saved.zip e.2.gslots).foldl (fun s ge =>
        let g := ge.1
        match g.hold with
        | .lwait i dst m =>
          if i = n then
            -- a stack entry that this brings back from the spill area counts (R95)
            let h : Group := if ge.2 < 64 then s.spillIn c ge.2 { g with hold := .none } else { g with hold := .none }
            let r := (h.lwaitOut dst m v).goto (g.pc + 8)
            (if r.n = 0 then s else s.bump (Fld.CORE_SPILL_CNT_COUNT c) r.n).modGroup c e.1 g.gidx (fun _ => r.g)
          else s
        | _ => s) s) s) s

end Sys2Proof.Machine
end

