-- ==== Sys2Proof/Machine/Quant.lean ====
section
/-! DEFINITION. Group-wide instructions' convergence rule, tensor descriptors, and QNT and STQ (R51 to R65, R73 to R82, R139 to
R141, R158). -/
namespace Sys2Proof.Machine

/-! ### Faults by the lowest code (R116) and the convergence rule (R139 to R141) -/

/-- A possible fault: code, lanes, address. -/
structure FCause where
  code : Nat
  mask : W32
  addr : W64
  deriving DecidableEq, Repr

/-- Raise the cause with the lowest code, where there is one; otherwise go on. -/
def State.orFault (s : State) (x : Iss) (l : List FCause) (f : State → State) : State :=
  match l with
  | [] => f s
  | c :: r =>
    let m := r.foldl (fun (m : FCause) d => if d.code < m.code then d else m) c
    s.faultOf x m.code m.mask m.addr

def allLanes : W32 := BitVec.allOnes 32

/-- Matrix Divergence of the instruction (R139, R141), once it is not parked and its predicate is not false everywhere. -/
def divergence (x : Iss) : List FCause :=
  if x.g.act ≠ allLanes then [⟨3, x.g.act, 0⟩]
  else if takeMask x.w x.g ≠ allLanes then [⟨3, takeMask x.w x.g, 0⟩]
  else []

/-- The rule of MMA, MLD, QNT and STQ: park, no effect, or go on to the checks. -/
def State.groupWide (s : State) (x : Iss) (f : State → State) : State :=
  if encMod x.w 7 7 = 1 && !x.g.converged then s.park x
  else if x.g.act = allLanes && (takers x.w x.g).isEmpty then s.retire x x.g
  else f s

/-- The Register Range cause of a list of runs (R104). -/
def rangeCause (x : Iss) (runs : List (Nat × Nat)) : List FCause := if x.rangeBad runs then [⟨4, x.g.act, 0⟩] else []

/-! ### Reads that an instruction makes before it has effect -/

/-- Read at most a 64-byte block's bytes for the group as ordinary loads of its own: after its outstanding requests of the same
bytes, its own buffered stores first (R138, R167, R177, R181). A register is no place for a descriptor: the access, which is no
register access of R16, is answered with an error (log entry 16). -/
def State.loadBlock (s : State) (x : Iss) (va : W64) (n : Nat) : State × NowRes :=
  match s.xlate ⟨x.stream, lsBuf x.c, x.tm.tag, x.tm.part, x.tm.cls, va.toNat, x.g.act, false, false⟩ with
  | (s, .wait k) => (s.holdFor x [k], .wait)
  | (s, .err) => (s, .fault 0x0A va)
  | (s, .leaf t) =>
    let tg := s.target (t.paOf va.toNat)
    if t.ty = .wtm && !x.tm.priv then (s, .fault 9 0)
    else if (s.core x.c).reqOn x.g tg n then (s, .wait)
    else
      let k := s.core x.c
      let own := fun (d : List Byte) => d.zipIdx.map (fun b => (k.buffered x.tm.tag 0 (tg.plus b.2)).getD b.1)
      match s.tgtPa tg with
      | none =>
        match s.farRead x tg va.toNat n with
        | (s, .bytes d) => (s, .bytes (own d))
        | r => r
      | some pa =>
        match s.readAll x.tm.part pa n t.ty.readAge with
        | (s, none) => (s, .wait)
        | (s, some (d, poison)) => (s, if poison then .fault 0x0A va else .bytes (own d))

/-- Split a run of bytes at 64-byte boundaries: address and length of each part. -/
def blocksOf (va n : Nat) : List (Nat × Nat) :=
  (List.range ((va % 64 + n + 63) / 64)).map (fun i =>
    let lo := max va (va / 64 * 64 + 64 * i)
    let hi := min (va + n) (va / 64 * 64 + 64 * i + 64)
    (lo, hi - lo))

def State.loadNow (s : State) (x : Iss) (va : W64) (n : Nat) : State × NowRes :=
  (blocksOf va.toNat n).foldl (fun (r : State × NowRes) b =>
    match r.2 with
    | .bytes l =>
      match r.1.loadBlock x (BitVec.ofNat 64 b.1) b.2 with
      | (s, .bytes m) => (s, .bytes (l ++ m))
      | q => q
    | _ => r) (s, .bytes [])

/-! ### Tensor descriptors (R51 to R54) -/

def dFmt (d : List Byte) : Nat := at' d 0 1
def dRows (d : List Byte) : Nat := at' d 4 4
def dK (d : List Byte) : Nat := at' d 8 4
def dE (d : List Byte) : Nat := at' d 0x10 8
def dS (d : List Byte) : Nat := at' d 0x18 8
def dC (d : List Byte) : Nat := at' d 0x28 8
def dT (d : List Byte) : Nat := at' d 0x30 8
def dX (d : List Byte) : Nat := at' d 0x38 8

/-- Does R51 reject the descriptor, or is its format not one that the partition may use (R41)? -/
def State.descBad (s : State) (p : Nat) (d : List Byte) : Bool :=
  let f := dFmt d
  let planes := if isFacet f then [dE d, dS d, dC d, dT d, dX d] else [dE d, dS d]
  !(isMx f || isFacet f) || !s.fmtEnabled p f || dK d == 0 || dK d % 128 != 0 || dRows d == 0 ||
    dRows d * dK d / 16 ≥ 2 ^ 32 || [dE d, dS d, dC d, dT d, dX d].any (fun a => a % 64 != 0) ||
    dE d == 0 || dS d == 0 || (isFacet f && dT d == 0) || planes.isEmpty

/-! ### QNT (R73 to R81) -/

/-- The effective profile (R74, R75). -/
structure Prof where
  policy  : Nat
  limit   : Nat
  scale   : Nat
  shift   : Nat
  outs    : Nat
  rnd     : Rnd
  deriving DecidableEq, Repr

def profBad (v : Nat) : Bool := bits v 1 0 == 3 || bits v 8 7 == 3 || bits v 13 11 > 4 || bits v 6 2 > 16

/-- The profile of the QNT at which a group stands, from its profile word and FMT_GUARD_CTL as it was when it issued (R74, R75). -/
def State.profile (s : State) (x : Iss) (v : Nat) : Prof :=
  let c := x.c
  let s := match (s.core c).keptOf x.g with | some e => s.setReg (Reg.FMT_GUARD_CTL c) e.gctl.toNat | none => s
  let p := max (bits v 1 0) (s.fld (Fld.FMT_GUARD_CTL_FLOOR c))
  { policy := if p = 2 && s.fldB (Fld.FMT_GUARD_CTL_ESC_OFF c) then 1 else p
    limit := min (bits v 6 2) (s.fld (Fld.FMT_GUARD_CTL_LIMIT_CAP c))
    scale := bits v 8 7
    shift := bits v 10 9
    outs := bits v 13 11
    rnd := s.rndOf c (v.testBit 14) }

/-- The magnitude of a finite value. -/
def FVal.mag (v : FVal) : Rat := if v.val < 0 then -v.val else v.val

/-- The largest magnitude of the finite values of a list; zero if there are none. -/
def maxMag (l : List FVal) : Rat := l.foldl (fun m v => if v.isFin && v.mag > m then v.mag else m) 0

/-- A value divided by a positive number. -/
def FVal.over' (v : FVal) (r : Rat) : FVal := match v with | .fin n x => .fin n (x / r) | v => v

/-- Encode a list of values, each with the next draws. -/
def encodeL (e : Elem) (rnd : Rnd) (d : Nat → Nat) : Nat → List FVal → List EncRes
  | _, [] => []
  | k, v :: r => let q := e.encode rnd d k v; q :: encodeL e rnd d q.used r

def lastUsed (k : Nat) (l : List EncRes) : Nat := (l.getLast?.map (·.used)).getD k

/-- What QNT makes of one block. -/
structure QBlk where
  codes : List Nat
  scale : Nat
  clips : Nat
  guard : Bool
  esc   : Bool
  slot  : Nat
  sides : List (Nat × Nat)
  marks : List EncRes
  sat   : Bool
  nanRd : Bool
  refused : Bool
  deriving DecidableEq, Repr

/-- The outliers of a span: the candidates with the largest magnitudes, lower index first among equals (R77). -/
def outliers (v : List FVal) (thr : FVal) (n : Nat) (may : Nat → Bool) : List Nat :=
  let cand := v.zipIdx.filter (fun e => e.1.isFin && may e.2 && thr.lt (.fin false e.1.mag))
  let sorted := cand.foldl (fun (acc : List (FVal × Nat)) e =>
    let before := acc.takeWhile (fun a => a.1.mag ≥ e.1.mag)
    before ++ e :: acc.drop before.length) []
  (sorted.take n).map (·.2)

/-- The native encoding of Facet block `b` (R77, R78); `given` is its given scale. In a block whose scale is zero or a NaN no
element is converted, so that a NaN or an infinity there sets neither NAN_IN nor INF_IN (DESIGN CHOICE, log entry 101). -/
def facetBlock (e : Elem) (pf : Prof) (d : Nat → Nat) (k0 : Nat) (v : List FVal) (b given : Nat) (out : List Nat) : QBlk :=
  let idx := (List.range 16).map (fun i => 16 * b + i)
  let at_ := fun (i : Nat) => v.getD i (.fin false 0)
  let inn := idx.filter (fun i => !out.contains i)
  let outs := idx.filter (fun i => out.contains i)
  let a := maxMag (inn.map at_)
  let ao := maxMag (outs.map at_)
  let t := if a > 0 then a / (e.qmax * pow2 pf.shift) else ao / 448
  let (sc, sat) := if pf.scale = 2 then (given, false) else pickScale (pf.scale = 1) t
  let none_ : QBlk := ⟨List.replicate 16 e.nearZero, sc, 0, false, false, 0, [], [], sat, false, false⟩
  match u5m3 sc with
  | none => { none_ with nanRd := true }
  | some bs =>
    if bs = 0 then { none_ with sides := outs.map (fun i => (i, 0)) }
    else
      let r := encodeL e pf.rnd d k0 (inn.map (fun i => (at_ i).over' bs))
      let q := encodeL (.flt e4m3) pf.rnd d (lastUsed k0 r) (outs.map (fun i => (at_ i).over' bs))
      let code := fun (i : Nat) => if out.contains i then e.nearZero else
        ((inn.zip r).find? (fun p => p.1 == i)).elim 0 (fun p => p.2.code)
      { none_ with
        codes := idx.map code, clips := ((r ++ q).filter (·.clip)).length, sides := outs.zip (q.map (·.code)), marks := r ++ q }

/-- Encode the values of an escalated block in E4M3: a NaN gives +448 and sets NAN_IN, since a block of a Facet tensor holds none
(R50). -/
def encodeEsc (rnd : Rnd) (d : Nat → Nat) : Nat → List FVal → List EncRes
  | _, [] => []
  | k, v :: r =>
    let q := match v with | .nan _ => ⟨e4m3.maxCode, k, false, true, false⟩ | v => e4m3.encode rnd d k v
    q :: encodeEsc rnd d q.used r

/-- The escalated encoding of a block (R80), with its slot. -/
def escBlock (pf : Prof) (d : Nat → Nat) (k0 : Nat) (v : List FVal) (b slot : Nat) (q : QBlk) : QBlk :=
  let l := (List.range 16).map (fun i => v.getD (16 * b + i) (.fin false 0))
  let a := maxMag l
  let sc := if a = 0 then 0 else e8m0Code (ratLog2 a - 8)
  let r := encodeEsc pf.rnd d k0 (l.map (fun x => x.over' ((e8m0 sc).getD 1)))
  { q with codes := r.map (·.code), scale := sc, guard := true, esc := true, slot := slot, marks := q.marks ++ r }

/-- Largest exponent of an MX element format (R81). -/
def mxEmax (f : Nat) : Int := match f with | 0x08 => 8 | 0x09 => 15 | 0x0A => 4 | 0x0B => 2 | 0x0C => 2 | _ => 0

/-- The encoding of MX block `b` of 32 elements (R81). A NaN or an infinity of the block sets neither NAN_IN nor INF_IN (DESIGN
CHOICE, log entry 101): the block's scale of 0xFF carries it. -/
def mxBlock (f : Nat) (e : Elem) (pf : Prof) (d : Nat → Nat) (k0 : Nat) (v : List FVal) (b given : Nat) : QBlk :=
  let l := (List.range 32).map (fun i => v.getD (32 * b + i) (.fin false 0))
  let a := maxMag l
  let none_ : QBlk := ⟨List.replicate 32 0, 0xFF, 0, false, false, 0, [], [], false, false, false⟩
  if l.any (fun x => !x.isFin) then { none_ with nanRd := pf.scale == 2 && given == 0xFF }
  else
    let sc := if pf.scale = 2 then given else if a = 0 then 0 else e8m0Code (ratLog2 a - mxEmax f)
    match e8m0 sc with
    | none => { none_ with nanRd := true }
    | some x =>
      let r := encodeL e pf.rnd d k0 (l.map (fun y => y.over' x))
      { none_ with codes := r.map (·.code), scale := sc, clips := (r.filter (·.clip)).length, marks := r }

/-- Does the policy ask for the escalation of a block (R79)? -/
def wantsEsc (pf : Prof) (q : QBlk) : Bool := pf.policy == 2 && q.clips > pf.limit

/-- Encode a Facet span; `slots` gives each block that asks for it, in order, its slot or a refusal (R62, R79).
Elements of a block whose given scale is 0xFF are no candidates, so that they leave the OUTLIERS largest to other blocks (DESIGN
CHOICE, log entry 101). -/
def facetSpan (e : Elem) (pf : Prof) (d : Nat → Nat) (v : List FVal) (given : Nat → Nat) (thr : FVal) (slots : List (Option Nat)) :
    List QBlk × Nat :=
  let may := fun (i : Nat) => !(pf.scale == 2 && given (i / 16) == 0xFF)
  let out := outliers v thr pf.outs may
  let r := (List.range 8).foldl (fun (r : List QBlk × Nat × List (Option Nat)) b =>
    let q := facetBlock e pf d r.2.1 v b (given b) out
    let k := lastUsed r.2.1 q.marks
    if q.clips > pf.limit && pf.policy ≥ 1 then
      if pf.policy = 2 then
        match r.2.2 with
        | some n :: rest => let x := escBlock pf d k v b n q; (r.1 ++ [x], lastUsed k x.marks, rest)
        | _ :: rest => (r.1 ++ [{ q with guard := true, refused := true }], k, rest)
        | [] => (r.1 ++ [{ q with guard := true, refused := true }], k, [])
      else (r.1 ++ [{ q with guard := true }], k, r.2.2)
    else (r.1 ++ [q], k, r.2.2)) ([], 0, slots)
  (r.1, r.2.1)

def mxSpan (f : Nat) (e : Elem) (pf : Prof) (d : Nat → Nat) (v : List FVal) (given : Nat → Nat) : List QBlk × Nat :=
  (List.range 4).foldl (fun (r : List QBlk × Nat) b =>
    let q := mxBlock f e pf d r.2 v b (given b)
    (r.1 ++ [q], lastUsed r.2 q.marks)) ([], 0)

/-- The four sidecar slots: outliers in ascending index order, those of escalated blocks written empty (R77, R80). -/
def sideSlots (l : List QBlk) : List Nat :=
  let all := l.flatMap (fun q => q.sides.map (fun e => if q.esc then 0 else 0x8000 + e.1 * 0x100 + e.2))
  (List.range 4).map (fun n => all.getD n 0)

/-- Put the results of QNT into its registers (Table 02.12). -/
def qntWrite (g : Group) (f dst : Nat) (l : List QBlk) : Group :=
  let per := if isMx f then 8 else 4
  let w := elemBits f
  let side := sideSlots l
  let code := fun (lane : Nat) =>
    match l[lane / per]? with
    | some q =>
      let w := if q.esc then 8 else w
      (List.range 4).foldl (fun v i => v + (q.codes.getD (4 * (lane % per) + i) 0) * 2 ^ (w * i)) 0
    | none => 0
  let info := fun (lane : Nat) =>
    if lane < 8 then
      match l[lane]? with
      | some q => q.scale + (if q.guard then 0x200 else 0) + (if q.esc then 0x100 else 0) + (q.clips % 64) * 0x400
      | none => 0
    else if lane < 12 then (if isMx f then 0 else side.getD (lane - 8) 0)
    else if lane < 20 then (match l[lane - 12]? with | some q => if q.esc then q.slot else 0 | none => 0)
    else 0
  lanes32.foldl (fun g i => (g.setX dst i (BitVec.ofNat 32 (code i))).setX (dst + 1) i (BitVec.ofNat 32 (info i))) g

/-- The counters and flags of a quantised span (R50, R69, R78 to R80). -/
def State.qntNote (s : State) (c f : Nat) (l : List QBlk) : State :=
  let s := l.foldl (fun t q => q.marks.foldl (fun t m => t.noteEnc c m) t) s
  let g := (l.filter (·.guard)).length
  let n := (l.filter (·.esc)).length
  let r := (l.filter (·.refused)).length
  let s := if isFacet f then s.bump (Fld.FMT_BLOCK_CNT_COUNT c) 8 else s
  let s := if g > 0 then (s.bump (Fld.FMT_FLAG_CNT_COUNT c) g).setFldB (Fld.FMT_STATUS_FLAGGED c) true else s
  let s := if n > 0 then (s.bump (Fld.FMT_ESC_CNT_COUNT c) n).setFldB (Fld.FMT_STATUS_ESCALATED c) true else s
  let s := if r > 0 then (s.bump (Fld.FMT_ESC_REFUSED_CNT_COUNT c) r).setFldB (Fld.FMT_STATUS_ESC_REFUSED c) true else s
  (s.fmtFlag (Fld.FMT_STATUS_SCALE_SAT c) (l.any (·.sat))).fmtFlag (Fld.FMT_STATUS_NAN_READ c) (l.any (·.nanRd))

/-- The slots that `n` increments of NEXT give, from the header's CAPACITY and NEXT (R62). -/
def slotsFrom (cap next n : Nat) : List (Option Nat) :=
  (List.range n).map (fun i => let v := (next + i) % 2 ^ 32; if v < cap then some v else none)

/-- The slots that the header of an escalation area gives, or why the instruction cannot go on yet or faults. -/
inductive EscRes where
  | slots (l : List (Option Nat))
  | wait
  | fault (code : Nat) (addr : W64)
  deriving DecidableEq, Repr

/-- Add `n` to the 32-bit word of NEXT at `va`, as an atomic of the group does, and give its old value: `n` increments that nothing
comes between (R62, R508). -/
def State.addNext (s : State) (x : Iss) (va : W64) (n : Nat) : State × NowRes :=
  match s.xlate ⟨x.stream, lsBuf x.c, x.tm.tag, x.tm.part, x.tm.cls, va.toNat, x.g.act, true, false⟩ with
  | (s, .wait k) => (s.holdFor x [k], .wait)
  | (s, .err) => (s, .fault 0x0A va)
  | (s, .leaf t) =>
    let tg := s.target (t.paOf va.toNat)
    if t.ty = .wtm && !x.tm.priv then (s, .fault 9 0)
    else if (s.core x.c).reqOn x.g tg 4 then (s, .wait)
    else if !((s.core x.c).blockIds tg).isEmpty then (s.modCore x.c (fun k => k.closeBlock tg), .wait)
    else
      match s.tgtPa tg, tg with
      | some pa, _ =>
        match s.ownSec x.tm.part pa with
        | (s, none) => (s, .wait)
        | (s, some (d, poison)) =>
          if poison then (s.ownEnd pa, .fault 0x0A va)
          else
            let o := pa % 64
            let next := at' d o 4
            let bs := (natLe 4 ((next + n) % 2 ^ 32)).zipIdx.map (fun b => (o + b.2, b.1))
            match s.writeSec x.tm.part pa (.alloc 1) bs (some x.c) .nobody with
            | (s, .wait) => (s, .wait)
            | (s, _) => (s, .bytes (natLe 4 next))
      | none, .window c w o =>
        let s := s.keep x
        match s.winRmw (.kept x.c (((s.core x.c).keptOf x.g).elim 0 (·.id))) c w o .add false n 0 with
        | (s, none) => (s, .wait)
        | (s, some (some (b, false))) => (s, .bytes b)
        | (s, some _) => (s, .fault 0x0A va)
      -- no atomics over CXL.io (R508); the header is no register
      | none, _ => (s, .fault 0x0A va)

/-- Take slots for `n` blocks from the header at `va`: CAPACITY is read and NEXT is counted up (R62). -/
def State.takeSlots (s : State) (x : Iss) (va : W64) (n : Nat) : State × EscRes :=
  if va = 0 then (s, .slots (List.replicate n none))
  else if va.toNat % 4 ≠ 0 then (s, .fault 6 va)
  else
    match s.loadNow x va 4 with
    | (s, .wait) => (s, .wait)
    | (s, .fault c a) => (s, .fault c a)
    | (s, .bytes cap) =>
      match s.addNext x (va + 4) n with
      | (s, .wait) => (s, .wait)
      | (s, .fault c a) => (s, .fault c a)
      | (s, .bytes next) => (s, .slots (slotsFrom (leNat cap) (leNat next) n))

/-- QNT: quantises a span (R73 to R81, R158). -/
def execQnt (i : Issue) (s : State) : Out :=
  .next (s.issueRaw .qnt i (fun x s => s.groupWide x (fun s =>
    let f := encMod x.w 19 15
    let pr := (x.g.ur (rB x.w)).toNat
    let fmtBad := !(isMx f || isFacet f) || !s.fmtEnabled x.tm.part f || profBad pr
    s.orFault x ((if fmtBad then [⟨2, x.g.act, 0⟩] else []) ++ divergence x ++ rangeCause x (xNamed .qnt x.w)) (fun s =>
      match elemOf f with
      | none => s
      | some e =>
        let pf := s.profile x pr
        let mult := f32 (x.g.ur (rB x.w + 2))
        let thr := f32 (x.g.ur (rB x.w + 1))
        let v := (List.range 128).map (fun k => (f32 (x.g.xr (rA x.w + k % 4) (k / 4))).mul mult)
        let given := fun b => (x.g.xr (rDst x.w + 1) b).toNat % 256
        let run := fun (d : Nat → Nat) (sl : List (Option Nat)) =>
          if isMx f then mxSpan f e pf d v given else facetSpan e pf d v given thr sl
        -- clip counts depend on no draw, so a dry run tells how many slots are wanted
        let want := if isMx f then 0 else (((run noDraw []).1).filter (wantsEsc pf)).length
        let go := fun (s : State) (sl : List (Option Nat)) =>
          let (s, d) := s.takeDraws x.c (run noDraw sl).2
          let l := (run d sl).1
          ((s.qntNote x.c f l).dropKept x).retire x (qntWrite x.g f (rDst x.w) l)
        if want = 0 then go s []
        else if (s.core x.c).acquiring x.g then s.keep x
        else
          match s.takeSlots x (uPair x.g (rB x.w + 3)) want with
          | (s, .wait) => s.keep x
          | (s, .fault c a) => s.faultOf x c x.g.act a
          | (s, .slots l) => go s l))))

/-! ### STQ (R82) -/

/-- The stores of one span: virtual address and bytes (R53, R54, R60). -/
def stqStores (g : Group) (r row span : Nat) (d : List Byte) : List (Nat × List Byte) :=
  let f := dFmt d
  let w := elemBits f
  let info := fun lane => (g.xr (r + 1) lane).toNat
  let per := if isMx f then 8 else 4
  let nb := if isMx f then 4 else 8
  let blkE := if isMx f then 32 else 16
  let g0 := row * (dK d / blkE) + span * nb
  let b := entryBytes f
  let esc := fun (k : Nat) => !isMx f && (info k).testBit 8
  let entry := fun (k : Nat) =>
    if esc k then natLe b (info (12 + k))
    else
      natLe b ((List.range per).foldl (fun v l =>
        v + ((g.xr r (k * per + l)).toNat % 2 ^ (4 * w)) * 2 ^ (4 * w * l)) 0)
  let elems := (List.range nb).flatMap entry
  let scales := (List.range nb).map (fun k => BitVec.ofNat 8 (info k))
  let base := [(dE d + g0 * b, elems), (dS d + g0, scales)]
  if isMx f then base
  else
    let tags := natLe 2 ((List.range 8).foldl (fun v k => v + (bits (info k) 9 8) * 4 ^ k) 0)
    let side := (List.range 4).flatMap (fun n => natLe 2 (info (8 + n)))
    base ++ [(dT d + g0 / 4, tags)] ++
      (if dC d = 0 then [] else [(dC d + (row * (dK d / 128) + span) * 8, side)]) ++
      ((List.range 8).filter esc).map (fun k =>
        (dX d + 16 + 16 * info (12 + k), (List.range 4).flatMap (fun l => natLe 4 (g.xr r (4 * k + l)).toNat)))

/-- Does STQ raise a Format fault for this span (R82)? -/
def State.stqBad (s : State) (x : Iss) (row span : Nat) (d : List Byte) : Bool :=
  let info := fun lane => (x.g.xr (rA x.w + 1) lane).toNat
  s.descBad x.tm.part d || row ≥ dRows d || span ≥ dK d / 128 ||
    (isFacet (dFmt d) &&
      ((dX d == 0 && (List.range 8).any (fun k => (info k).testBit 8)) ||
        (dC d == 0 && (List.range 4).any (fun n => (info (8 + n)).testBit 15))))

/-- Outcome of translating the blocks of a list of stores; addresses wrap at 64 bits (R21, R53). -/
def State.xlateStores (s : State) (x : Iss) (l : List (Nat × List Byte)) : State × List BlkStore × List Nat × List FCause :=
  let parts := l.flatMap (fun e => (blocksOf e.1 e.2.length).map (fun b => (b.1 % 2 ^ 64, (e.2.drop (b.1 - e.1)).take b.2)))
  parts.foldl (fun (r : State × List BlkStore × List Nat × List FCause) p =>
    let va : W64 := BitVec.ofNat 64 p.1
    match r.1.xlate ⟨x.stream, lsBuf x.c, x.tm.tag, x.tm.part, x.tm.cls, p.1, x.g.act, true, false⟩ with
    | (s, .wait k) => (s, r.2.1, r.2.2.1 ++ [k], r.2.2.2)
    | (s, .err) => (s, r.2.1, r.2.2.1, r.2.2.2 ++ [⟨0x0A, x.g.act, va⟩])
    | (s, .leaf t) =>
      let tg := s.target (t.paOf p.1)
      if t.ty = .wtm && !x.tm.priv then (s, r.2.1, r.2.2.1, r.2.2.2 ++ [⟨9, x.g.act, 0⟩])
      else if tg = .err then (s, r.2.1, r.2.2.1, r.2.2.2 ++ [⟨0x0A, x.g.act, va⟩])
      else
        (s, r.2.1 ++ [⟨tg.block, t.ty, p.2.zipIdx.map (fun b => (tg.off + b.2, b.1)), va, x.g.act⟩], r.2.2.1, r.2.2.2)) (s, [], [], [])

/-- Once the group has gone on from the instruction, nothing is kept for it. -/
def State.settleKept (s : State) (x : Iss) : State :=
  match (s.core x.c).group x.slot with
  | some g => if g.pc = x.g.pc && g.act = x.g.act then s else s.dropKept x
  | none => s

/-- STQ: stores a quantised span into the planes of a tensor. Its descriptor is read by accesses of 8 bytes, so that its address shall be
a multiple of 8 (R179; DESIGN CHOICE, log entry 124). -/
def execStq (i : Issue) (s : State) : Out :=
  .next (s.issueRaw .stq i (fun x s => s.groupWide x (fun s =>
    let row := (x.g.ur (rC x.w)).toNat
    let span := (x.g.ur (rC x.w + 1)).toNat
    let da := uPair x.g (rB x.w)
    let early := divergence x ++ rangeCause x (xNamed .stq x.w) ++ (if da.toNat % 8 ≠ 0 then [⟨6, x.g.act, da⟩] else [])
    if (s.core x.c).acquiring x.g then s
    else if da.toNat % 8 ≠ 0 then s.orFault x early id
    else
      match s.loadNow x da 64 with
      | (s, .wait) => s
      | (s, .fault c a) => s.orFault x (early ++ [⟨c, x.g.act, a⟩]) id
      | (s, .bytes d) =>
        s.orFault x ((if s.stqBad x row span d then [⟨2, x.g.act, 0⟩] else []) ++ early) (fun s =>
          let (s, l, waits, bad) := s.xlateStores x (stqStores x.g (rA x.w) row span d)
          if !waits.isEmpty then s.holdFor x waits
          else s.orFault x bad (fun s => (s.bufferStores x l).settleKept x)))))

end Sys2Proof.Machine
end

