-- ==== Sys2Proof/Machine/Matrix.lean ====
section
/-! DEFINITION. The matrix multiply-accumulate and the fragment load ("Matrix engines", R83 to R86). -/
namespace Sys2Proof.Machine

/-! ### Operands of an MMA (R131 to R134) -/

/-- One row of an operand: its values with outliers in place, the scale of each 16 positions (`none`: NaN), which of them are
escalated, and what the read of it sets in FMT_STATUS. -/
structure FragRow where
  vals  : List FVal
  scale : List (Option Rat)
  esc   : List Bool
  nanRd : Bool
  dup   : Bool
  deriving DecidableEq, Repr

/-- Tile depth of a rate class (Table 04.1). -/
def depthOf (fmt : Nat) : Nat := 256 / rateOf fmt

/-- Where an operand lies in the registers: format and the element, metadata and escalation runs. -/
structure FragRuns where
  fmt : Nat
  a   : Nat
  m   : Nat
  x   : Nat
  deriving DecidableEq, Repr

/-- Facet blocks that a lane holds. -/
def laneBlocks (fmt : Nat) : Nat := depthOf fmt / 32

/-- FORMAT of the block at position `q` of row `r` (R132). -/
def tagEsc (g : Group) (o : FragRuns) (r q : Nat) : Bool :=
  let nb := laneBlocks o.fmt
  isFacet o.fmt && o.m != 255 && (g.xr (o.m + 2) (2 * r + q / nb)).getLsbD (2 * (q % nb))

/-- Has the operand an escalated block? -/
def hasEsc (g : Group) (o : FragRuns) : Bool :=
  isFacet o.fmt && (List.range 16).any (fun r => (List.range (depthOf o.fmt / 16)).any (tagEsc g o r))

/-- The element code at K position `k` of row `r` (Table 04.4). -/
def elemCode (g : Group) (o : FragRuns) (r k : Nat) : Nat :=
  let c := rateOf o.fmt
  let half := depthOf o.fmt / 2
  let p := k % half
  let per := 32 / c
  let lo := c * (p % per)
  bits (g.xr (o.a + p / per) (2 * r + k / half)).toNat (lo + elemBits o.fmt - 1) lo

/-- The E4M3 code of element `i` of the escalated block at position `q` (R134). -/
def escCode (g : Group) (o : FragRuns) (r q i : Nat) : Nat :=
  let nb := laneBlocks o.fmt
  bits (g.xr (o.x + 4 * (q % nb) + i / 4) (2 * r + q / nb)).toNat (8 * (i % 4) + 7) (8 * (i % 4))

/-- The scale of the 16 positions at `q` (Table 04.5). -/
def scaleOf (g : Group) (o : FragRuns) (r q : Nat) : Option Rat :=
  if isPlain o.fmt then some 1
  else if isMx o.fmt then e8m0 (bits (g.xr o.m (if rateOf o.fmt = 8 then 2 * r else 2 * r + q / 2)).toNat 7 0)
  else
    let nb := laneBlocks o.fmt
    let c := bits (g.xr o.m (2 * r + q / nb)).toNat (8 * (q % nb) + 7) (8 * (q % nb))
    if tagEsc g o r q then e8m0 c else u5m3 c

/-- The valid sidecar slots of a row that its MMA reads, as K position and E4M3 code, the lowest slot first (R133). -/
def sideOf (g : Group) (o : FragRuns) (half r : Nat) : List (Nat × Nat) :=
  if !isFacet o.fmt then []
  else
    (List.range 4).filterMap (fun n =>
      let v := bits (g.xr (o.m + 1) (2 * r + n / 2)).toNat (16 * (n % 2) + 15) (16 * (n % 2))
      let i := bits v 14 8
      if !v.testBit 15 then none
      else if rateOf o.fmt = 2 then some (i, bits v 7 0)
      else if i / 64 = half then some (i % 64, bits v 7 0) else none)

/-- Slots with an index that a lower slot names are ignored (R57). -/
def firstSlots (l : List (Nat × Nat)) : List (Nat × Nat) :=
  l.foldl (fun acc e => if acc.any (fun a => a.1 == e.1) then acc else acc ++ [e]) []

/-- Read a row of an operand. -/
def fragRow (g : Group) (o : FragRuns) (half r : Nat) : FragRow :=
  let side := sideOf g o half r
  let used := firstSlots side
  let n := (depthOf o.fmt + 15) / 16
  let scale := (List.range n).map (scaleOf g o r)
  let val := fun (k : Nat) =>
    match used.find? (fun e => e.1 == k) with
    | some e => e4m3.decode e.2
    | none =>
      if tagEsc g o r (k / 16) then e4m3.decode (escCode g o r (k / 16) (k % 16))
      else match elemOf o.fmt with | some e => e.decode (elemCode g o r k) | none => .fin false 0
  { vals := (List.range (depthOf o.fmt)).map val
    scale := scale
    esc := (List.range n).map (tagEsc g o r)
    nanRd := scale.any (·.isNone) || used.any (fun e => (e4m3.decode e.2).isNan)
    dup := used.length != side.length }

/-! ### Exact groups and the accumulation (R85, R86, R142) -/

/-- The one NaN that a matrix engine delivers (R86). -/
def nan32 : W32 := 0x7FC00000#32

/-- A value rounded once to FP32, a NaN as 0x7FC0_0000. -/
def mma32 (v : FVal) : W32 := if v.isNan then nan32 else w32f v

/-- The rounded value of one exact group: products, and the scales of both sides. A sum of zero, a scale of zero included,
which makes every element of its block zero (R46), gives +0.0 (R142). -/
def groupVal (ps : List FVal) (sa sb : Option Rat) : W32 :=
  match sa, sb with
  | some x, some y =>
    match ps.foldl FVal.add (.fin false 0) with
    | .fin _ v => if v * x * y = 0 then 0 else mma32 (.fin (v < 0) (v * x * y))
    | v => mma32 v
  | _, _ => nan32

/-- The terms of each exact group of a row of A and a column of B (Table 02.14): 8 terms where a block of the pair is
escalated. -/
def groupVals (fmt : Nat) (a b : FragRow) : List W32 :=
  let ps := (a.vals.zip b.vals).map (fun e => e.1.mul e.2)
  let part := fun (lo n q : Nat) => groupVal ((ps.drop lo).take n) (a.scale.getD q none) (b.scale.getD q none)
  let c := rateOf fmt
  if c = 16 then (List.range 4).map (fun i => part (4 * i) 4 0)
  else if c = 8 then (List.range 4).map (fun i => part (8 * i) 8 (i / 2))
  else
    (List.range (depthOf fmt / 16)).flatMap (fun q =>
      if a.esc.getD q false || b.esc.getD q false then [part (16 * q) 8 q, part (16 * q + 8) 8 q] else [part (16 * q) 16 q])

def accAdd (a b : W32) : W32 := mma32 ((f32 a).add (f32 b))

/-- Add the terms two at a time in an order that is not fixed (R86). -/
def addFree (key sub : Nat) : Nat → List W32 → W32
  | 0, l => l.headD 0
  | n + 1, l =>
    match l with
    | [] => 0
    | [v] => v
    | _ =>
      let i := Config.addOrder key (64 * sub + 2 * n) % l.length
      let r := l.eraseIdx i
      let j := Config.addOrder key (64 * sub + 2 * n + 1) % r.length
      addFree key sub n (accAdd (l.getD i 0) (r.getD j 0) :: r.eraseIdx j)

/-- An element of D (R126). -/
def mmaElem (fmt key sub : Nat) (a b : FragRow) (c : W32) : W32 :=
  let l := groupVals fmt a b
  addFree key sub (l.length + 1) (mma32 (f32 c) :: l)

/-! ### MMA -/

def runsA (w : Enc) : FragRuns := ⟨encMod w 19 15, rA w, encExt w 7 0, encExt w 23 16⟩
def runsB (w : Enc) : FragRuns := ⟨encMod w 14 10, rB w, encExt w 15 8, encExt w 31 24⟩

/-- R129: does the operand break a rule about its metadata and escalation runs? -/
def metaBad (o : FragRuns) : Bool :=
  if isPlain o.fmt then o.m != 255 || o.x != 255
  else if isMx o.fmt then o.m == 255 || o.x != 255
  else o.m == 255

/-- The causes of a Format fault of an MMA (R41, R127, R129, R134). -/
def State.mmaBad (s : State) (x : Iss) : Bool :=
  let a := runsA x.w
  let b := runsB x.w
  let one := fun (o : FragRuns) => rateOf o.fmt == 0 || !s.fmtEnabled x.tm.part o.fmt || metaBad o
  let noEsc := fun (o : FragRuns) => o.x == 255 && !(beyond x.tm.r (o.m, 3)) && hasEsc x.g o
  one a || one b || rateOf a.fmt != rateOf b.fmt || noEsc a || noEsc b

/-- MMA: D := C + A × B on the tiles of the group. -/
def execMma (i : Issue) (s : State) : Out :=
  .next (s.issueRaw .mma i (fun x s => s.groupWide x (fun s =>
    s.orFault x ((if s.mmaBad x then [⟨2, x.g.act, 0⟩] else []) ++ divergence x ++ rangeCause x (xNamed .mma x.w)) (fun s =>
      let fa := runsA x.w
      let half := encMod x.w 9 9
      let ra := (List.range 16).map (fragRow x.g fa half)
      let rb := (List.range 16).map (fragRow x.g (runsB x.w) half)
      let (s, key) := (s.event 0 x.c 3).takeFree
      let none_ : FragRow := ⟨[], [], [], false, false⟩
      let d := fun (lane j : Nat) =>
        let row := lane / 2
        let col := 8 * (lane % 2) + j
        let c := if encMod x.w 8 8 = 1 then 0 else x.g.xr (rC x.w + j) lane
        mmaElem fa.fmt key (16 * row + col) (ra.getD row none_) (rb.getD col none_) c
      let g := lanes32.foldl (fun g l => (List.range 8).foldl (fun g j => g.setX (rDst x.w + j) l (d l j)) g) x.g
      let both := ra ++ rb
      let s := s.fmtFlag (Fld.FMT_STATUS_NAN_READ x.c) (both.any (·.nanRd))
      let s := s.fmtFlag (Fld.FMT_STATUS_SIDECAR_DUP x.c) (both.any (·.dup))
      s.retire x g))))

/-! ### MLD (R135 to R138) -/

/-- A read that MLD makes: lane, place in the lane's 128-byte buffer, address, length. In the buffer the elements stand at 0,
the scales at 16, the sidecar slots at 24 and the codes of lane block j at 32 + 16 j. -/
structure MldRead where
  lane : Nat
  off  : Nat
  va   : Nat
  n    : Nat
  deriving DecidableEq, Repr

/-- The tag bits of a row, as an address and a number of bytes. -/
def tagAt (d : List Byte) (row k0 : Nat) : Nat × Nat :=
  (dT d + (row * dK d + k0) / 64, (depthOf (dFmt d) / 16 + 3) / 4)

/-- FORMAT of lane block `j` of half `h` by a row's tag bits. -/
def tagBit (fmt tags h j : Nat) : Bool := tags.testBit (2 * (h * laneBlocks fmt + j))

/-- The address of the element entry of lane block `j` (R53). -/
def entryAt (d : List Byte) (row k0 h j : Nat) : Nat :=
  dE d + ((row * dK d + k0) / 16 + h * laneBlocks (dFmt d) + j) * entryBytes (dFmt d)

/-- The reads of one lane of a fragment row that lies in the tensor; `slots` gives the slot index of its escalated blocks. -/
def laneReads (d : List Byte) (row k0 lane : Nat) (slots : List (Nat × Nat)) : List MldRead :=
  let f := dFmt d
  let h := lane % 2
  let half := depthOf f / 2
  let nb := laneBlocks f
  let pos := row * dK d + k0
  let elems : MldRead := ⟨lane, 0, dE d + (pos + h * half) * elemBits f / 8, half * elemBits f / 8⟩
  let scales : MldRead :=
    if isFacet f then ⟨lane, 16, dS d + pos / 16 + h * nb, nb⟩
    else ⟨lane, 16, dS d + pos / 32 + (if rateOf f = 4 then h else 0), 1⟩
  let side : List MldRead :=
    if isFacet f && dC d != 0 then [⟨lane, 24, dC d + (row * (dK d / 128) + k0 / 128) * 8 + 4 * h, 4⟩] else []
  elems :: scales :: side ++ slots.map (fun e => ⟨lane, 32 + 16 * e.1, dX d + 16 + 16 * e.2, 16⟩)

/-- Format causes of MLD that the descriptor and the operands show (R135, R137). -/
def State.mldBad (s : State) (x : Iss) (d : List Byte) (rw0 k0 : Nat) : Bool :=
  let f := dFmt d
  let m := rC x.w
  let e := encMod x.w 19 12
  s.descBad x.tm.part d || rw0 % 16 != 0 || k0 % depthOf f != 0 || k0 ≥ dK d || m == 255 || (isMx f && e != 255)

/-- Register Range causes of MLD: the escalation run's length follows from the format (R135). -/
def mldRange (x : Iss) (f : Nat) : List FCause :=
  let e := encMod x.w 19 12
  let n := escLen f
  rangeCause x (xNamed .mld x.w ++ (if e = 255 then [] else [(e, n)])) ++
    (if e != 255 && e + n > 255 then [⟨4, x.g.act, 0⟩] else [])

/-- Outcome of reading the numbers that MLD's addresses depend on. -/
inductive MldRes where
  | nums (l : List Nat)
  | wait
  | fault (code : Nat) (addr : W64)
  deriving DecidableEq, Repr

def State.loadNums (s : State) (x : Iss) (l : List (Nat × Nat)) : State × MldRes :=
  l.foldl (fun (r : State × MldRes) a =>
    match r.2 with
    | .nums acc =>
      match r.1.loadNow x (BitVec.ofNat 64 a.1) a.2 with
      | (s, .bytes b) => (s, .nums (acc ++ [leNat b]))
      | (s, .wait) => (s, .wait)
      | (s, .fault c v) => (s, .fault c v)
    | _ => r) (s, .nums [])

/-- Translate the reads of MLD; each is split at 64-byte boundaries, and its address wraps at 64 bits (R21, R53). -/
def State.xlateReads (s : State) (x : Iss) (l : List MldRead) : State × LaneXl :=
  (l.flatMap (fun r => (blocksOf r.va r.n).map (fun b => (⟨r.lane, r.off + (b.1 - r.va), b.1 % 2 ^ 64, b.2⟩ : MldRead)))).foldl
    (fun (r : State × LaneXl) a =>
      let va : W64 := BitVec.ofNat 64 a.va
      match r.1.xlate ⟨x.stream, lsBuf x.c, x.tm.tag, x.tm.part, x.tm.cls, a.va, maskOf [a.lane], false, false⟩ with
      | (s, .wait k) => (s, { r.2 with waits := r.2.waits ++ [k] })
      | (s, .err) => (s, { r.2 with errs := r.2.errs ++ [(a.lane, va)] })
      | (s, .leaf t) =>
        let tg := s.target (t.paOf a.va)
        if tg = .err then (s, { r.2 with errs := r.2.errs ++ [(a.lane, va)] })
        else (s, { r.2 with lanes := r.2.lanes ++ [⟨a.lane, a.off, a.n, va, tg, t.ty, 0, 0⟩] })) (s, ⟨[], [], []⟩)

/-- The escalated blocks of the rows: row index, half, lane block. -/
def escBlocks (f : Nat) (tags : List Nat) : List (Nat × Nat × Nat) :=
  tags.zipIdx.flatMap (fun t =>
    [0, 1].flatMap (fun h => ((List.range (laneBlocks f)).filter (tagBit f t.1 h)).map (fun j => (t.2, h, j))))

/-- MLD: fragment load. The tags and slot indices that its addresses depend on are read at issue; everything else is read
until its LOAD_RESPONSE (R138). The descriptor is read by accesses of 8 bytes, so that its address shall be a multiple of 8 (R179;
DESIGN CHOICE, log entry 124). -/
def execMld (i : Issue) (s : State) : Out :=
  .next (s.issueRaw .mld i (fun x s => s.groupWide x (fun s =>
    let da := uPair x.g (rA x.w)
    let rw0 := (x.g.ur (rB x.w)).toNat
    let k0 := (x.g.ur (rB x.w + 1)).toNat
    -- what the operands show without the descriptor: a row or a K offset misaligned for every format, and no metadata run (R135, R116)
    let early := (if rw0 % 16 != 0 || k0 % 32 != 0 || rC x.w == 255 then [⟨2, x.g.act, 0⟩] else []) ++ divergence x ++ rangeCause x (xNamed .mld x.w)
    if (s.core x.c).acquiring x.g then s
    else if da.toNat % 8 ≠ 0 then s.orFault x (early ++ [⟨6, x.g.act, da⟩]) id
    else
      match s.loadNow x da 64 with
      | (s, .wait) => s
      | (s, .fault c a) => s.orFault x (early ++ [⟨c, x.g.act, a⟩]) id
      | (s, .bytes d) =>
        let f := dFmt d
        let late := divergence x ++ mldRange x f
        if s.mldBad x d rw0 k0 then s.faultOf x 2 x.g.act 0
        -- the descriptor tells how long the escalation run is, which has no pending write either (R92)
        else if encMod x.w 19 12 ≠ 255 && (s.core x.c).pendingWrite x.g [(encMod x.w 19 12, escLen f)] then s
        else
          let rows := (List.range 16).filter (fun r => rw0 + r < dRows d)
          match s.loadNums x (if isFacet f then rows.map (fun r => tagAt d (rw0 + r) k0) else []) with
          | (s, .wait) => s
          | (s, .fault c a) => s.orFault x (late ++ [⟨c, x.g.act, a⟩]) id
          | (s, .nums tags0) =>
            let nbits := depthOf f / 8
            let tags := tags0.map (fun t => t % 2 ^ nbits)
            let esc := escBlocks f tags
            if !esc.isEmpty && encMod x.w 19 12 = 255 then s.faultOf x 2 x.g.act 0
            else
              s.orFault x late (fun s =>
                match s.loadNums x (esc.map (fun e => (entryAt d (rw0 + e.1) k0 e.2.1 e.2.2, 4))) with
                | (s, .wait) => s
                | (s, .fault c a) => s.faultOf x c x.g.act a
                | (s, .nums slots) =>
                  let l := rows.flatMap (fun r => [2 * r, 2 * r + 1].flatMap (fun lane =>
                    laneReads d (rw0 + r) k0 lane
                      ((esc.zip slots).filterMap (fun e => if e.1.1 = r && e.1.2.1 = lane % 2 then some (e.1.2.2, e.2) else none))))
                  let (s, q) := s.xlateReads x l
                  let priv := q.lanes.filter (fun a => a.ty == .wtm && !x.tm.priv)
                  if !q.waits.isEmpty then s.holdFor x q.waits
                  else if !priv.isEmpty then s.faultOf x 9 (maskOf (priv.map (·.lane))) 0
                  else if !q.errs.isEmpty then s.faultOf x 0x0A (maskOf (q.errs.map (·.1))) (q.errs.headD (0, 0)).2
                  else
                    let k := s.core x.c
                    let lanes := s.pieces q.lanes
                    let m : MemReq := ⟨k.nextId, x.g.team, x.g.gidx, x.g.pc, .mld x.w d rw0 k0 tags, rDst x.w, 4, false, [], x.tm.tag,
                      lanes, lanes.flatMap (k.forwards x.tm.tag x.g), [], []⟩
                    ((s.modCore x.c (fun k => { k with reqs := k.reqs ++ [m], nextId := k.nextId + 1 })).dropKept x).retire x x.g))))

/-- Fill the runs of a fragment load (R131 to R137): `buf lane o` is the byte at place `o` of a lane's buffer. Where its runs
overlap, the later of elements, metadata and escalation remains (DESIGN CHOICE, log entry 125). -/
def mldWrite (g : Group) (w : Enc) (d : List Byte) (tags : List Nat) (buf : Nat → Nat → Byte) : Group :=
  let f := dFmt d
  let c := rateOf f
  let per := 32 / c
  let nb := laneBlocks f
  let wd := elemBits f
  lanes32.foldl (fun g lane =>
    let h := lane % 2
    let t := tags.getD (lane / 2) 0
    let bytes := fun (o n : Nat) => leNat ((List.range n).map (fun i => buf lane (o + i)))
    let esc := fun (j : Nat) => isFacet f && tagBit f t h j
    let all := bytes 0 16
    let code := fun (p : Nat) => if isFacet f && esc (p / 16) then 0 else bits all (wd * p + wd - 1) (wd * p)
    let word := fun (i : Nat) => (List.range per).foldl (fun v e => v + code (per * i + e) * 2 ^ (c * e)) 0
    let g := (List.range 4).foldl (fun g i => g.setX (rDst w + i) lane (BitVec.ofNat 32 (word i))) g
    let g :=
      if rC w = 255 then g
      else
        let tb := (List.range nb).foldl (fun v j => v + bits t (2 * (h * nb + j) + 1) (2 * (h * nb + j)) * 4 ^ j) 0
        ((g.setX (rC w) lane (BitVec.ofNat 32 (bytes 16 (if isFacet f then nb else 1)))).setX (rC w + 1) lane
          (BitVec.ofNat 32 (if isFacet f then bytes 24 4 else 0))).setX (rC w + 2) lane (BitVec.ofNat 32 (if isFacet f then tb else 0))
    if encMod w 19 12 = 255 then g
    else
      (List.range (4 * nb)).foldl (fun g i =>
        g.setX (encMod w 19 12 + i) lane (BitVec.ofNat 32 (if esc (i / 4) then bytes (32 + 4 * i) 4 else 0))) g) g

end Sys2Proof.Machine
end

