-- ==== Sys2Proof/Machine/Teams.lean ====
section
/-! DEFINITION. Placement, fault records, preemption and resume of teams, and a core's sleep as they cause it ("Cores, teams and
thread groups", R347, R463, R464). -/
namespace Sys2Proof.Machine

/-! ### Launch blocks (Table 11.3) -/

def kEntry (b : List Byte) : Nat := at' b 0 8
def kX (b : List Byte) : Nat := at' b 8 4
def kY (b : List Byte) : Nat := at' b 12 2
def kZ (b : List Byte) : Nat := at' b 14 2
def kG (b : List Byte) : Nat := at' b 16 1
def kR (b : List Byte) : Nat := at' b 17 1
def kL (b : List Byte) : Nat := at' b 20 4

/-- The field of a launch block that lies outside its range, by its byte offset (R332, Table 11.3): the demands of one team
also fit an empty core. -/
def blkBad (b : List Byte) : Option Nat :=
  if kEntry b % 8 ≠ 0 then some 0
  else if kX b = 0 || kX b ≥ 2 ^ 31 then some 8
  else if kY b = 0 then some 12
  else if kZ b = 0 then some 14
  else if kG b = 0 || kG b > 32 then some 16
  else if kR b = 0 || kG b * ceilDiv (kR b) 8 > 256 then some 17
  else if at' b 18 2 ≠ 0 then some 18
  else if kL b > 262144 then some 20
  else if at' b 24 8 ≠ 0 then some 24
  else none

/-! ### Resources of a core (R91, R101) -/

/-- Is the team resident, so that it holds units? A preempted team's units name the places of its save. -/
def Team.resident (t : Team) : Bool := t.st != .preempted && t.st != .restoring

def Core.regUnits (k : Core) : List Nat := k.teamList.flatMap (fun e => if e.2.resident then e.2.units else [])
def Core.locUnits (k : Core) : List Nat := k.teamList.flatMap (fun e => if e.2.resident then e.2.lunits else [])

def Core.freeRegs (k : Core) : List Nat := let u := k.regUnits; (List.range 256).filter (fun i => !u.contains i)
def Core.freeLocs (k : Core) : List Nat := let u := k.locUnits; (List.range 256).filter (fun i => !u.contains i)
/-- The group slots whose spill areas hold the entries of a preempted group (R123). -/
def Core.areas (k : Core) : List Nat :=
  k.teamList.flatMap (fun e => if e.2.away then ((e.2.saved.zip e.2.gslots).filter (fun g => g.1.spilled ≠ 0)).map (·.2) else [])

/-- The free group slots in the order in which they are taken: those whose spill areas hold entries of a preempted group last. -/
def Core.freeGroups (k : Core) : List Nat :=
  let l := (List.range 64).filter (fun i => (k.group i).isNone)
  let a := k.areas
  l.filter (fun i => !a.contains i) ++ l.filter (fun i => a.contains i)

/-- Groups take slots: of a preempted group whose spilled entries stood in the area of one, the core keeps them itself, so that they
are in force at its resume (R122; DESIGN CHOICE, log entry 17). -/
def Core.takeAreas (k : Core) (slots : List Nat) : Core :=
  { k with teams := k.teams.map (fun e => (e.1, e.2.map (fun (t : Team) =>
      if t.away then
        { t with gslots := (t.saved.zip t.gslots).map (fun g => if g.1.spilled ≠ 0 && slots.contains g.2 then keptArea g.2 else g.2) }
      else t))) }

/-- Are the demands of a team met (R101)? -/
def Core.fits (k : Core) (g r l : Nat) : Bool :=
  g * ceilDiv r 8 ≤ k.freeRegs.length && ceilDiv l 1024 ≤ k.freeLocs.length && g ≤ k.freeGroups.length

/-- Does the core hold a preempted team (R119)? -/
def Core.holding (k : Core) : Bool := k.teamList.any (fun e => e.2.st == .preempted || e.2.st == .restoring)

/-- The context slots after a team of `tag` has come; `none`: no slot is free (R91). -/
def Core.takeCtx (k : Core) (tag : Nat) : Option (List (Option Nat)) :=
  if k.ctxs.contains (some tag) then some k.ctxs
  else match k.ctxs.findIdx? (fun c => c.isNone) with | some i => some (k.ctxs.set i (some tag)) | none => none

/-- A wake request: the core can issue once WAKE_DONE comes; one that comes during the drain before Nap cancels the entry (R464). -/
def Core.wake (k : Core) : Core :=
  match k.sleep with
  | .active => { k with draining := false }
  | .idle => { k with sleep := .active, draining := false }
  | _ => { k with waking := true }

/-! ### Order of placement (R346, R347) -/

/-- The cores that the Class 0 reservation of a partition names, as a mask (key 0x0401). -/
def State.resMask (s : State) (p : Nat) : Nat := at' (s.srec 0x0401 p) 0 32
def State.hasRes (s : State) (p : Nat) : Bool := s.resMask p != 0
def State.borrow (s : State) (p : Nat) : Bool := at' (s.srec 0x0401 p) 37 1 == 1

/-- The cores that running Class 0 commands of a partition hold. -/
def State.c0Cores (s : State) (p : Nat) : List Nat :=
  s.sqs.flatMap (fun e =>
    if e.2.part == p && e.2.cls == 0 then (e.2.cmds.filter (fun c => c.st == .running)).flatMap (·.cores) else [])

/-- May teams of a command run on core `c` (R91, R347)? -/
def State.mayUse (s : State) (q : Nat) (cmd : Cmd) (c : Nat) : Bool :=
  let v := s.sq q
  s.corePart c == some v.part && !(s.fence 0 32).testBit c &&
    (if v.cls = 0 then cmd.cores.contains c
     else !(s.resMask v.part).testBit c || (s.borrow v.part && !(s.c0Cores v.part).contains c))

/-- Has the command a team that is still to be placed? -/
def Cmd.unplaced (c : Cmd) : Bool := c.st == .running && !c.cancel && c.placed < c.total

/-- Could a team of the command be placed in a team slot of core `c` now? -/
def State.placeable (s : State) (q : Nat) (cmd : Cmd) (c slot : Nat) : Bool :=
  let k := s.core c
  cmd.unplaced && s.mayUse q cmd c && (k.team slot).isNone && k.fits (kG cmd.blk) (kR cmd.blk) (kL cmd.blk) &&
    (k.takeCtx (s.sq q).tag).isSome && (!k.holding || (s.sq q).cls == 0)

/-- The class by which a command is placed (R346). -/
def placeClass (v : Sq) (cmd : Cmd) : Nat := if v.cls = 2 && cmd.aged then 1 else v.cls

def noTurn (_ : Nat) : Nat := 4095

def State.turn (s : State) (p cls : Nat) : Nat := SMap.get noTurn s.turns (4 * p + cls)

/-- The rank of a command of queue `q` in its class: a command whose turn has begun, then queues in rotation, then sequence
order. -/
def State.placeRank (s : State) (q : Nat) (cmd : Cmd) : Nat :=
  let v := s.sq q
  let rot := if cmd.placed > 0 then 0 else 1 + (q + 4096 - s.turn v.part (placeClass v cmd) - 1) % 4096
  (placeClass v cmd * 8192 + rot) * 2 ^ 32 + distance 32 (v.head.toNat + 2 ^ 31) cmd.seq

/-- Does no other command of the partition that could be placed there come first (R346)? -/
def State.placeNext (s : State) (q : Nat) (cmd : Cmd) (c slot : Nat) : Bool :=
  let r := s.placeRank q cmd
  s.sqs.all (fun e =>
    e.2.part != (s.sq q).part || e.2.cmds.all (fun d => !(s.placeable e.1 d c slot) || s.placeRank e.1 d ≥ r))

/-! ### Placement (R101 to R103, R333) -/

/-- A group of a new team: all its threads live and active at the entry, registers zero, launch values in place. -/
def newGroup (slot idx : Nat) (entry : W64) (args : List W32) : Group :=
  { team := slot, gidx := idx, live := allLanes, act := allLanes, pc := entry, stack := [], bb := 0, x := [],
    u := args.zipIdx.foldl (fun m a => SMap.set zeroW32 m a.2 a.1) [], p := [], hold := .none, gstat := 0, xseq := 0 }

/-- The team with index `n` of a command, in ascending order with X varying fastest. -/
def newTeam (v : Sq) (q : Nat) (priv : Bool) (cmd : Cmd) (units lunits : List Nat) : Team :=
  let b := cmd.blk
  let n := cmd.placed
  { st := .running, cls := v.cls, tag := v.tag, part := v.part, priv := priv, g := kG b, r := kR b, l := kL b, q := q, seq := cmd.seq,
    tx := n % kX b, ty := n / kX b % kY b, tz := n / (kX b * kY b), units := units, lunits := lunits, bars := [], arrs := [],
    loc := [], saved := [], gslots := [], err := false, errMask := 0, errAddr := 0, errPc := 0, errG := 0, lent := false }

/-- The team is in its slot: its command counts it, and the turn of its queue ends with its last team. -/
def State.notePlaced (s : State) (c q : Nat) (cmd : Cmd) : State :=
  let s := s.modCmd q cmd.seq (fun d => { d with placed := d.placed + 1, seen := c :: d.seen })
  let v := s.sq q
  if cmd.placed + 1 ≥ cmd.total then { s with turns := SMap.set noTurn s.turns (4 * v.part + placeClass v cmd) q } else s

/-- Place the next team of a command in team slot `slot` of core `c`. -/
def State.placeTeam (s : State) (c slot q : Nat) (cmd : Cmd) : State :=
  let k := s.core c
  let b := cmd.blk
  let n := kG b * ceilDiv (kR b) 8
  let t := newTeam (s.sq q) q (s.ctx (s.sq q).tag).priv cmd (k.freeRegs.take n) (k.freeLocs.take (ceilDiv (kL b) 1024))
  let gs := k.freeGroups.take (kG b)
  -- the first team of a kernel on the core drops the context's instruction lines (R200)
  let k := if !(cmd.seen.contains c) then { k with ic := k.ic.filter (fun e => e.2.asid != t.tag) } else k
  let k := (k.setTeam slot (some t)).wake
  let k := { k with ctxs := (k.takeCtx t.tag).getD k.ctxs }
  let k := gs.zipIdx.foldl (fun k e => k.setGroup e.1 (some (newGroup slot e.2 (BitVec.ofNat 64 (kEntry b)) cmd.args))) k
  (s.setCore c (k.takeAreas gs)).notePlaced c q cmd

/-- TEAM_PLACEMENT: the core places a team once it can supply all that it needs. -/
def execTeamPlacement (c : Fin 256) (slot : Fin 16) (q : Fin 4096) (seq : W32) (s : State) : Out :=
  .next (s.whenService (fun s =>
    let s := s.sweepCmds
    match s.cmd q seq.toNat with
    | some cmd => if s.placeable q cmd c slot && s.placeNext q cmd c slot then s.placeTeam c slot q cmd else s
    | none => s))

/-! ### Fault records (R117) -/

/-- CORE_FAULT_RECORD: the chosen fault is recorded once its team's buffered stores have drained, and the team is freed. -/
def execCoreFaultRecord (c : Fin 256) (s : State) : Out :=
  .next (s.whenRuns (fun s =>
    let k := s.core c
    match k.fault with
    | none => s
    | some f =>
      match k.team f.team with
      | some tm => if k.spent f.team tm then ((s.recordFault c f).freeTeamAt c f.team).sweepCmds else s
      | none => (s.recordFault c f).sweepCmds))

/-! ### Preemption (R118 to R121) -/

def teamsOf (mask : Nat) : List Nat := (List.range 16).filter (fun i => mask.testBit i)

/-- May a team be preempted now? -/
def Team.preemptable (t : Team) : Bool := t.cls != 0 && (t.st == .running || t.st == .placing)

/-- A write has set CORE_PREEMPT.GO: the teams that can be preempted stop issuing; the others are refused and keep running. A
bit that names an empty slot names no team; without a frame every request is refused (R118). -/
def State.preemptGo (s : State) (c : Nat) : State :=
  let k := s.core c
  let named := (teamsOf (s.fld (Fld.CORE_PREEMPT_TEAMS c))).filterMap (fun i => (k.team i).map (fun t => (i, t)))
  let can := if (s.frame c).isNone || k.holding then [] else named.filter (fun e => e.2.preemptable)
  let s := if (s.frame c).isNone || can.length < named.length then s.setFldB (Fld.CORE_PREEMPT_REFUSED c) true else s
  if can.isEmpty then s.setFldB (Fld.CORE_PREEMPT_GO c) false
  else s.modCore c (fun k => can.foldl (fun (k : Core) e => (k.setTeam e.1 (some { e.2 with st := .saving })).wake) k)

/-- A group as it is saved: an instruction that waits for translation, in a fence or for a release has not executed and issues again
(R190). -/
def Group.forSave (g : Group) : Group :=
  match g.hold with
  | .xlate _ => { g with hold := .none }
  | .fence _ _ => { g with hold := .none }
  | .after _ => { g with hold := .none }
  | _ => g

/-- Write what a save puts into the frame (Table 03.7): the images of the team's local units and of its groups' registers; the
bytes of the group and team records are the core's own and free (R123, log entry 17). The spilled entries stand there already. -/
def State.writeFrame (s : State) (c slot : Nat) (t : Team) (gs : List (Nat × Group)) : State :=
  match s.frame c with
  | none => s
  | some b =>
    let s := t.lunits.zipIdx.foldl (fun s u => s.storeRun (b + 0x40000 + 0x400 * u.1) (t.locBytes (1024 * u.2) 1024)) s
    let s := gs.foldl (fun s g => (s.writeRegs b t g.2).writeFree (b + 0x80000 + 512 * g.1) 512) s
    s.writeFree (b + 0x96000 + 256 * slot) 256

/-- Save one team; the places of its units and groups stay known. -/
def State.saveTeam (s : State) (c slot : Nat) (t : Team) : State :=
  let gs := (s.core c).groupsOf slot
  let s := s.writeFrame c slot t gs
  let t' := { t with st := .preempted, saved := gs.map (fun (g : Nat × Group) => g.2.forSave), gslots := gs.map (·.1) }
  let s := s.modCore c (fun k =>
    { (k.setTeam slot (some t')) with
      groups := k.groups.filter (fun e => match e.2 with | some g => g.team != slot | none => true),
      kept := k.kept.filter (fun e => e.team != slot) })
  s.bump (Fld.CORE_PREEMPT_CNT_COUNT c) 1

/-- PREEMPT_COMPLETE: the save is written and GO clears. -/
def execPreemptComplete (c : Fin 256) (s : State) : Out :=
  .next (s.whenRuns (fun s =>
    if s.fldB (Fld.CORE_PREEMPT_GO c) then
      let l := (s.core c).teamList.filter (fun e => e.2.st == .saving)
      (l.foldl (fun s e => s.saveTeam c e.1 e.2) s).setFldB (Fld.CORE_PREEMPT_GO c) false
    else s))

/-! ### Resume (R122) -/

/-- The teams that CORE_RESUME names and that are in a state of `p`, with their slots. -/
def State.resumeNamed (s : State) (c : Nat) (p : Team → Bool) : List (Nat × Team) :=
  (teamsOf (s.fld (Fld.CORE_RESUME_TEAMS c))).filterMap (fun i =>
    match (s.core c).team i with
    | some t => if p t then some (i, t) else none
    | none => none)

/-- Free a preempted team. Where atomics of it or writes of its transfers are on their way, its slot goes when they have been made, and
its command ends after them (R182). -/
def State.dropTeam (s : State) (c t : Nat) : State :=
  let k := s.core c
  match k.team t with
  | some tm =>
    if k.writing t || k.reqs.any (fun r => r.team == t && r.isAtomic) then
      s.modCore c (fun k => k.setTeam t (some tm.dropped))
    else s.freeTeamAt c t
  | none => s

/-- CORE_RESUME.DISCARD: the named teams are freed without a resume, those whose restore has begun included (Table 03.8). -/
def State.discardGo (s : State) (c : Nat) : State :=
  let s := (s.resumeNamed c Team.away).foldl (fun s e => (s.endCmd e.2.q e.2.seq 6 0).dropTeam c e.1) s
  (s.setFldB (Fld.CORE_RESUME_GO c) false).sweepCmds

/-- A write has set CORE_RESUME.GO: the named preempted teams are to be restored, or are freed (log entry 18). -/
def State.resumeGo (s : State) (c : Nat) : State :=
  let named := s.resumeNamed c (fun t => t.st == .preempted)
  if s.fldB (Fld.CORE_RESUME_DISCARD c) then s.discardGo c
  else if named.isEmpty then s.setFldB (Fld.CORE_RESUME_GO c) false
  else s.modCore c (fun k => named.foldl (fun (k : Core) e => (k.setTeam e.1 (some { e.2 with st := .restoring })).wake) k)

/-- A poisoned sector of the save of a team (error 0x20). -/
def State.framePoison (s : State) (c slot : Nat) (t : Team) : Option Nat :=
  match s.frame c with
  | none => none
  | some b =>
    let places := t.units.map (fun u => (b + 0x400 * u, 1024)) ++ t.lunits.map (fun u => (b + 0x40000 + 0x400 * u, 1024)) ++
      (t.saved.zip t.gslots).flatMap (fun g =>
        (b + 0x80000 + 512 * (g.2 % 64), 512) :: (if g.1.spilled ≠ 0 && g.2 < 64 then [(spillAt b g.2, 16 * g.1.spilled)] else [])) ++
      [(b + 0x96000 + 256 * slot, 256)]
    (places.find? (fun a => s.runPoison a.1 a.2)).map (·.1)

/-- Restore a team, read back from its frame, into free units: its groups take free slots, and their spilled entries the areas of
those. A response that carried an error faults first (R121). -/
def State.restoreTeam (s : State) (c slot : Nat) (t : Team) : State :=
  let (s, t) := s.fromFrame c t
  let k := s.core c
  let t' := { t with
    st := .running, saved := [], gslots := [], units := k.freeRegs.take (t.g * ceilDiv t.r 8),
    lunits := k.freeLocs.take (ceilDiv t.l 1024), err := false }
  let put := t.saved.zip k.freeGroups
  let s := s.setCore c ((put.foldl (fun (k : Core) e => k.setGroup e.2 (some e.1)) (k.setTeam slot (some t'))).takeAreas (put.map (·.2)))
  let s := put.foldl (fun s e => if e.1.spilled ≠ 0 then s.writeSpill c e.2 0 e.1.stack else s) s
  if t.err then s.faultGroup c slot t.errG 0x0A t.errPc t.errMask t.errAddr
  else ((s.phases c slot).wakeCore c).tryFree c slot

/-- Has every request for a translation that a group of a preempted team made before its save ended, by a leaf or in failure? One that
stalls on a fault waits for the reply or the limit (R297). -/
def State.walksOver (s : State) (c slot : Nat) : Bool :=
  s.walks.all (fun r =>
    !(match r.stream with | .group c' t _ => c' == c && t == slot | _ => false) || (match r.st with | .leaf _ => true | .failed => true | _ => false))

/-- Is everything that was outstanding for a preempted team there: its requests, and the chunks that its transfers had begun (R121,
R122)? -/
def Core.answered (k : Core) (slot : Nat) : Bool :=
  !(k.reqs.any (fun r => r.team == slot)) && !(k.xfers.any (fun x => x.team == slot && !x.failed && !x.atChunk))

/-- RESUME_RESTORE: every outstanding response of the team has arrived and its demands can be met. -/
def execResumeRestore (c : Fin 256) (slot : Fin 16) (s : State) : Out :=
  .next (s.whenRuns (fun s =>
    let k := s.core c
    match k.team slot with
    | some t =>
      if t.st = .restoring && k.answered slot && s.walksOver c slot && k.fits (t.saved.length) 1 0 && k.fits 1 (8 * t.g * ceilDiv t.r 8) t.l then
        let s := match s.framePoison c slot t with
          | some a => s.unitErr 0x20 2 0 c (s.paOf a) slot (s.corePart c)
          | none => s.restoreTeam c slot t
        if (s.core c).teamList.any (fun e => e.2.st == .restoring) then s else s.setFldB (Fld.CORE_RESUME_GO c) false
      else s
    | none => s))

/-! ### Format counters and the generator (R68, R88, R90) -/

/-- FMT_GUARD_CTL.CNT_CLR clears the five counters of the core. -/
def State.fmtClear (s : State) (c : Nat) : State :=
  let s := [Fld.FMT_BLOCK_CNT_COUNT c, Fld.FMT_CLIP_CNT_COUNT c, Fld.FMT_FLAG_CNT_COUNT c, Fld.FMT_ESC_CNT_COUNT c,
    Fld.FMT_ESC_REFUSED_CNT_COUNT c].foldl (fun s f => s.setFld f 0) s
  s.setFldB (Fld.FMT_GUARD_CTL_CNT_CLR c) false

/-- A write of FMT_SR_SEED (R68). -/
def State.seedSr (s : State) (c : Nat) (v : W64) : State := s.modCore c (fun k => { k with sr := srSeed v })

/-! ### Buffered stores that end without an acknowledgement (R180, R187) -/

/-- MERGE_ENTRY_TIMEOUT: an entry that has been open for 128 core cycles closes. -/
def execMergeEntryTimeout (c : Fin 256) (k : Nat) (s : State) : Out :=
  .next (s.whenRuns (fun s =>
    s.modCore c (fun q => { q with mb := q.mb.map (fun e => if e.id == k then { e with closed := true } else e) })))

/-- A store was dropped for a dead peer: GSTATUS of the issuing group (R187). -/
def Group.peerDrop (g : Group) (chip : Nat) : Group :=
  let v := g.gstat.toNat
  { g with gstat := BitVec.ofNat 32 (setBits (setBits (setBits v 25 16 chip) 15 8 (min (bits v 15 8 + 1) 255)) 0 0 1) }

/-- The peer chip of a store's target (R187). -/
def State.peerOf (s : State) (t : Tgt) : Option Nat :=
  match t with
  | .coh c _ => if c = s.chip then none else some c
  | .window c _ _ => some c
  | _ => none

/-- The physical address of a target, for the log. -/
def tgtAddr (t : Tgt) : Nat :=
  match t with
  | .coh c a => c * 2 ^ 46 + a
  | .window c w o => c * 2 ^ 46 + winBase + w * 2 ^ 32 + o
  | .host a => a
  | .reg o => regBase + o
  | .err => 0

/-- Does anything wait for a buffered store: a fence, a release, or a drain (R187)? -/
def Core.waitsFor (k : Core) (id q seq : Nat) : Bool :=
  k.draining ||
  k.groupList.any (fun e => match e.2.hold with | .fence _ l => l.contains id | .after l => l.contains id | _ => false) ||
    k.sq.any (fun e => e.after.contains id) || k.reqs.any (fun r => r.after.contains id) ||
    k.xfers.any (fun x => x.after.contains id) || k.teamList.any (fun e => e.2.st == .stopping && e.2.q == q && e.2.seq == seq)

/-- Drop a store to a dead peer: logged, noted in GSTATUS, and the waits on it end (R187). -/
def State.dropStore (s : State) (c id : Nat) : State :=
  let k := s.core c
  let note := fun (s : State) (t : Tgt) (gs : List (Nat × Nat)) =>
    let chip := (s.peerOf t).getD 0
    let s := s.unitErr 0x14 1 0 c (tgtAddr t) chip (s.corePart c)
    gs.foldl (fun s g => s.modGroup c g.1 g.2 (fun g => g.peerDrop chip)) s
  match k.sq.find? (fun e => e.id == id), k.mb.find? (fun e => e.id == id) with
  | some e, _ =>
    ((note (s.modCore c (fun k => { k with sq := k.sq.filter (fun x => x.id != id) })) e.tgt [(e.team, e.gidx)]).wakeCore c).sweepCmds
  | none, some e =>
    ((note (s.modCore c (fun k => { k with mb := k.mb.filter (fun x => x.id != id) })) e.tgt (e.grps.map MergeBy.grp)).wakeCore c).sweepCmds
  | none, none => s

/-- Is entry `id` of a core a store to a peer that something waits for? -/
def State.peerWaited (s : State) (c id : Nat) : Bool :=
  let k := s.core c
  -- the drain of a command that has been ended, or whose teams have all gone
  let part := fun (q seq : Nat) => k.waitsFor id q seq ||
    (match s.cmd q seq with | some m => m.cancel || (m.placed ≥ m.total && !s.hasTeams q seq) | none => true)
  -- the drain of a partition that is to stop (Table 06.7)
  let stop := fun (p : Nat) => !(s.fld Fld.SET_PART_RUN_RUN).testBit p
  k.sq.any (fun e => e.id == id && (s.peerOf e.tgt).isSome && (stop e.part || part e.q e.seq)) ||
    k.mb.any (fun e => e.id == id && (s.peerOf e.tgt).isSome && (stop e.part || e.cmds.any (fun m => part m.1 m.2) || e.cmds.isEmpty))

/-- PEER_TIMEOUT: STW_PEER_TIMEOUT has passed since a wait on the store began. -/
def execPeerTimeout (c : Fin 256) (k : Nat) (s : State) : Out :=
  .next (s.whenRuns (fun s => if s.peerWaited c k then s.dropStore c k else s))

end Sys2Proof.Machine
end

