-- ==== Sys2Proof/Machine/Power.lean ====
section
/-! DEFINITION. Clock ceilings, the governor with its floors, the fast limiter, droop, thermal steps, the stack temperatures and the
sleep states of cores (R462 to R477). -/
namespace Sys2Proof.Machine

/-! ### Steps and ceilings (Tables 16.1 and 16.5) -/

def zeroNat (_ : Nat) : Nat := 0
def zeroInt (_ : Nat) : Int := 0
def maxCore (_ : Nat) : Nat := 2000

/-- The thermal step of a sensor (PWR_TEMP.SENSOR numbers them). -/
def State.thermStep (s : State) (n : Nat) : Nat := SMap.get zeroNat s.pwr.steps n

/-- The highest step among the sensors from `a` of `n`. -/
def State.topStep (s : State) (a n : Nat) : Nat := (List.range n).foldl (fun m i => max m (s.thermStep (a + i))) 0

def coreCeil (k : Nat) : Nat := match k with | 0 => 2000 | 1 => 1800 | 2 => 1400 | _ => 1000
def fabCeil (k : Nat) : Nat := match k with | 0 => 1600 | 1 => 1500 | 2 => 1200 | _ => 800
def galCeil (k : Nat) : Nat := match k with | 0 => 1000 | 1 => 900 | 2 => 800 | _ => 600

def State.fabStep (s : State) : Nat := s.topStep 256 64
def State.galStep (s : State) : Nat := s.topStep 320 64

/-- The effective fabric and Gallery port clocks (R462). -/
def State.fabClock (s : State) : Nat := min (fabCeil s.fabStep) s.pwr.fabGov / 100 * 100
def State.galClock (s : State) : Nat := min (galCeil s.galStep) s.pwr.galGov / 100 * 100

/-! ### Floors (R469) -/

def State.cap (s : State) : Nat := s.fld Fld.PWR_CAP_CAP

def State.floorOf (s : State) (p : Nat) : Nat := at' (s.srec 0x0401 p) 35 2

/-- The floors granted, as a mask: within the cap, together with those granted to lower-numbered partitions, and not withdrawn. -/
def State.granted (s : State) : Nat :=
  (parts16.foldl (fun (r : Nat × Nat) p =>
    if s.definedPart p && s.hasRes p && !s.pwr.noFloor.getLsbD p && r.2 + s.floorOf p ≤ s.cap then (r.1 + 2 ^ p, r.2 + s.floorOf p) else r)
    (0, 0)).1

/-- Is the tile of core `c` protected? -/
def State.protected_ (s : State) (c : Nat) : Bool :=
  match s.corePart c with
  | some p => (s.resMask p).testBit c && s.granted.testBit p
  | none => false

/-- The clock to which the jobs of a partition lower its cores (R406). -/
def State.slipClock (s : State) (p : Nat) : Nat := (s.pwr.slipClk.filter (fun e => e.1 / 65536 == p)).foldl (fun m e => min m e.2) 2000

/-- The effective core clock of a tile (R462): neither the governor nor the fast limiter touches a protected one. -/
def State.coreClock (s : State) (c : Nat) : Nat :=
  let slip := match s.corePart c with | some p => s.slipClock p | none => 2000
  let gov := if s.protected_ c then 2000 else min (SMap.get maxCore s.pwr.gov c) (SMap.get maxCore s.pwr.fastLim c)
  min (min (coreCeil (s.thermStep c)) gov) slip / 25 * 25

/-- The lowest clock among the awake cores of a partition; 0 where none is awake (R403). -/
def State.partClock (s : State) (p : Nat) : Nat :=
  let l := ((List.range 256).filter (fun c => s.corePart c == some p && ((s.core c).sleep == .active || (s.core c).sleep == .idle))).map s.coreClock
  l.foldl min (l.headD 0)

def noWork (_ : Nat) : Option Nat := none

/-- The work that the partitions do in `n` ns is counted toward the Landings of their jobs, at the clock that they have (R403). -/
def State.workOn (s : State) (n : Nat) : State :=
  if s.jobWork.isEmpty then s else { s with jobWork := s.jobWork.map (fun e => (e.1, e.2.map (· + n * s.partClock (e.1 / 65536)))) }

/-- SQ_C0_COND_p.THERMAL (R473). -/
def State.thermal (s : State) (p : Nat) : Bool :=
  (List.range 256).any (fun c => (s.resMask p).testBit c && coreCeil (s.thermStep c) < 1800) ||
    min (fabCeil s.fabStep) s.pwr.fabGov < 1500 || min (galCeil s.galStep) s.pwr.galGov < 900

/-- The conditions in force for a partition: SQ_C0_COND_p (R349, R350). -/
def State.c0Cond (s : State) (p : Nat) : Nat :=
  let b := fun (x : Bool) (i : Nat) => if x then 2 ^ i else 0
  b (!s.hasRes p) 0 + b (s.hasRes p && !s.granted.testBit p) 2 + b (s.thermal p) 3 + b (s.partErr p) 5 +
    b (s.ep.cont != .normal || s.ep.retrain) 6

/-- The promise ends where a power condition is in force (R350). -/
def State.powerVoid (s : State) : State :=
  s.partsOf.foldl (fun s p =>
    let k := s.c0Cond p
    let s := if k.testBit 2 then s.voidCmds 3 (fun q _ => (s.sq q).part == p) else s
    if k.testBit 3 then s.voidCmds 4 (fun q _ => (s.sq q).part == p) else s) s

/-- An event of PWR_INT_STATUS (R477). -/
def State.powEvent (s : State) (i : Nat) : State :=
  let s := s.setReg Reg.PWR_INT_STATUS (setBitTo (s.reg Reg.PWR_INT_STATUS) i true)
  if (s.fld Fld.PWR_INT_CTL_EN).testBit i then s.pendVec (s.fld Fld.PWR_INT_CTL_VEC) else s

/-! ### The governor (R468) -/

def State.modPwr (s : State) (f : Power → Power) : State := { s with pwr := f s.pwr }

/-- Is any lever below its maximum? -/
def Power.binding (p : Power) : Bool :=
  p.gov.any (fun e => e.2 < 2000) || p.fabGov < 1600 || p.galGov < 1000 || p.linkPct < 100 || p.hbmPct < 100

/-- The tiles that the compute levers reach. -/
def State.openTiles (s : State) : List Nat := (List.range 256).filter (fun c => !s.protected_ c)

/-- Lower a lever by a step to no less than its limit, and raise it to no more than its maximum. -/
def lowerTo (lim v step : Nat) : Nat := if v ≤ lim then v else max lim (v - step)
def raiseTo (lim v step : Nat) : Nat := if lim ≤ v then v else min lim (v + step)

/-- Lower the levers of a category, each once those before it in Table 16.3 have reached their limits; `none`: every lever has. -/
def State.lowerCat (s : State) (cat : Nat) (p : PowerSample) : Option State :=
  match cat with
  | 0 => if s.pwr.linkPct > 25 then some (s.modPwr (fun w => { w with linkPct := lowerTo 25 w.linkPct p.linkStep })) else none
  | 1 =>
    if s.pwr.hbmPct > 25 || s.pwr.galGov > 600 || s.pwr.fabGov > 800 then
      let hbm := lowerTo 25 s.pwr.hbmPct p.hbmStep
      let gal := if hbm ≤ 25 then lowerTo 600 s.pwr.galGov p.galStep else s.pwr.galGov
      let fab := if hbm ≤ 25 && gal ≤ 600 then lowerTo 800 s.pwr.fabGov p.fabStep else s.pwr.fabGov
      some (s.modPwr (fun w => { w with hbmPct := hbm, galGov := gal, fabGov := fab }))
    else none
  | _ =>
    let l := s.openTiles
    if l.any (fun c => SMap.get maxCore s.pwr.gov c > 500) then
      some (s.modPwr (fun w => { w with gov := l.foldl (fun m c => SMap.set maxCore m c (max 500 (SMap.get maxCore m c - p.tileStep))) w.gov }))
    else none

/-- Raise the levers of a category in reverse order; `none`: every lever is at its maximum. -/
def State.raiseCat (s : State) (cat : Nat) (p : PowerSample) : Option State :=
  match cat with
  | 0 => if s.pwr.linkPct < 100 then some (s.modPwr (fun w => { w with linkPct := raiseTo 100 w.linkPct p.linkStep })) else none
  | 1 =>
    if s.pwr.fabGov < 1600 || s.pwr.galGov < 1000 || s.pwr.hbmPct < 100 then
      let fab := raiseTo 1600 s.pwr.fabGov p.fabStep
      let gal := if 1600 ≤ fab then raiseTo 1000 s.pwr.galGov p.galStep else s.pwr.galGov
      let hbm := if 1600 ≤ fab && 1000 ≤ gal then raiseTo 100 s.pwr.hbmPct p.hbmStep else s.pwr.hbmPct
      some (s.modPwr (fun w => { w with hbmPct := hbm, galGov := gal, fabGov := fab }))
    else none
  | _ =>
    if s.pwr.gov.isEmpty then none
    else
      some (s.modPwr (fun w => { w with gov := (List.range 256).foldl (fun m c => SMap.set maxCore m c (min 2000 (SMap.get maxCore m c + p.tileStep))) w.gov }))

/-- The first category of a list that gives a change. -/
def firstCat (f : Nat → Option State) : List Nat → Option State
  | [] => none
  | c :: r => match f c with | some s => some s | none => firstCat f r

/-- withdraw_floor: the highest-numbered granted floor, one every 10 ms, while the 10 ms average exceeds the cap (R469). -/
def State.withdrawFloor (s : State) (p : PowerSample) : State :=
  match (parts16.reverse).find? (fun q => s.granted.testBit q) with
  | some q =>
    if p.avg10ms > s.cap && s.pwr.sinceWd ≥ 100 then
      ((s.modPwr (fun w => { w with noFloor := w.noFloor ||| (1#16 <<< q), sinceWd := 0 })).bump Fld.PWR_FLOOR_REL_CNT_COUNT 1).powEvent 3
    else s
  | none => s

/-- A withdrawn floor is granted again, the lowest-numbered first, once the 10 ms average has stayed 50 W below the cap for
100 ms. -/
def State.regrantFloor (s : State) : State :=
  match parts16.find? (fun q => s.pwr.noFloor.getLsbD q) with
  | some q =>
    if s.pwr.okFor ≥ 1000 then
      (s.modPwr (fun w => { w with noFloor := w.noFloor &&& ~~~ (1#16 <<< q), okFor := 0 })).powEvent 3
    else s
  | none => s

/-- Chip power and its categories over one iteration, with the energy of its 100 µs. -/
def State.noteSample (s : State) (p : PowerSample) : State :=
  let s := s.modPwr (fun w => { w with sample := p })
  let s := (s.setFld Fld.PWR_POWER_TOTAL p.avg1ms).setFld Fld.PWR_POWER_HBM p.hbm
  let s := (((s.setFld Fld.PWR_POWER_CAT_OTHER p.other).setFld Fld.PWR_POWER_CAT_LINKS p.links).setFld Fld.PWR_POWER_CAT_MEMORY
    p.memory).setFld Fld.PWR_POWER_CAT_COMPUTE p.compute
  let add := fun (s : State) (r w : Nat) => s.setReg r (s.reg r + 100 * w)
  add (add (add (add (add s Reg.PWR_ENERGY_TOTAL p.avg1ms) Reg.PWR_ENERGY_COMPUTE p.compute) Reg.PWR_ENERGY_MEMORY p.memory)
    Reg.PWR_ENERGY_LINKS p.links) Reg.PWR_ENERGY_HBM p.hbm

/-- BINDING and FAST as the levers stand. -/
def State.noteBinding (s : State) : State :=
  let b := s.pwr.binding
  let s := s.setFldB Fld.PWR_STATUS_FAST (!s.pwr.fastLim.isEmpty)
  if s.fldB Fld.PWR_STATUS_BINDING = b then s
  else
    let s := (s.setFldB Fld.PWR_STATUS_BINDING b).powEvent 1
    if b then s.bump Fld.PWR_CAP_BIND_CNT_COUNT 1 else s

/-- GOVERNOR_ITERATION: every 100 µs. -/
def execGovernorIteration (p : PowerSample) (s : State) : Out :=
  .next (s.whenService (fun s =>
    let s := s.noteSample p
    let s := s.modPwr (fun w => { w with
      fastLim := [], sinceWd := w.sinceWd + 1, okFor := if p.avg10ms + 50 ≤ s.cap then w.okFor + 1 else 0 })
    let cats := [s.fld Fld.PWR_PRIO_THIRD, s.fld Fld.PWR_PRIO_SECOND, s.fld Fld.PWR_PRIO_FIRST]
    let s :=
      if p.avg1ms > s.cap then (firstCat (fun c => s.lowerCat c p) cats).getD (s.withdrawFloor p)
      else if p.avg1ms + 50 < s.cap then (firstCat (fun c => s.raiseCat c p) cats.reverse).getD s
      else s
    (s.regrantFloor.noteBinding).powerVoid))

/-- FAST_LIMITER: halves the core clock ceiling of every unprotected tile, to no lower than 0.5 GHz (R470). -/
def execFastLimiter (s : State) : Out :=
  .next (s.whenRuns (fun s =>
    let s := s.modPwr (fun w => { w with
      fastLim := s.openTiles.foldl (fun m c => SMap.set maxCore m c (max 500 (s.coreClock c / 2))) w.fastLim })
    ((s.bump Fld.PWR_FAST_LIMIT_CNT_COUNT 1).powEvent 2).noteBinding))

/-! ### Droop (R471) -/

/-- DROOP: the tile's clock period doubles. -/
def execDroop (tile : Fin 256) (s : State) : Out :=
  .next (s.whenRuns (fun s =>
    (s.modPwr (fun w => { w with droop := SMap.set noPoison w.droop tile true, droops := w.droops + 1 })).bump Fld.PWR_DROOP_CNT_COUNT 1))

/-- DROOP_END: the supply has recovered. -/
def execDroopEnd (tile : Fin 256) (s : State) : Out :=
  .next (s.whenRuns (fun s => s.modPwr (fun w => { w with droop := SMap.set noPoison w.droop tile false })))

/-! ### Stopping (R475, R476) -/

/-- A stop for a cause (0 coolant, 1 trip, 2 rail): the cause is latched, and a chip that still runs records its Fatal error,
which stops it (R491, Table 17.8); on a stopped or frozen one the cause is recorded only (Table 01.9). -/
def State.stopFor (s : State) (cause info : Nat) : State :=
  let s : State := { s with aon := { s.aon with stopLatch := s.aon.stopLatch ||| (1#3 <<< cause) } }
  if s.aon.dev = .stopped || s.aon.dev = .frozen then s
  else s.raiseErr ⟨(if cause = 0 then 0x35 else if cause = 1 then 0x36 else 0x34), 3, 8, 0, 0, info, none⟩

/-! ### Thermal steps (R472) -/

/-- The step of a sensor at `t` °C that stood at step `k` (Table 16.5). -/
def nextStep (k : Nat) (t : Int) : Nat :=
  let up := if t ≥ 111 then 3 else if t ≥ 108 then 2 else if t ≥ 105 then 1 else 0
  let stay := if k ≥ 3 && t ≥ 108 then 3 else if k ≥ 2 && t ≥ 105 then 2 else if k ≥ 1 && t ≥ 102 then 1 else 0
  max up stay

/-- One sensor's sample. -/
def State.sampleOne (s : State) (n : Nat) (t : Int) : State :=
  let k := s.thermStep n
  let k' := nextStep k t
  let s := s.modPwr (fun w => { w with steps := SMap.set zeroNat w.steps n k', temps := SMap.set zeroInt w.temps n t })
  let s := if k' > k then s.bump Fld.PWR_THROTTLE_CNT_COUNT 1 else s
  if k' = k then s else s.powEvent 0

/-- THERMAL_SAMPLE: every 2 µs hardware samples the junction sensors; 115 °C on any of them trips (R37), whatever else holds the clocks
(Table 01.9). -/
def execThermalSample (temps : List (Fin 408 × Int)) (s : State) : Out :=
  .next (
    if !s.aon.vdd || s.aon.cold then s
    else
      let s := if s.aon.fast then (temps.foldl (fun s e => s.sampleOne e.1 e.2) s).powerVoid else s
      match temps.find? (fun e => e.2 ≥ 115) with
      | some e => ({ s with aon := { s.aon with trip := true } } : State).stopFor 1 e.1
      | none => s)

/-- HBM_TEMP_READ: a stack reports its temperature (R474). -/
def execHbmTempRead (stack : Fin 8) (celsius : Nat) (s : State) : Out :=
  .next (s.whenRuns (fun s =>
    if !(s.fld Fld.L2C_CFG_HBM_MASK).testBit stack then s
    else
      let lim := s.fld Fld.PWR_HBM_TLIM_TLIM
      let s := s.modPwr (fun w => { w with hbmT := SMap.set zeroNat w.hbmT stack celsius })
      let hot := s.pwr.hbmHot.getLsbD stack
      if celsius > lim && !hot then
        ((s.modPwr (fun w => { w with hbmHot := w.hbmHot ||| (1#8 <<< stack.val) })).bump Fld.PWR_THROTTLE_CNT_COUNT 1).powEvent 4
      else if celsius + 5 < lim then s.modPwr (fun w => { w with hbmHot := w.hbmHot &&& ~~~ (1#8 <<< stack.val) })
      else s))

/-! ### Sleep states of a core (R463, R464) -/

/-- The deepest sleep state of a core: 0 Idle, 1 Nap, 2 Off (key 0x0308). -/
def State.deepest (s : State) (c : Nat) : Nat :=
  match s.corePart c with
  | some p => min (s.snat 0x0308 p) 2
  | none => 2

/-- May a group of the core issue? -/
def Core.canIssue (k : Core) : Bool :=
  k.groupList.any (fun e => k.unheld e.2 && e.2.live != 0 && (match k.team e.2.team with | some t => t.st == .running | none => false))

/-- IDLE_ENTRY: no group can issue for 32 core cycles. -/
def execIdleEntry (c : Fin 256) (s : State) : Out :=
  .next (s.whenRuns (fun s =>
    s.modCore c (fun k => if k.sleep = .active && !k.canIssue then { k with sleep := .idle } else k)))

/-- NAP_ENTRY: the core has held no resident team for NAP_HOLD. The drain of R186 comes first: the entries of the merging buffer
close (Table 06.5), and the core enters Nap at the first such event that finds its buffers empty. -/
def execNapEntry (c : Fin 256) (s : State) : Out :=
  .next (s.whenRuns (fun s =>
    s.modCore c (fun k =>
      if (k.sleep = .active || k.sleep = .idle) && !k.waking && s.deepest c ≥ 1 && k.teamList.all (fun e => e.2.st == .preempted) then
        (if k.sq.isEmpty && k.mb.isEmpty then { k with sleep := .nap, draining := false }
         else { k with draining := true, mb := k.mb.map (fun e => { e with closed := true }) })
      else k)))

/-- OFF_ENTRY: the core has been in Nap for OFF_HOLD and holds no preempted team. -/
def execOffEntry (c : Fin 256) (s : State) : Out :=
  .next (s.whenRuns (fun s =>
    s.modCore c (fun k =>
      if k.sleep = .nap && !k.waking && s.deepest c ≥ 2 && k.teamList.isEmpty then { k with sleep := .off } else k)))

/-- WAKE_DONE: the core can issue; after Off its L1, instruction cache and translation buffers are empty and the generator is as
after warm reset. -/
def execWakeDone (c : Fin 256) (s : State) : Out :=
  .next (s.whenRuns (fun s =>
    let k := s.core c
    if !k.waking then s
    else if k.sleep = .off then
      (((s.setTlb (fetchBuf c) []).setTlb (lsBuf c) []).setTlb (xferBuf c) []).setCore c
        { k with sleep := .active, waking := false, l1 := [], ic := [], sr := srZero }
    else s.setCore c { k with sleep := .active, waking := false }))

end Sys2Proof.Machine
end

