-- ==== Sys2Proof/Machine/Arrays.lean ====
section
/-! DEFINITION. Errors in the arrays, patrol scrubbing and refresh, range maintenance and way power (R200 to R224, R496). -/
namespace Sys2Proof.Machine

/-! ### Instruction cache and L1 (R201, R203) -/

/-- ICACHE_PARITY_ERROR: the line is invalidated, and its next fetch refills it. -/
def execIcacheParityError (c : Fin 256) (set : Fin 128) (way : Fin 4) (s : State) : Out :=
  .next (s.whenRuns (fun s =>
    let l := SMap.get l1Default (s.core c).ic (set * 8 + way)
    if !l.valid then s
    else
      (s.modCore c (fun k => { k with ic := SMap.set l1Default k.ic (set * 8 + way) L1Line.empty })).parityErr ⟨1, 0, 0, c, l.line * 128, way, s.corePart c⟩))

def noCount (_ : Nat) : Nat × Nat := (0, 0)

/-- The bit of a way in L2C_L1_DIS. -/
def State.l1Disable (s : State) (c way : Nat) : State :=
  let r := Reg.L2C_L1_DIS (c / 4)
  (s.setReg r (setBitTo (s.reg r) (8 * (c % 4) + way) true)).modCore c (fun k => { k with l1 := k.l1.filter (fun e => e.1 % 8 != way) })

/-- L1_PARITY_ERROR at core cycle `cycle`: the fourth error of a way in its window disables it. -/
def execL1ParityError (c : Fin 256) (set : Fin 128) (way : Fin 8) (cycle : Nat) (s : State) : Out :=
  .next (s.whenRuns (fun s =>
    let l := SMap.get l1Default (s.core c).l1 (set * 8 + way)
    if !l.valid then s
    else
      let (n, t) := SMap.get noCount (s.core c).l1cnt way
      let (n, t) := if n = 0 || cycle ≥ t + 2 ^ 24 then (0, cycle) else (n, t)
      let s := s.modCore c (fun k =>
        { k with l1 := SMap.set l1Default k.l1 (set * 8 + way) L1Line.empty, l1cnt := SMap.set noCount k.l1cnt way (n + 1, t) })
      let dis := n + 1 = 4
      let s := if dis then s.l1Disable c way else s
      s.parityErr ⟨2, 0, 0, c, l.line * 128, way + (if dis then 0x8000 else 0), s.corePart c⟩))

/-! ### The L2 (Table 07.7) -/

/-- The partition of a line's memory on this chip. -/
def State.linePart (s : State) (pa : Nat) : Option Nat := if s.lkind pa = .local_ then s.partOfAddr (pa % 2 ^ 46) else none

/-- A clean sector is invalidated, its L1 copies first, and read again into the same way, which keeps its age and lock: from below the
L2 for memory of this chip, else by a request to its home or host (R209, R237). -/
def State.refetch (s : State) (pa : Nat) : State :=
  let a := pa % 2 ^ 46
  let age := match s.l2Find pa with | some k => some (s.l2At k).age | none => none
  let host := s.hostBias a
  let s := s.l2Unload pa
  match s.lkind pa, age with
  | .local_, some n =>
    if host then s.askCxl (a / 64 * 64) .rdShared age 0
    else let (d, p) := s.belowL2 a; (s.l2Fill 0 pa n ⟨.s, p, d⟩).1
  | .host, _ => s.askCxl (a / 64 * 64) .rdShared age 0
  | .peer, _ => s.askPeer (pa / 64 * 64) .rds age 0
  | _, none => s

/-- Refetch the valid sectors of a line. -/
def State.refetchLine (s : State) (l : L2Line) : State :=
  let s := if (l.sec 0).st = .i then s else s.refetch (l.line * 128)
  if (l.sec 64).st = .i then s else s.refetch (l.line * 128 + 64)

/-- L2_ERROR: an error in the data or tag of a way. -/
def execL2Error (slice : Fin 64) (set : Fin 1024) (way : Fin 16) (sector : Fin 2) (kind : L2Err) (s : State) : Out :=
  .next (s.whenRuns (fun s =>
    let k := l2Key slice set way
    let l := s.l2At k
    let pa := l.line * 128 + 64 * sector
    let x := l.sec pa
    let e : ErrIn := ⟨3, 0, 1, slice, l.line * 128, way, s.linePart pa⟩
    if !l.valid then s
    else
      match kind with
      | .dataSingle =>
        if x.st = .i then s
        else
          -- escalated, the corrected data was the current copy (R496)
          let s' := if (s.escalate e).1 = 0 then s else s.setL2 k (l.setSec pa { x with poison := true })
          s'.parityErr e
      | .dataMulti =>
        if x.st = .i then s
        else if x.st = .m then (s.setL2 k (l.setSec pa { x with poison := true })).raiseErr { e with code := 0x10, cls := 1, addr := pa }
        else (s.refetch pa).parityErr e
      | .tagParity =>
        if l.dirty then s.raiseErr { e with code := 0x30, cls := 3, addr := 0, part := none }
        else (s.refetchLine l).parityErr e))

/-! ### Gallery, memory-side cache and HBM (Table 07.7, R224) -/

/-- GALLERY_ERROR in bank `bank` at offset `w` of it: single-bit errors are corrected, others poison the sector. -/
def execGalleryError (bank : Fin 256) (w : BitVec 23) (multi : Bool) (s : State) : Out :=
  .next (s.whenRuns (fun s =>
    let a := galleryLin + bank * 0x800000 + w.toNat / 64 * 64
    if w.toNat ≥ s.tier0W then s
    else
      let e : ErrIn := ⟨if multi then 0x11 else 4, if multi then 1 else 0, 2, bank, s.paOf a, 0, s.partOfAddr a⟩
      let bad := multi || (s.escalate e).1 ≠ 0
      (if bad then s.setArrPoison a true else s).raiseErr e))

/-- MSC_ERROR in the memory-side cache's copy of an HBM sector; its bank is not architectural (R218, log entry 10). In a dirty line a
sector in error is written to HBM as poisoned, whether or not it is itself dirty, and a data error in a sector that the way does not
hold takes no action, in a clean line too (R220, Table 07.7). -/
def execMscError (addr : BitVec 46) (kind : MscErr) (s : State) : Out :=
  .next (s.whenRuns (fun s =>
    let a := addr.toNat / 64 * 64
    match s.mscFind a with
    | none => s
    | some k =>
      let l := s.mscAt k
      if kind = .data && (l.sec a).isNone then s
      else
        let (s, n) := s.takeFree
        let bank := (Config.freeByte n).toNat
        if !l.dirty then
          (s.setMscLine k MscLine.empty).parityErr ⟨5, 0, 2, bank, s.paOf (l.line * 128), 0, s.partOfAddr (l.line * 128)⟩
        else
          match kind, l.sec a with
          | .data, some x =>
            ((s.writeArr a x.data true).setMscLine k (l.setSec a none)).unitErr 0x12 1 2 bank (s.paOf a) 0 (s.partOfAddr a)
          | _, _ => s.unitErr 0x31 3 2 bank 0 0 none))

/-- HBM_ERROR that a stack reports. -/
def execHbmError (addr : BitVec 46) (uncorrectable : Bool) (s : State) : Out :=
  .next (s.whenRuns (fun s =>
    let a := addr.toNat / 64 * 64
    if a ≥ s.hbmCap then s
    else
      let st := s.stackOf a
      let full := !s.arrPoison a && s.poisonUsed st ≥ 1024
      if uncorrectable then
        if full then s.memErr 0x32 3 3 st a 0
        else let s := s.setArrPoison a true; s.memErr 0x13 1 3 st a (s.poisonUsed st)
      else
        let e : ErrIn := ⟨6, 0, 3, st, s.paOf a, 0, s.partOfAddr a⟩
        let s' := if (s.escalate e).1 ≠ 0 then s.poisonArr a else s
        s'.raiseErr e))

/-- PATROL_SCRUB reads a place of the Gallery or of HBM; the errors it finds arrive as their own commands (R222). -/
def execPatrolScrub (_addr : BitVec 46) (s : State) : Out := .next s

/-- HBM_REFRESH keeps the contents (R223). -/
def execHbmRefresh (_stack : Fin 8) (s : State) : Out := .next s

/-! ### Range maintenance (R211 to R215) -/

/-- The outcome of a command of a channel: GO clears, DONE is set with the result. -/
def State.chanEnd (s : State) (go done res : FRef) (r : Nat) : State := ((s.setFldB go false).setFld res r).setFldB done true

def State.mntEnd (s : State) (c r : Nat) : State :=
  s.chanEnd (Fld.L2C_MNT_CMD_GO c) (Fld.L2C_MNT_STATUS_DONE c) (Fld.L2C_MNT_STATUS_RESULT c) r

def State.mntAddr (s : State) (c : Nat) : Nat := s.fld (Fld.L2C_MNT_ADDR_ADDR c)
def State.mntLen (s : State) (c : Nat) : Nat := s.fld (Fld.L2C_MNT_LEN_LEN c)
def State.mntPart (s : State) (c : Nat) : Nat := s.fld (Fld.L2C_MNT_CMD_PARTITION c)
def State.mntOp (s : State) (c : Nat) : Nat := s.fld (Fld.L2C_MNT_CMD_OP c)

/-- The engines that home lines of a range: any 256 KiB reach every slice but in the linear alias, where a bank names one. -/
def rangeEngines (a len : Nat) : Nat :=
  let slices :=
    if galleryLin ≤ a && isGallery a then (List.range (len / 0x800000 + 2)).filterMap (fun i =>
      let b := a / 0x800000 * 0x800000 + i * 0x800000
      if b < a + len then some (sliceOf b) else none)
    else (List.range (min (len / 128) 2048)).map (fun i => sliceOf (canon (a + 128 * i)))
  slices.foldl (fun m x => m ||| 2 ^ (x / 8)) 0

/-- BUSY of the engines, from the channels whose GO is 1. -/
def State.noteBusy (s : State) : State :=
  s.setFld Fld.L2C_MNT_ENG_BUSY_BUSY ((List.range 8).foldl (fun m c =>
    if s.fldB (Fld.L2C_MNT_CMD_GO c) then m ||| rangeEngines (s.mntAddr c) (s.mntLen c) else m) 0)

/-- Does R213 reject the range of a channel? -/
def State.mntBad (s : State) (c : Nat) : Bool :=
  let a := s.mntAddr c
  let n := s.mntLen c
  a % 128 != 0 || n % 128 != 0 || n == 0 || !(isHbm a || isGallery a) || !(isHbm (a + n - 1) || isGallery (a + n - 1)) ||
    !s.ownsRange (s.mntPart c) a n

def noPos (_ : Nat) : Nat := 0

/-- How many lines of its range the preload of a channel has acted on. -/
def State.mntDone (s : State) (c : Nat) : Nat := SMap.get noPos s.mntPos c

def State.setMntDone (s : State) (c n : Nat) : State := { s with mntPos := SMap.set noPos s.mntPos c n }

/-- A write has set GO of a maintenance channel. Of two results that apply, 0b010 comes before 0b001 (DESIGN CHOICE, log entry 130). -/
def State.mntGo (s : State) (c : Nat) : State :=
  let s := (s.setReg (Reg.L2C_MNT_COUNT c) 0).setMntDone c 0
  if s.mntOp c = 1 && c ≥ 6 then s.mntEnd c 2
  else if s.mntBad c then s.mntEnd c 1
  else s.noteBusy

/-- The lines of the range in the ways of the partition, by key (Table 07.4). -/
def State.mntLines (s : State) (c : Nat) : List Nat :=
  let a := s.mntAddr c
  let n := s.mntLen c
  let m := s.fld (Fld.L2C_PART_WAYS_MASK (s.mntPart c))
  (s.l2.filter (fun e =>
    (e.2.valid || e.2.lock.isSome) && m.testBit (e.1 % 16) && e.2.line * 128 / 2 ^ 46 == s.chip &&
      covers a n (e.2.line * 128 % 2 ^ 46))).map (·.1)

/-- Clean a line: its dirty sectors go to memory. The Bools: whether one was written, and whether with poison. -/
def State.cleanLine (s : State) (k : Nat) : State × Bool × Bool :=
  let l := s.l2At k
  let a := l.line * 128 % 2 ^ 46
  let x := l.sec 0
  let y := l.sec 64
  let dirty := fun (x : Sector) => x.st == .m
  let put := fun (s : State) (x : Sector) (b : Nat) => if dirty x then s.writeMem b x.data x.poison else s
  if !l.valid then (s, false, false)
  else ((put (put s x a) y (a + 64)).setL2 k l.cleaned, l.dirty, (dirty x && x.poison) || (dirty y && y.poison))

/-- Progress of a range operation: the state, lines written, lines short, poison written, everything done. -/
structure MntRes where
  s     : State
  wr    : Nat
  short : Nat
  pois  : Bool
  ok    : Bool
  deriving DecidableEq, Repr

/-- One line of a clean, an invalidate, a clean-and-invalidate or an unlock. -/
def MntRes.line (r : MntRes) (op p k : Nat) : MntRes :=
  let (s, w, po) := if op = 0 || op = 2 then r.s.cleanLine k else (r.s, false, false)
  let r := { r with s := s, wr := r.wr + (if w then 1 else 0), pois := r.pois || po }
  let l := s.l2At k
  match op with
  | 0 => r
  | 1 => { r with s := (s.l1Inval l.rows l.line none).setL2 k L2Line.empty }
  | 2 => { r with s := if l.valid then s.evictWay k else s.setL2 k L2Line.empty }
  | _ => if l.lock = some p then { r with s := s.setL2 k { l with lock := none, age := 1 } } else r

/-- Fetch one line into the ways of partition `p` and lock it (R208, Table 07.4): a line that is present in a way outside its MASK is left
there and counts as short. -/
def MntRes.preload (r : MntRes) (p pa : Nat) : MntRes :=
  let mask := r.s.fld (Fld.L2C_PART_WAYS_MASK p)
  let away : Bool := match r.s.l2Find pa with | some k => !mask.testBit (k % 16) | none => false
  let get := fun (s : State) (q : Nat) =>
    if away || (s.l2Sec q).isSome then (s, true) else match s.readSec p q (some 0) with | (s, some _) => (s, true) | (s, none) => (s, false)
  let (s, a) := get r.s pa
  let (s, b) := get s (pa + 64)
  if !(a && b) then { r with s := s, ok := false }
  else
    let (s, lk) := s.l2Lock p pa
    let s := match s.l2Find pa with | some k => if away then s else s.setL2 k { s.l2At k with age := 0 } | none => s
    { r with s := s, short := r.short + (if lk then 0 else 1) }

/-- Has the line of the range of `n` bytes at `base` that local address `x` names been named through the interleaved alias before (R213)? -/
def namedBefore (base n x : Nat) : Bool := galleryLin ≤ x && isGallery x && base ≤ interOf x && interOf x < base + n

/-- The preload of a channel goes on, line by line in ascending order, until it has to wait for one. -/
def State.mntPreload (s : State) (c : Nat) : MntRes :=
  let base := s.mntAddr c
  let n := s.mntLen c
  (List.range (n / 128 - s.mntDone c)).foldl (fun (r : MntRes) _ =>
    if !r.ok then r
    else
      let i := r.s.mntDone c
      let x := base + 128 * i
      let t := if namedBefore base n x then r else r.preload (s.mntPart c) (s.paOf (canon x))
      if t.ok then { t with s := t.s.setMntDone c (i + 1) } else t) ⟨s, 0, 0, false, true⟩

/-- Carry out the operation of a channel. -/
def State.mntRun (s : State) (c : Nat) : MntRes :=
  let r : MntRes := ⟨s, 0, 0, false, true⟩
  let p := s.mntPart c
  if s.mntOp c = 3 then s.mntPreload c else (s.mntLines c).foldl (fun r k => r.line (s.mntOp c) p k) r

/-- MAINTENANCE_DONE: the operation of the channel ends. -/
def execMaintenanceDone (ch : Fin 8) (s : State) : Out :=
  .next (s.whenRuns (fun s =>
    if !s.fldB (Fld.L2C_MNT_CMD_GO ch) then s
    else
      let r := s.mntRun ch
      let short := r.s.fld (Fld.L2C_MNT_COUNT_SHORT ch) + r.short
      let s := (r.s.setFld (Fld.L2C_MNT_COUNT_WRITTEN ch) r.wr).setFld (Fld.L2C_MNT_COUNT_SHORT ch) short
      if !r.ok then s else (s.mntEnd ch (if short > 0 then 3 else if r.pois then 4 else 0)).noteBusy))

/-! ### Way power (R210) -/

/-- A write has set L2C_WAY_PWR.GO. -/
def State.wayGo (s : State) : State :=
  let t := s.fld Fld.L2C_WAY_PWR_TARGET
  let p := s.fld Fld.L2C_WAY_STATE_POWERED
  let locked := s.l2.any (fun e => e.2.lock.isSome && p.testBit (e.1 % 16) && !t.testBit (e.1 % 16))
  let few := s.partsOf.any (fun q => popBits 16 (s.fld (Fld.L2C_PART_WAYS_MASK q) &&& t) < 2)
  -- a request that would power a fenced way is refused (R487)
  if locked || few || t &&& s.fence 0x21 2 ≠ 0 then (s.setFldB Fld.L2C_WAY_PWR_REFUSED true).setFldB Fld.L2C_WAY_PWR_GO false
  else s.setFld Fld.L2C_WAY_STATE_CHANGING (t ^^^ p)

/-- WAY_POWER_DONE: the lines of the ways powered down are cleaned and invalidated, and the ways that come up are empty. -/
def execWayPowerDone (s : State) : Out :=
  .next (s.whenRuns (fun s =>
    if !s.fldB Fld.L2C_WAY_PWR_GO then s
    else
      let t := s.fld Fld.L2C_WAY_PWR_TARGET
      let keys := (s.l2.filter (fun e => e.2.valid && !t.testBit (e.1 % 16))).map (·.1)
      let s := keys.foldl (fun s k => s.evictWay k) s
      ((s.setFld Fld.L2C_WAY_STATE_POWERED t).setFld Fld.L2C_WAY_STATE_CHANGING 0).setFldB Fld.L2C_WAY_PWR_GO false))

end Sys2Proof.Machine
end

