-- ==== Sys2Proof/Machine/Coherence.lean ====
section
/-! DEFINITION. The coherence messages of the Stairway at the home and at a peer, CXL.mem and CXL.cache, bias flips and the
walk after a containment (R231 to R263). -/
namespace Sys2Proof.Machine

/-! ### Acknowledgements of writes that left the core -/

/-- How an uncached write ends: performed, with an error response, or poisoned in the hold buffer (R321). -/
inductive AckHow where
  | ok | bad | poisoned
  deriving DecidableEq, Repr

/-- A store to host memory was poisoned in containment (R189). -/
def Group.hostErr (g : Group) : Group := { g with gstat := g.gstat ||| 2 }

/-- A transfer of a core with nothing left to do leaves its engine, and what waits on it goes on (R161). -/
def State.xferOver (s : State) (c id : Nat) : State :=
  match (s.core c).xfers.find? (fun x => x.id == id) with
  | none => s
  | some x =>
    if x.done ≥ x.total && x.pend = [] && !x.failed then
      ((s.modCore c (fun k => { k with xfers := k.xfers.filter (fun y => y.id != id) })).wakeCore c).tryFree c x.team
    else s.wakeCore c |>.tryFree c x.team

/-- One write of a transfer is acknowledged, of generation `g`; one that the drain limit has ended already counts no more (R288). -/
def Xfer.acked (x : Xfer) (g : Nat) (how : AckHow) : Xfer :=
  if !x.pend.contains g then x
  else { x with pend := x.pend.erase g, failed := x.failed || how != .ok, bad := if how != .ok && !x.failed then x.dst + BitVec.ofNat 64 x.done else x.bad }

/-- The groups that have written into an entry in ascending order of their slots, the order in which they fault together (R116). -/
def Core.bySlotOf (k : Core) (l : List MergeBy) : List MergeBy :=
  let here := fun (m : MergeBy) (n : Nat) => match k.group n with | some g => m.team == g.team && m.gidx == g.gidx | none => false
  let m := (List.range 64).flatMap (fun n => l.filter (fun m => here m n))
  m ++ l.filter (fun x => !m.contains x)

/-- The store that stands in entry `id` of a core is performed, or has failed: the entry leaves, and waits on it end. An error response
is one to every group that has stores in the entry (R115, log entry 39). -/
def State.ackStore (s : State) (c id : Nat) (how : AckHow) : State :=
  let k := s.core c
  let fin := fun (s : State) (cmds : List (Nat × Nat)) (gs : List MergeBy) =>
    let s := match how with
      | .ok => cmds.foldl (fun (s : State) (m : Nat × Nat) => s.noteWrite m.1 m.2) s
      | .bad => gs.foldl (fun s (g : MergeBy) => s.lateFault c g.team g.gidx g.pc g.mask g.va) s
      | .poisoned => gs.foldl (fun s (g : MergeBy) => s.modGroup c g.team g.gidx Group.hostErr) s
    (s.wakeCore c).sweepCmds
  match k.sq.find? (fun e => e.id == id), k.mb.find? (fun e => e.id == id) with
  | some e, _ => fin (s.modCore c (fun k => { k with sq := k.sq.filter (fun x => x.id != id) })) [(e.q, e.seq)] [⟨e.team, e.gidx, e.pc, e.va, e.mask⟩]
  | none, some e => fin (s.modCore c (fun k => { k with mb := k.mb.filter (fun x => x.id != id) })) e.cmds (k.bySlotOf e.grps)
  | none, none => s

def noXfer (_ : Nat) : Option Xfer := none

/-- The transfer of a chip-level channel (R335). -/
def State.chan (s : State) (n : Nat) : Option Xfer := SMap.get noXfer s.chanXf n
def State.setChan (s : State) (n : Nat) (x : Option Xfer) : State := { s with chanXf := SMap.set noXfer s.chanXf n x }

/-- A chip-level channel whose transfer has ended, or has failed with nothing outstanding, ends its command (R335). -/
def State.chanOver (s : State) (n : Nat) : State :=
  match s.chan n with
  | none => s
  | some x =>
    if x.pend ≠ [] then s
    else if x.failed then (((s.setChan n none).endCmd x.team x.seq 2 0)).sweepCmds
    else if x.done ≥ x.total then (((s.setChan n none).endCmd x.team x.seq 0 0)).sweepCmds
    else s

/-- An uncached write is acknowledged to whoever waits for it. -/
def State.ackWho (s : State) (w : Who) (how : AckHow) : State :=
  match w with
  | .store c id => s.ackStore c id how
  | .merge c id => s.ackStore c id how
  | .xfer c id g =>
    let s := match (s.core c).xfers.find? (fun x => x.id == id), how with | some x, .ok => s.noteTeamWrite c x.team | _, _ => s
    (s.modCore c (fun k => { k with xfers := k.xfers.map (fun x => if x.id == id then x.acked g how else x) })).xferOver c id
  | .chan n g =>
    match s.chan n with
    | some x => ((if how = .ok then s.noteWrite x.team x.seq else s).setChan n (some (x.acked g how))).chanOver n
    | none => s
  | .win chip txn addr =>
    s.send (mkMsg (if how = .ok then 0x51 else 0x53) chip s.chip txn addr 0 zero64)
  | _ => s

/-! ### Taking a message -/

/-- Take a message of an opcode from those that have arrived for this chip. -/
def State.takeMsg (s : State) (m : Msg) (opc : Nat) : Option State :=
  match s.inbox.find? (fun e => e.2 == m && m.opc.toNat == opc && m.dst.toNat == s.chip) with
  | some e => some (({ s with inbox := s.inbox.erase e } : State).creditBack e.1 m)
  | none => none

/-- The granule of a coherence message: chip and canonical local address. -/
def msgGran (m : Msg) : Nat := m.addr.toNat / 2 ^ 46 * 2 ^ 46 + canon (m.addr.toNat % 2 ^ 46) / 64 * 64

/-- Its canonical local address. -/
def msgLocal (m : Msg) : Nat := msgGran m % 2 ^ 46

/-- Lines in the pages of a bias flip. -/
def BiasFlip.holds (f : BiasFlip) (a : Nat) : Bool := covers f.addr (0x10000 * f.pages) a

/-- A flip starts when no line of its pages has a transaction (Table 08.9); towards device bias the host is asked to flush
every line (R258). -/
def State.flipStart (s : State) : State :=
  match s.flip with
  | none => s
  | some f =>
    if f.started || s.txns.any (fun t => f.holds t.req.gran) then s
    else
      let s : State := { s with flip := some { f with started := true } }
      if f.toHost then s
      else
        (List.range (1024 * f.pages)).foldl (fun t i =>
          t.hostReq ⟨canon (f.addr + 64 * i), .clflush, none, 0, [], 0, .nobody, false⟩) s

/-- BIConflictAck goes out when no earlier host request for the line is left (R253). -/
def State.ackConflicts (s : State) : State :=
  let isHost := fun (r : HReq) => match r.rq with | .host _ => true | _ => false
  let busy := fun (g : Nat) => s.txns.any (fun t => t.req.gran == g && isHost t.req) || s.conflict.any (fun r => r.gran == g && isHost r)
  let ready := s.biConf.filter (fun g => !busy g)
  ready.foldl (fun t g => t.hostSend (.ndr g 3)) { s with biConf := s.biConf.filter busy }

/-- What follows every event at the home. -/
def State.settle (s : State) : State := s.ackConflicts.flipStart

/-- Is it a coherence message of a SILENT member (R390)? -/
def State.fromSilent (s : State) (m : Msg) (opc : Nat) : Bool :=
  opc < 0x40 && (match s.spanOf m.src.toNat with | some k => s.spanState k == 2 | none => false)

/-- Serve one message of the Stairway that has arrived for this chip; `none`: it has to wait. What a SILENT member sends under the
coherence protocol is discarded (R261, R390). -/
def State.serveMsg (s : State) (m : Msg) (opc : Nat) (f : State → Option State) : State :=
  s.whenRuns (fun s =>
    match s.takeMsg m opc with
    | none => s
    | some t => if t.fromSilent m opc then t.settle else match f t with | some u => u.settle | none => s)

/-! ### Requests at the home (R232 to R235, R245, R257) -/

/-- An answer of the home to a requester that gets no line: poisoned data or a poisoned acknowledgement. -/
def State.poisonAnswer (s : State) (op : HOp) (g k txn : Nat) : State :=
  match op with
  | .wrf | .wrp => s.sendPeer 0x38 k g k txn zero64 true
  | .wbm => s.sendPeer 0x37 k g k txn zero64 false
  | _ => s.sendPeer 0x30 k g k txn zero64 true

/-- Does the message come from a member of the span that is neither silent nor cut off, for a line of this chip (R231,
R261)? -/
def State.fromMember (s : State) (m : Msg) : Bool :=
  s.spanChip m.span.val == some m.src.toNat && s.memberOk m.span.val && msgGran m / 2 ^ 46 == s.chip

/-- The member of the span that a message to the home of this chip's line comes from, where it is expected to answer: an answer's SPAN
names the requester (R244). -/
def State.replier (s : State) (m : Msg) : Option Nat :=
  if msgGran m / 2 ^ 46 == s.chip then (s.spanOf m.src.toNat).filter s.memberOk else none

/-- Has an EvS of the message's sender for its granule still to be taken? It came first, and the request waits for it. -/
def State.behindEvs (s : State) (m : Msg) : Bool := s.inbox.any (fun e => e.2.opc.toNat == 0x14 && e.2.src == m.src && msgGran e.2 == msgGran m)

/-- A peer's request reaches the home; `none`: it waits. -/
def State.homeRequest (s : State) (m : Msg) (op : HOp) : Option State :=
  let g := msgLocal m
  if s.behindEvs m then none else some (
  let k := m.span.val
  if !s.fromMember m then s
  else if s.compat g then
    (s.memErr 0x1A 1 1 (sliceOf g) g k).poisonAnswer op g k m.txn.toNat
  else if !s.holdsMem g then s.poisonAnswer op g k m.txn.toNat
  else
    match s.homeAdmit ⟨g, .peer k m.src.toNat m.txn.toNat, op, m.starve, false, m.mask, m.data, m.poison⟩ with
    | (s, true) => s
    | (s, false) => (s.bump Fld.HOME_RETRY_CNT_COUNT 1).sendPeer 0x39 k g k m.txn.toNat zero64 false)

/-- RDS: a peer asks for S. -/
def execRds (m : Msg) (s : State) : Out := .next (s.serveMsg m 0x10 (fun s => s.homeRequest m .rds))

/-- RDM: a peer asks for M. -/
def execRdm (m : Msg) (s : State) : Out := .next (s.serveMsg m 0x11 (fun s => s.homeRequest m .rdm))

/-- UPG: a sharer asks for M; from a peer that is no sharer any more it is served as RdM (R250). -/
def execUpg (m : Msg) (s : State) : Out := .next (s.serveMsg m 0x12 (fun s => s.homeRequest m .upg))

/-- WBM: an owner returns its dirty data. -/
def execWbm (m : Msg) (s : State) : Out := .next (s.serveMsg m 0x13 (fun s => s.homeRequest m .wbm))

/-- WRF: an uncached write of a whole granule. -/
def execWrf (m : Msg) (s : State) : Out := .next (s.serveMsg m 0x15 (fun s => s.homeRequest m .wrf))

/-- WRP: an uncached write of masked bytes. -/
def execWrp (m : Msg) (s : State) : Out := .next (s.serveMsg m 0x16 (fun s => s.homeRequest m .wrp))

/-- EVS: a sharer has dropped its copy; dropped when the entry does not name the peer (R245, R250). -/
def execEvs (m : Msg) (s : State) : Out :=
  .next (s.serveMsg m 0x14 (fun s =>
    let g := msgLocal m
    let e := s.dirGet g
    if !s.fromMember m then some s
    else if s.blocked g then none
    else if e.st = .s && e.ptrs.contains m.span.val then
      let s := s.dirPut g (e.drop m.span.val)
      -- a way that this frees goes to a request that waits for it (R233)
      some (s.serveAll (s.conflict.length + 1))
    else some s))

/-! ### Answers at the home (R245, R259, R260) -/

/-- An answer with or without data of the member that `w` then waits for: it goes to the transaction that awaits it, or is late.
Where an owner returns data and keeps S, the home copy is current and the entry is S at once (R238). -/
def State.homeReply (s : State) (m : Msg) (w : Nat → HWait) (data : Bool) : State :=
  let g := msgLocal m
  match s.replier m with
  | none => s
  | some k =>
    if s.awaits g (w k) then
      let s := if data then s.homeData g m.data m.poison else s
      let s := match w k with | .wbS _ => s.dirPut g (s.dirGet g).shared | _ => s
      s.homeAnswer g (w k) id
    else s.lateAnswer g (some k)

/-- WBS: the owner, which keeps S, returns the current data. -/
def execWbs (m : Msg) (s : State) : Out := .next (s.serveMsg m 0x33 (fun s => some (s.homeReply m .wbS true)))

/-- RCLDATA: recalled data comes back. -/
def execRcldata (m : Msg) (s : State) : Out := .next (s.serveMsg m 0x34 (fun s => some (s.homeReply m .rclData true)))

/-- Is the acknowledgement that of an Inv which followed a late answer (R260)? -/
def State.invAckLate (s : State) (m : Msg) : Option (Nat × Nat) :=
  match s.replier m with
  | some k => if s.lateInv.contains (msgLocal m, k) && !s.awaits (msgLocal m) (.invAck k) then some (msgLocal m, k) else none
  | none => none

/-- INVACK: a sharer has invalidated. The acknowledgement of an Inv that followed a late answer ends nothing (R260). -/
def execInvack (m : Msg) (s : State) : Out :=
  .next (s.serveMsg m 0x35 (fun s =>
    match s.invAckLate m with
    | some e => some { s with lateInv := s.lateInv.erase e }
    | none => some (s.homeReply m .invAck false)))

/-- FWDACK: the owner has carried out a FwdM. -/
def execFwdack (m : Msg) (s : State) : Out := .next (s.serveMsg m 0x36 (fun s => some (s.homeReply m .fwdAck false)))

/-- DONE: the requester has its grant, and the line unblocks when every other answer has come (R232). A Done that no
transaction waits for ends nothing. -/
def execDone (m : Msg) (s : State) : Out :=
  .next (s.serveMsg m 0x3A (fun s =>
    let g := msgLocal m
    match s.txns.find? (fun t => t.req.gran == g && t.granted && !t.done && t.req.rq.peerOf == some (m.span.val, m.txn.toNat)) with
    | none => some s
    | some t =>
      if t.waits.isEmpty then
        -- the requester has what a sharer sent it (R249)
        some (((if t.fwd then s.bump Fld.HOME_FWD_CNT_COUNT 1 else s).grantEnd t).endTxn g)
      else some { s with txns := s.txns.map (fun y => if y.req.gran == g then { y with done := true } else y) }))

/-- HOME_TXN_TIMEOUT: the timer of the open transaction of a granule expires. -/
def execHomeTxnTimeout (addr : BitVec 46) (s : State) : Out :=
  .next (s.whenRuns (fun s =>
    let g := canon addr.toNat / 64 * 64
    match s.txns.find? (fun t => t.req.gran == g) with
    | some t => (s.homeTimeout t (fun _ => true)).settle
    | none => s))

/-! ### The peer side (R246 to R248) -/

/-- This chip's copy of a peer granule: in the L2, in the buffer of sectors without a place, or in the write-back buffer. -/
def State.peerCopy (s : State) (g : Nat) : Option Sector :=
  match (s.copySec g).filter (fun x => x.st != .i), s.wbuf.find? (fun e => e.gran == g) with
  | some x, _ => some x
  | none, some w => some ⟨.m, w.poison, w.data⟩
  | none, none => none

/-- The copy goes to S or I; the write-back buffer keeps its data until WbAck. -/
def State.peerDown (s : State) (g : Nat) (keep : Bool) : State :=
  let s : State := { s with rbuf := if keep then s.rbuf.map (fun e => if e.1 == g && e.2.st != .i then (g, { e.2 with st := .s }) else e)
                                    else s.rbuf.filter (fun e => e.1 != g) }
  match s.l2Sec g with
  | some x => if keep then s.setL2Sec g { x with st := .s } else s.l2Inval g
  | none => s

/-- Grant data to a requester in the home's place. -/
def State.grantTo (s : State) (m : Msg) (opc : Nat) (x : Sector) : State :=
  match s.spanChip m.span.val with
  | some c => s.send { mkMsg opc c s.chip m.txn.toNat (msgGran m) 0 x.data with span := m.span, poison := x.poison }
  | none => s

/-- An answer to the home: it carries the requester's span index and transaction number, as the message it answers does (R244). -/
def State.replyHome (s : State) (m : Msg) (opc : Nat) (d : List Byte) (p : Bool) : State :=
  s.send { mkMsg opc (msgGran m / 2 ^ 46) s.chip m.txn.toNat (msgGran m) 0 d with span := m.span, poison := p }

/-- Answer a forwarded message (Table 08.4). A copy that is gone leaves FwdS, FwdM and the recalls unanswered; Inv is answered
in every state (R250). -/
def State.answerFwd (s : State) (m : Msg) : State :=
  let g := msgGran m
  let home := fun (t : State) (opc : Nat) (d : List Byte) (p : Bool) => t.replyHome m opc d p
  if m.opc.toNat = 0x24 then home (s.peerDown g false) 0x35 zero64 false
  else
    match s.peerCopy g with
    | none => s
    | some x =>
      match m.opc.toNat with
      | 0x20 =>
        let s := s.grantTo m 0x30 x
        if x.st = .m then home (s.peerDown g true) 0x33 x.data x.poison else s
      | 0x21 => home ((s.grantTo m 0x31 x).peerDown g false) 0x36 zero64 false
      | 0x22 => home (s.peerDown g true) 0x34 x.data x.poison
      | _ => home (s.peerDown g false) 0x34 x.data x.poison

/-- A message of a home to this chip: answered at once, or when the granule's minimum hold ends (R248). -/
def State.fromHome (s : State) (m : Msg) : State :=
  if s.inHold.contains (msgGran m) then
    ({ s with delayed := s.delayed ++ [m] } : State).bump Fld.HOME_HOLD_WAIT_CNT_COUNT 1
  else s.answerFwd m

/-- FWDS: send DataS to the requester. -/
def execFwds (m : Msg) (s : State) : Out := .next (s.serveMsg m 0x20 (fun s => some (s.fromHome m)))

/-- FWDM: send DataM to the requester and invalidate. -/
def execFwdm (m : Msg) (s : State) : Out := .next (s.serveMsg m 0x21 (fun s => some (s.fromHome m)))

/-- RCLS: return the data and keep S. -/
def execRcls (m : Msg) (s : State) : Out := .next (s.serveMsg m 0x22 (fun s => some (s.fromHome m)))

/-- RCLI: return the data and invalidate. -/
def execRcli (m : Msg) (s : State) : Out := .next (s.serveMsg m 0x23 (fun s => some (s.fromHome m)))

/-- INV: invalidate. -/
def execInv (m : Msg) (s : State) : Out := .next (s.serveMsg m 0x24 (fun s => some (s.fromHome m)))

/-- HOLD_END: the minimum hold of a granule ends, and what it delayed is answered in order. -/
def execHoldEnd (addr : BitVec 56) (s : State) : Out :=
  .next (s.whenRuns (fun s =>
    let g := addr.toNat / 64 * 64
    if s.inHold.contains g then
      let l := s.delayed.filter (fun m => msgGran m == g)
      let s : State := { s with inHold := s.inHold.filter (· != g), delayed := s.delayed.filter (fun m => msgGran m != g) }
      l.foldl State.answerFwd s
    else s))

/-- Put a granted sector into the L2, or into the buffer of sectors without a place (R206, R228). A refused request leaves a sector in I
there, for the requester to consume. -/
def State.placeSec (s : State) (g : Nat) (age : Option Nat) (part : Nat) (x : Sector) : State :=
  let keep := fun (t : State) => ({ t with rbuf := t.rbuf.filter (fun e => e.1 != g) ++ [(g, x)] } : State)
  if x.st = .i then keep (s.l2Inval g)
  else
    match age with
    | none => if (s.l2Sec g).isSome then (s.l2Fill part g 1 x).1 else keep s
    | some n => match s.l2Fill part g n x with | (t, true) => t.dropRbuf g | (t, false) => keep t

/-- A grant arrives (R246, R248): the sector takes its place, the hold begins, and Done goes to the home. A poisoned DataS may be the
home's refusal of R257: it is not placed in the L2, and one that answers a request for M grants nothing. -/
def State.grantIn (s : State) (m : Msg) (grant : Nat) : State :=
  let g := msgGran m
  let fits := fun (r : PReq) => r.gran == g && r.txn == m.txn.toNat &&
    (match grant with | 0 => r.op == .rds || ((r.op == .rdm || r.op == .upg) && m.poison) | _ => r.op == .rdm || r.op == .upg)
  match s.preqs.find? fits with
  | none => s
  | some r =>
    let s : State := { s with preqs := s.preqs.erase r }
    if grant = 0 && r.op ≠ .rds then s.placeSec g none r.part ⟨.i, true, m.data⟩
    else
      let s :=
        match grant with
        | 0 => s.placeSec g (if m.poison then none else r.age) r.part ⟨.s, m.poison, m.data⟩
        | 1 => s.placeSec g r.age r.part ⟨.m, m.poison, m.data⟩
        | _ =>
          match s.l2Sec g with
          | some x => s.setL2Sec g { x with st := .m }
          | none => { s with rbuf := s.rbuf.map (fun (e : Nat × Sector) => if e.1 == g then (g, { e.2 with st := .m }) else e) }
      let s := s.sendHome 0x3A g m.txn.toNat zero64 false
      if s.fld Fld.HOME_TIMING_HOLD = 0 || s.inHold.contains g then s else { s with inHold := s.inHold ++ [g] }

/-- DATAS: a grant of S with data. -/
def execDatas (m : Msg) (s : State) : Out := .next (s.serveMsg m 0x30 (fun s => some (s.grantIn m 0)))

/-- DATAM: a grant of M with data. -/
def execDatam (m : Msg) (s : State) : Out := .next (s.serveMsg m 0x31 (fun s => some (s.grantIn m 1)))

/-- GRANTM: a grant of M to a holder of S. -/
def execGrantm (m : Msg) (s : State) : Out := .next (s.serveMsg m 0x32 (fun s => some (s.grantIn m 2)))

/-- WBACK: a write-back is performed at the home, and its buffer entry is free. -/
def execWback (m : Msg) (s : State) : Out :=
  .next (s.serveMsg m 0x37 (fun s => some { s with wbuf := s.wbuf.eraseP (fun w => w.gran == msgGran m && w.txn == m.txn.toNat) }))

/-- WRACK: an uncached write is performed at the home. -/
def execWrack (m : Msg) (s : State) : Out :=
  .next (s.serveMsg m 0x38 (fun s =>
    match s.preqs.find? (fun r => r.gran == msgGran m && r.txn == m.txn.toNat && (r.op == .wrf || r.op == .wrp)) with
    | some r => some (({ s with preqs := s.preqs.erase r } : State).ackWho r.who .ok)
    | none => some s))

/-- RETRY: the request waits 500 ns to be sent again; the fourth one sets STARVE (R234). -/
def execRetry (m : Msg) (s : State) : Out :=
  .next (s.serveMsg m 0x39 (fun s =>
    some { s with
      preqs := s.preqs.map (fun r => if r.gran == msgGran m && r.txn == m.txn.toNat then { r with retries := r.retries + 1, waiting := true } else r)
      wbuf := s.wbuf.map (fun w => if w.gran == msgGran m && w.txn == m.txn.toNat then { w with retries := w.retries + 1, waiting := true } else w) }))

/-- The home slice of a granule, as a number over all chips. -/
def homeSlice (g : Nat) : Nat := g / 2 ^ 46 * 64 + sliceOf (g % 2 ^ 46)

/-- Has this chip a request with STARVE outstanding at the home slice of a granule (R234)? -/
def State.starving (s : State) (g : Nat) : Bool :=
  s.preqs.any (fun r => r.starve && homeSlice r.gran == homeSlice g) || s.wbuf.any (fun w => w.starve && homeSlice w.gran == homeSlice g)

/-- The request opcode of an operation (Table 13.5). -/
def HOp.opc : HOp → Nat
  | .rds => 0x10 | .rdm => 0x11 | .upg => 0x12 | .wrf => 0x15 | .wrp => 0x16 | _ => 0x13

/-- RETRY_RESEND: 500 ns after a Retry the request of the granule goes out again. While a request with STARVE is outstanding at
the slice, the others stay held. -/
def execRetryResend (addr : BitVec 56) (s : State) : Out :=
  .next (s.whenRuns (fun s =>
    let g := addr.toNat / 64 * 64
    if s.starving g then s
    else
      match s.preqs.find? (fun r => r.gran == g && r.waiting), s.wbuf.find? (fun w => w.gran == g && w.waiting) with
      | some r, _ =>
        let st := r.retries ≥ 4
        let s : State := { s with preqs := s.preqs.map (fun q => if q == r then { q with waiting := false, starve := st } else q) }
        s.send { mkMsg r.op.opc (g / 2 ^ 46) s.chip r.txn g 0 (if r.data.isEmpty then zero64 else r.data) with
          span := Fin.ofNat 64 s.spanIdx, mask := r.mask, starve := st }
      | none, some w =>
        let st := w.retries ≥ 4
        let s : State := { s with wbuf := s.wbuf.map (fun q => if q == w then { q with waiting := false, starve := st } else q) }
        s.send { mkMsg 0x13 (g / 2 ^ 46) s.chip w.txn g 0 w.data with
          span := Fin.ofNat 64 s.spanIdx, poison := w.poison, starve := st }
      | none, none => s))

/-! ### CXL.mem (R251 to R253, R256, R310) -/

/-- Does the host's CXL.mem and CXL.cache traffic reach its units: the link is up, is not training, and the endpoint is not
frozen? -/
def State.hostHere (s : State) : Bool := s.runs && s.ep.linkUp && s.ep.cont != .frozen && !s.ep.retrain

/-- Does IDE_REQUIRED of the Setting hold while a stream is not Secure (R455)? -/
def State.ideBad (s : State) : Bool := s.snat 0x0905 0 == 1 && s.ep.ideSec != 3

/-- Is the host refused the memory at canonical local address `a`: a sealed partition's, or any partition's while IDE is
required and a stream is not Secure (R455, R456)? -/
def State.hostDenied (s : State) (a : Nat) : Bool :=
  match s.partOfAddr a with
  | some p => s.ideBad || (s.snat 0x0903 0).testBit p
  | none => false

/-- Is the memory ready (R310): Service, with the address in installed memory? -/
def State.memReady (s : State) (g : Nat) : Bool := s.inService && s.holdsMem g

/-- Is the host's write that of the owner of a line whose snoop it has still to answer? -/
def State.ownerWrites (s : State) (g : Nat) (op : HOp) : Bool :=
  (op == .memWr || op == .memWrPtl) && s.awaits g .biRsp && (s.dirGet g).st == .m && (s.dirGet g).h

/-- A host request reaches the home; what a retrain holds up waits before the endpoint, and so does a request that finds no entry of the
conflict queue, with those of its channel that follow it (R233, R318). Without memory, for memory withheld from the host, and while the endpoint is frozen, a
read is answered with poison and a write is dropped (R305, R310, R320, R456). A partition
in compatibility mode keeps no entry, and its host accesses leave the host no copy (R256). -/
def State.hostRequest (s : State) (c : Instr) (addr : Nat) (mv : Meta) (op : HOp) (data : List Byte) (mask : W64) (poison : Bool) : State :=
  let g := canon addr / 64 * 64
  let refuse := fun (t : State) => if op = .hostRead then (t.hostSend (.drs g zero64 true)).hostSend (.ndr g 0) else t.hostSend (.ndr g 0)
  if !s.runs || !s.ep.linkUp || s.ep.retrain then s.keepIn c
  else if s.ep.cont = .frozen || !s.memReady g then refuse s
  else if s.hostDenied g then refuse (s.bump Fld.SEC_HOST_DENY_CNT_COUNT 1)
  else
    let s := if s.compat g && (op = .memWr || op = .memWrPtl) then s.homeTake g else s
    let mv := if s.compat g then .i else mv
    -- the owner's write-back does not wait for the transaction that awaits its answer to a snoop (Table 08.3)
    if s.ownerWrites g op then
      ((s.homeMerge g (if op = .memWr then maskBytes (BitVec.allOnes 64) data else maskBytes mask data) poison).hostSend (.ndr g 0)).settle
    else if s.linkBusy (hostChan c) then s.keepIn c
    else
      match s.homeAdmit ⟨g, .host mv, op, false, false, mask, data, poison⟩ with
      | (t, true) => t.settle
      | (_, false) => s.keepIn c

/-- MEMRD: a host read with its MetaValue. -/
def execMemRd (addr : BitVec 46) (mv : Meta) (s : State) : Out := .next (s.hostRequest (.memRd addr mv) addr.toNat mv .hostRead zero64 0 false)

/-- MEMRDDATA: a host read served as MetaValue S (R252). -/
def execMemRdData (addr : BitVec 46) (s : State) : Out := .next (s.hostRequest (.memRdData addr) addr.toNat .s .hostRead zero64 0 false)

/-- MEMINV: the host changes what it holds, without data. -/
def execMemInv (addr : BitVec 46) (mv : Meta) (s : State) : Out :=
  .next (s.hostRequest (.memInv addr mv) addr.toNat mv .hostInv zero64 0 false)

/-- MEMINVNT: as MEMINV. -/
def execMemInvNT (addr : BitVec 46) (mv : Meta) (s : State) : Out :=
  .next (s.hostRequest (.memInvNT addr mv) addr.toNat mv .hostInv zero64 0 false)

/-- MEMCLNEVCT: the host has dropped a clean copy. -/
def execMemClnEvct (addr : BitVec 46) (mv : Meta) (s : State) : Out :=
  .next (s.hostRequest (.memClnEvct addr mv) addr.toNat mv .hostInv zero64 0 false)

/-- MEMSPECRD: a hint, which this model drops (Table 08.5). -/
def execMemSpecRd (_addr : BitVec 46) (s : State) : Out := .next s

/-- BICONFLICT: answered after the completions of the earlier host requests for the line (R253). -/
def execBiConflict (addr : BitVec 46) (s : State) : Out :=
  .next (if s.hostHere && !s.linkBusy 2 then
    (({ s with biConf := s.biConf ++ [canon addr.toNat / 64 * 64] } : State).bump Fld.HOME_BICONFLICT_CNT_COUNT 1).settle else if s.ep.cont = .frozen then s else s.keepIn (.biConflict addr))

/-- MEMWR: a host write of a whole line. -/
def execMemWr (addr : BitVec 46) (mv : Meta) (data : List Byte) (poison : Bool) (s : State) : Out :=
  .next (s.hostRequest (.memWr addr mv data poison) addr.toNat mv .memWr data 0 poison)

/-- MEMWRPTL: a host write of masked bytes. -/
def execMemWrPtl (addr : BitVec 46) (mv : Meta) (data : List Byte) (mask : W64) (s : State) : Out :=
  .next (s.hostRequest (.memWrPtl addr mv data mask) addr.toNat mv .memWrPtl data mask false)

/-- What arrives while the link trains waits; while the endpoint is frozen it is lost. -/
def State.heldUp (s : State) (c : Instr) : State := if s.ep.retrain then s.keepIn c else s

/-- The host's answer to a back-invalidate snoop. What the entry says of the host afterwards is the transaction's, whatever the host
keeps (Table 08.3). -/
def State.biAnswer (s : State) (c : Instr) (addr : Nat) : State :=
  let g := canon addr / 64 * 64
  if !s.hostHere then s.heldUp c
  else if s.awaits g .biRsp then (s.homeAnswer g .biRsp id).settle
  else (s.lateAnswer g none).settle

/-- BIRSPI: the host keeps no copy. -/
def execBiRspI (addr : BitVec 46) (s : State) : Out := .next (s.biAnswer (.biRspI addr) addr.toNat)

/-- BIRSPS: the host keeps S. -/
def execBiRspS (addr : BitVec 46) (s : State) : Out := .next (s.biAnswer (.biRspS addr) addr.toNat)

/-- BIRSPE: the host keeps E. -/
def execBiRspE (addr : BitVec 46) (s : State) : Out := .next (s.biAnswer (.biRspE addr) addr.toNat)

/-! ### CXL.cache (R254, R256) -/

/-- The local address of the line that a host address names: host memory, or a line of this chip in host bias, which goes by
its local address. -/
def State.snoopName (s : State) (addr : Nat) : Nat :=
  let b := s.fld Fld.XLT_HOST_BASE_BASE
  let h := hostBase + (addr - b)
  let has := fun (a : Nat) => (s.copySec (s.paOf a)).isSome
  if b ≤ addr && addr - b < 2 ^ 44 && (has h || !has (canon addr)) then h / 64 * 64 else canon addr / 64 * 64

/-- Host snoops of Table 08.7: 0 SnpInv, 1 SnpData, 2 SnpCur. Answers are numbered RspIHitI 0, RspIHitSE 1, RspIFwdM 2,
RspSHitSE 3, RspSFwdM 4, RspVHitV 5, RspVFwdV 6. -/
def State.snoop (s : State) (c : Instr) (addr kind : Nat) : State :=
  if !s.hostHere then s.heldUp c
  else
    let g := s.paOf (s.snoopName addr)
    let x := (s.copySec g).filter (fun x => x.st != .i)
    let rsp := fun (t : State) (k : Nat) (d : List Byte) => t.hostSend (.d2hRsp addr k d)
    match x, kind with
    | none, _ => rsp s 0 []
    | some x, 0 => rsp (s.peerDown g false) (if x.st = .m then 2 else 1) (if x.st = .m then x.data else [])
    | some x, 1 => rsp (s.peerDown g true) (if x.st = .m then 4 else 3) (if x.st = .m then x.data else [])
    | some x, _ => rsp s (if x.st = .m then 6 else 5) (if x.st = .m then x.data else [])

/-- SNPINV. -/
def execSnpInv (addr : BitVec 52) (s : State) : Out := .next (s.snoop (.snpInv addr) addr.toNat 0)

/-- SNPDATA. -/
def execSnpData (addr : BitVec 52) (s : State) : Out := .next (s.snoop (.snpData addr) addr.toNat 1)

/-- SNPCUR. -/
def execSnpCur (addr : BitVec 52) (s : State) : Out := .next (s.snoop (.snpCur addr) addr.toNat 2)

/-- The core whose store waits for a write. -/
def Who.core? : Who → Option Nat
  | .store c _ => some c
  | .merge c _ => some c
  | _ => none

/-- A CXL.cache request of the L2 has been served with data in a state: a read takes its sector, a write of a whole sector puts
its own bytes over it, and its line is locked where its transfer asks for that (R228). -/
def State.hcServed (s : State) (r : HcReq) (st : Coh) (data : List Byte) (poison : Bool) : State :=
  let g := s.paOf r.addr
  match r.op with
  | .rdShared | .rdOwn => s.placeSec g r.age r.part ⟨st, poison, data⟩
  | .rdOwnNoData =>
    let s := (s.placeSec g r.age r.part ⟨.m, false, r.data⟩).afterWrite g r.who.core?
    (if r.lock then (s.l2Lock r.part g).1 else s).ackWho r.who .ok
  | _ => s

/-- Has the answer of a request to come with data? -/
def HcOp.reads : HcOp → Bool
  | .rdShared | .rdOwn => true
  | _ => false

/-- CXL_CACHE_RESPONSE: the host answers a request of the L2 with data, a completion or an error. An error answers a read with
poisoned data, and ends a store as an error response. -/
def execCxlCacheResponse (addr : BitVec 52) (rsp : CacheRsp) (s : State) : Out :=
  .next (if !s.hostHere then s.heldUp (.cxlCacheResponse addr rsp)
  else
    match s.hcReqs.find? (fun r => s.hostName r.addr == addr.toNat &&
        (match rsp with | .data _ _ _ => r.op.reads | .completion => !r.op.reads | .error => true)) with
    | none => s
    | some r =>
      let s : State := { s with hcReqs := s.hcReqs.erase r }
      match rsp with
      | .data _ d p => (s.hcServed r (if r.op = .rdShared then .s else .e) d p).settle
      | .completion =>
        if r.op = .rdOwnNoData then (s.hcServed r .m [] false).settle else (s.ackWho r.who .ok).settle
      | .error =>
        if r.op.reads then (s.placeSec (s.paOf r.addr) none r.part ⟨.i, true, zero64⟩).settle else (s.ackWho r.who .bad).settle)

/-- MEMRDFWD: the host hands a read of a host-bias line back to the home, which serves it from memory in the granted state
(R256). -/
def execMemRdFwd (addr : BitVec 46) (grant : Coh) (s : State) : Out :=
  .next (
    let g := canon addr.toNat / 64 * 64
    match s.hcReqs.find? (fun r => r.addr == g && r.op.reads) with
    | some r =>
      if s.hostHere then
        let (s, d, p) := ({ s with hcReqs := s.hcReqs.erase r } : State).readBelow g
        (s.hcServed r grant d p).settle
      else s.heldUp (.memRdFwd addr grant)
    | none => s)

/-- MEMWRFWD: the host hands a write of a host-bias line back to the home, which performs it (R256). -/
def execMemWrFwd (addr : BitVec 46) (s : State) : Out :=
  .next (
    let g := canon addr.toNat / 64 * 64
    match s.hcReqs.find? (fun r => r.addr == g && !r.op.reads && r.op != .clflush) with
    | some r =>
      if s.hostHere then
        let s : State := { s with hcReqs := s.hcReqs.erase r }
        (match r.op with
          | .rdOwnNoData => s.hcServed r .m [] false
          | .woWrInvF => (s.homeMerge g (maskBytes (BitVec.allOnes 64) r.data) false).ackWho r.who .ok
          | .woWrInv => (s.homeMerge g (maskBytes r.mask r.data) false).ackWho r.who .ok
          | .dirtyEvict => (s.writeMem g r.data false).ackWho r.who .ok
          | _ => s.ackWho r.who .ok).settle
      else s.heldUp (.memWrFwd addr)
    | none => s)

/-! ### Bias flips (R258) -/

/-- A flip ends with a result: GO clears and DONE is set. -/
def State.flipEnd (s : State) (result : Nat) : State :=
  ((s.setFldB Fld.HOME_BIAS_CMD_GO false).setFldB Fld.HOME_BIAS_STATUS_DONE true).setFld Fld.HOME_BIAS_STATUS_RESULT result

/-- The first page of a flip from address `a`: an address in the Gallery's linear alias names the page of the interleaved alias that
holds its byte, so that the lines which are blocked and cleaned are those of the bits that change (DESIGN CHOICE, log entry 131). -/
def biasBase (a : Nat) : Nat := if isGallery a && galleryLin ≤ a then interOf a / 0x10000 * 0x10000 else a

/-- Does the page of the bias table at `b` lie in the memory of partitions in compatibility mode? Memory is assigned in ranges aligned
to 64 KiB, of which a page of the interleaved alias meets one in each of 128 banks (key 0x0302). -/
def State.biasPage (s : State) (b : Nat) : Bool :=
  (List.range 128).all (fun j => let a := canon (b + 512 * j); s.holdsMem a && s.compat a)

/-- GO of HOME_BIAS_CMD: the flip that the registers name begins, or fails with nothing changed. -/
def State.biasGo (s : State) : State :=
  let a := s.fld Fld.HOME_BIAS_ADDR_ADDR
  let n := s.fld Fld.HOME_BIAS_CMD_PAGES
  if n = 0 || a % 0x10000 ≠ 0 || !((List.range n).all (fun i => s.biasPage (biasBase a + 0x10000 * i))) then s.flipEnd 1
  else if s.ep.cont ≠ .normal then s.flipEnd 2
  else ({ s with flip := some ⟨biasBase a, n, s.fldB Fld.HOME_BIAS_CMD_TO_HOST, false⟩ } : State).flipStart

/-- Set the bias bit of a page. -/
def State.setBias (s : State) (a : Nat) (b : Bool) : State :=
  let i := biasIndex a
  let t := s.fld Fld.HOME_BIAS_BASE_BASE + i / 8
  s.storeRun t [BitVec.ofNat 8 (setBitTo ((s.loadRun t 1).headD 0).toNat (i % 8) b)]

/-- BIAS_FLIP_DONE: the pages' lines are cleaned and invalidated in the home L2 and their bits set, or the host has answered
every CLFlush and the bits are cleared. -/
def execBiasFlipDone (s : State) : Out :=
  .next (s.whenRuns (fun s =>
    match s.flip with
    | some f =>
      if !f.started || s.hcReqs.any (fun r => r.op == .clflush) then s
      else
        let s := if f.toHost then
            (s.l2.filter (fun e => e.2.valid && e.2.line * 128 / 2 ^ 46 == s.chip && f.holds (e.2.line * 128 % 2 ^ 46))).foldl (fun t e =>
              let a := e.2.line * 128 % 2 ^ 46
              (t.homeTake a).homeTake (a + 64)) s
          else s
        let s := (List.range f.pages).foldl (fun t i => t.setBias (canon (f.addr + 0x10000 * i)) f.toHost) s
        let s := ({ s with flip := none } : State).flipEnd 0
        (s.serveAll (s.conflict.length + 1)).settle
    | none => s))

/-! ### Containment of a member or of the host (R261, R262) -/

/-- HOME_PURGE shows the walk that is in progress. -/
def State.showPurge (s : State) : State :=
  match s.purges with
  | [] => s.setReg Reg.HOME_PURGE 0
  | none :: _ => s.setReg Reg.HOME_PURGE (2 ^ 31 + 2 ^ 30)
  | some k :: _ => s.setReg Reg.HOME_PURGE (2 ^ 31 + k)

/-- A request whose requester has become silent, as the home goes on with it (R261): what it has asked of others is still awaited, and
what they keep stays in the entry, while nothing is granted. -/
def HReq.orphan (r : HReq) : HReq :=
  let reads : Bool := match r.op, r.rq with
    | .rds, _ => true
    | .hostRead, .host mv => mv != .a
    | .hostInv, .host mv => mv != .a
    | _, _ => false
  { r with rq := .local_, op := if reads then .discard else .evict }

/-- The transaction of a silent requester goes on without it. Where the owner has been told to pass the line on, the requester's Done is
missing, and a line that it was to own is lost with it. -/
def State.orphanTxn (s : State) (y : HTxn) (who : Option Nat) : State :=
  let passed := y.granted && y.req.op == .rds
  let y' := { y with req := y.req.orphan, granted := passed, done := passed, fwd := false, lost := y.lost || (y.granted && !passed) }
  let s := if y.granted then
      (s.bump Fld.HOME_TIMEOUT_CNT_COUNT 1).memErr 0x15 1 1 (sliceOf y.req.gran) y.req.gran (match who with | some i => i | none => 0x8000)
    else s
  { s with txns := s.txns.map (fun t => if t.req.gran == y.req.gran then y' else t) }

/-- A member, or the host (`none`), has become silent: the answers awaited from it time out at once, its requests are discarded, those
whose transactions still wait for others among them, and the walk begins. -/
def State.purgeStart (s : State) (who : Option Nat) : State :=
  let from_ := fun (r : HReq) => match r.rq, who with | .peer k _ _, some j => k == j | .host _, none => true | _, _ => false
  let s : State := { s with conflict := s.conflict.filter (fun r => !from_ r) }
  let s := s.txns.foldl (fun t x =>
    match t.txns.find? (fun y => y.req.gran == x.req.gran && y.req == x.req) with
    | none => t
    | some y =>
      if y.waits.any (fun w => w.agent == who) then t.homeTimeout y (fun w => w.agent == who)
      else if !from_ y.req then t
      else if y.waits.isEmpty then t.homeTimeout y (fun _ => true)
      else t.orphanTxn y who) s
  if s.purges.contains who then s else ({ s with purges := s.purges ++ [who] } : State).showPurge.settle

/-- The entry without the pointer of a member, or without H (`none`). -/
def DirEnt.without (e : DirEnt) : Option Nat → DirEnt
  | some k => e.drop k
  | none => { e with h := false }

/-- What the walk does to the entry at key `k`; one whose line has an open transaction stays until that ends. -/
def State.purgeEntry (s : State) (who : Option Nat) (k : Nat) (e : DirEnt) : State :=
  let mine : Bool := match who with | some j => e.st == .m && !e.h && e.ptrs.contains j | none => e.st == .m && e.h
  let open_ := s.txns.any (fun t => t.req.gran == e.gran)
  if e.st = .free || (!mine && e.without who = e) then s
  else if mine then
    let s := s.poisonGran e.gran
    if open_ then s.setDir k { DirEnt.empty with gran := e.gran, age := e.age, st := .s } else s.dirPut e.gran DirEnt.empty
  else if open_ then s.setDir k (e.without who)
  else s.dirPut e.gran (e.without who)

/-- JOIN goes to a SILENT member that is not cut off and whose walk has ended (R390). -/
def State.sendJoin (s : State) (k : Nat) : State :=
  match s.spanChip k with
  | some c =>
    if s.spanState k = 2 && !(s.purges.contains (some k)) && (s.routePort c).isSome then
      s.send (mkMsg 0x66 c s.chip 0 0 0 (natLe 1 s.spanIdx ++ List.replicate 63 0))
    else s
  | none => s

/-- A SILENT member whose walk has ended and whose JOIN has come is ACTIVE again (R390). -/
def State.joinEnd (s : State) (k : Nat) : State :=
  if s.joined.contains k && s.spanState k = 2 && !(s.purges.contains (some k)) then
    ({ s with joined := s.joined.filter (· != k) } : State).setSpanState k 1
  else s

/-- PURGE_WALK_DONE: the walk has visited every set, and the next one begins. -/
def execPurgeWalkDone (s : State) : Out :=
  .next (s.whenRuns (fun s =>
    match s.purges with
    | [] => s
    | who :: rest =>
      let s := s.dir.foldl (fun t e => t.purgeEntry who e.1 e.2) s
      let s := s.serveAll (s.conflict.length + 1)
      let s := ({ s with purges := rest } : State).showPurge
      (match who with | some k => (s.sendJoin k).joinEnd k | none => s).settle))

/-- Drop this chip's copies of lines homed on a chip that has entered containment, each dirty sector with an error, and what
was asked of it (R262). -/
def State.dropHomed (s : State) (chip k : Nat) : State :=
  let s := s.l2.foldl (fun t e =>
    let pa := e.2.line * 128
    if e.2.valid && pa / 2 ^ 46 == chip && chip != t.chip then
      let one := fun (t : State) (p : Nat) =>
        match t.l2Sec p with
        | some x =>
          let t := if x.st = .m then t.unitErr 0x17 1 1 (sliceOf (p % 2 ^ 46)) p k none else t
          t.l2Inval p
        | none => t
      one (one t pa) (pa + 64)
    else t) s
  let other := fun (g : Nat) => g / 2 ^ 46 != chip
  let gone := (s.rbuf.filter (fun e => !other e.1 && e.2.st == .m)).map (·.1) ++ (s.wbuf.filter (fun w => !other w.gran)).map (·.gran)
  let s := gone.foldl (fun (t : State) g => t.unitErr 0x17 1 1 (sliceOf (g % 2 ^ 46)) g k none) s
  { s with rbuf := s.rbuf.filter (fun e => other e.1), wbuf := s.wbuf.filter (fun w => other w.gran),
           preqs := s.preqs.filter (fun r => other r.gran), inHold := s.inHold.filter other,
           delayed := s.delayed.filter (fun m => other (msgGran m)) }

end Sys2Proof.Machine
end

