-- ==== Sys2Proof/Machine/Translate.lean ====
section
/-! DEFINITION. The translation unit's steps: walks, fault batches, limits and replies, invalidation with its drain, and the
remote windows (R273 to R298). -/
namespace Sys2Proof.Machine

/-! ### Requests that end in error -/

/-- The access with the lowest lane, the first of those it makes. -/
def lowestLane (l : List LaneAcc) : Option LaneAcc :=
  l.foldl (fun (b : Option LaneAcc) a => match b with | some d => if a.lane < d.lane then some a else some d | none => some a) none

/-- An outstanding load or atomic of a core ends with an error response to the accesses `bad`: a Memory fault of its group in their
lanes, with the address of the lowest, kept for the restore while the team is preempted (R117, R121, R279). -/
def State.failLanes (s : State) (c : Nat) (r : MemReq) (bad : List LaneAcc) : State :=
  let s := s.modCore c (fun k => { k with reqs := k.reqs.filter (fun x => x.id != r.id) })
  (((s.lateFault c r.team r.gidx r.pc (maskOf (bad.map (·.lane))) (((lowestLane bad).map (·.va)).getD 0)).wakeCore c).sweepCmds)

/-- An outstanding load or atomic ends with an error response to every access that has not brought its bytes. -/
def State.failReq (s : State) (c id : Nat) : State :=
  match (s.core c).reqs.find? (fun r => r.id == id) with
  | none => s
  | some r => s.failLanes c r ((r.lanes.zipIdx.filter (fun a => !(r.got.any (fun e => e.1 == a.2 && e.2.isSome)))).map (·.1))

/-! ### Walks and faults -/

/-- PAGE_TABLE_WALK: the walk of a request that holds a walker ends (R273, R277). -/
def execPageTableWalk (k : Nat) (s : State) : Out := .next (s.whenService (fun s => s.runWalk k))

/-- FAULT_STALL_LIMIT: the fault-stall limit of a request expires (R284). -/
def execFaultStallLimit (k : Nat) (s : State) : Out := .next (s.whenService (fun s => s.stallLimit k))

/-- The 32 bytes of a fault record (Table 09.5) in a ring of 2^SIZE records. -/
def frecBytes (size : Nat) (f : FRec) : List Byte :=
  let b := fun (x : Bool) (i : Nat) => if x then 2 ^ i else 0
  natLe 8 f.va ++
    natLe 4 (b (f.seq / 2 ^ size % 2 == 0) 31 + b f.ovf 27 + b f.failed 26 + b f.fetch 25 + b f.write 24 + ((f.level - 1) % 4) * 2 ^ 22 +
      (f.kind % 16) * 2 ^ 16 + f.tag % 2 ^ 16) ++
    natLe 4 ((f.ukind % 16) * 2 ^ 28 + (f.part % 16) * 2 ^ 16 + f.unit % 256) ++ natLe 4 f.seq ++
    natLe 4 ((f.cls % 4) * 2 ^ 16 + f.joined) ++ natLe 8 f.newel.toNat

/-- A held entry that belongs to no batch of the fault ring. -/
def Held.noRing (h : Held) : Held :=
  { h with who := match h.who with | .ring _ => .nobody | .ringPart => .nobody | w => w }

/-- Is the entry part of a batch of the fault ring? -/
def Held.ofRing (h : Held) : Bool := h != h.noRing

/-- What is held of a batch of the fault ring counts for nothing. -/
def State.ringForget (s : State) : State := { s with ep := { s.ep with hold := s.ep.hold.map Held.noRing } }

/-- The ring is stopped after a write that failed (R282): EN clears, the records of the batch stay in the queue, and what else of it is
held counts for nothing. -/
def State.ringError (s : State) : State :=
  let s := (s.setFldB Fld.XLT_RING_CTL_EN false).setFldB Fld.XLT_FAULT_STATUS_RING_ERR true
  s.ringForget.pendVec (s.fld Fld.XLT_RING_CTL_VEC)

/-- The records before `n` have been performed: PROD advances and the vector is signalled (R282, R184). -/
def State.ringDone (s : State) (n : Nat) : State :=
  let past := fun (f : FRec) => let d := distance 32 f.seq n; 0 < d && d ≤ 2 ^ 31
  let s : State := { s with frecs := s.frecs.map (fun (f : FRec) => if past f then { f with written := true } else f) }
  ((s.setReg Reg.XLT_RING_PROD (n % 2 ^ 32)).pendVec (s.fld Fld.XLT_RING_CTL_VEC)).trimRecs.serveFaultWaits

/-- Records in SEQ order, as the entries of up to 64 bytes in which they leave (R320). -/
def ringBlocks : List FRec → List (List FRec)
  | f :: g :: l => if f.seq % 2 = 0 then [f, g] :: ringBlocks l else [f] :: ringBlocks (g :: l)
  | [f] => [[f]]
  | [] => []

/-- FAULT_BATCH: the waiting records for which the ring has room are written in SEQ order (R282). -/
def execFaultBatch (err : Bool) (s : State) : Out :=
  .next (s.whenService (fun s =>
    let size := s.fld Fld.XLT_RING_CTL_SIZE
    let prod := s.fld Fld.XLT_RING_PROD_PROD
    let room := 2 ^ size - distance 32 (s.fld Fld.XLT_RING_CONS_CONS) prod
    let l := (s.frecs.filter (fun f => !f.written)).take room
    let base := s.fld Fld.XLT_RING_BASE_BASE
    if !s.fldB Fld.XLT_RING_CTL_EN || l.isEmpty || s.ep.hold.any (fun h => match h.who with | .ring _ => true | _ => false) then s
    else if err || !s.unitOk base (32 * 2 ^ size) then s.ringError
    else
      let next := (l.getLast?.map (·.seq)).getD 0 + 1
      let (t, ok) := (ringBlocks l).foldl (fun (acc : State × Bool) b =>
        match acc, b with
        | (t, true), f :: _ =>
          t.unitWrite 0 (if b.any (fun g => g.seq + 1 == next) then .ring next else .ringPart) (base + 32 * (f.seq % 2 ^ size))
            (b.flatMap (frecBytes size))
        | acc, _ => acc) (s, true)
      -- a held batch counts when its last entry has left (Table 09.9)
      if !ok || (isHostRange base && !s.hostFlows) then t else t.ringDone next))

/-- XLT_RING_CTL.EN is set: SEQ and PROD return to zero, and the records in the queue are numbered again. A batch that
is still held is one of the old ring and counts for nothing in the new one (R281). -/
def State.ringStart (s : State) : State :=
  let old := s.frecs
  let num := fun (q : Nat) => (old.findIdx? (fun f => f.seq == q)).getD 0
  let s : State := { s with
    frecs := old.zipIdx.map (fun f => { f.1 with seq := f.2, written := false })
    walks := s.walks.map (fun (r : WalkReq) => match r.st with | .stalled q => { r with st := .stalled (num q) } | _ => r)
    fseq := BitVec.ofNat 32 old.length }
  (s.setReg Reg.XLT_RING_PROD 0).ringForget.noteUsed

/-- A write of XLT_RING_CONS: a value ahead of PROD, or more than the ring behind it, is ignored (R282). -/
def State.ringCons (s : State) (v : Nat) : State :=
  if distance 32 v (s.fld Fld.XLT_RING_PROD_PROD) ≤ 2 ^ s.fld Fld.XLT_RING_CTL_SIZE then (s.setReg Reg.XLT_RING_CONS v).noteUsed
  else s.setFldB Fld.XLT_FAULT_STATUS_BAD_CONS true

/-! ### Translation commands (R268, R286 to R289, R298) -/

def noOp (_ : Nat) : XltOp := .none

def State.xop (s : State) (ch : Nat) : XltOp := SMap.get noOp s.xops ch
def State.setXop (s : State) (ch : Nat) (o : XltOp) : State := { s with xops := SMap.set noOp s.xops ch o }

/-- A command of a channel ends: GO clears, DONE is set with RESULT. -/
def State.xltEnd (s : State) (ch result : Nat) : State :=
  (((s.setXop ch .none).setFldB (Fld.XLT_CMD_GO ch) false).setFldB (Fld.XLT_CMD_STATUS_DONE ch) true).setFld (Fld.XLT_CMD_STATUS_RESULT ch) result

/-- The tag of the team in slot `t` of a core. -/
def Core.tagOf (k : Core) (t : Nat) : Option Nat := (k.team t).map (·.tag)

/-- The tag in which a read that has left the chip was translated, where a transfer or an instruction that waits made it: the loads and
atomics of a core are known by themselves. -/
def State.tagOfIo (s : State) : IoWho → Option Nat
  | .kept c n => ((s.core c).kept.find? (fun k => k.id == n)).bind (fun k => (s.core c).tagOf k.team)
  | .xfer c id => ((s.core c).xfers.find? (fun x => x.id == id)).bind (fun x => (s.core c).tagOf x.team)
  | .chan n => (s.chan n).map (fun x => (s.sq x.team).tag)
  | _ => none

/-- Old accesses of a tag, or of every tag (R287): those that hold a physical address. -/
def State.oldAccs (s : State) (all : Bool) (tag : Nat) : List OldAcc :=
  let hit := fun (t : Nat) => all || t == tag
  let hitO := fun (t : Option Nat) => t.elim false hit
  let ofCore := fun (c : Nat) (k : Core) =>
    ((k.reqs.filter (fun r => hit r.tag)).map (fun r => OldAcc.core c r.id)) ++ ((k.sq.filter (fun x => hit x.tag)).map (fun x => .core c x.id)) ++
      ((k.mb.filter (fun x => hit x.tag)).map (fun x => .core c x.id)) ++
      ((k.xfers.filter (fun x => x.pend != [] && hitO (k.tagOf x.team))).map (fun x => .xfer c x.id x.gen))
  s.cores.flatMap (fun e => ofCore e.1 e.2) ++
    s.chanXf.filterMap (fun e => match e.2 with
      | some x => if x.pend != [] && hit (s.sq x.team).tag then some (.chan e.1 x.team x.seq x.gen) else none
      | none => none) ++
    (s.ep.tags.filter (fun t => t.ans.isNone && hitO (s.tagOfIo t.owner))).map (fun t => .io t.tag t.addr t.owner) ++
    (s.winOut.filter (fun a => !a.wr && a.ans.isNone && hitO (s.tagOfIo a.owner))).map (fun a => .win a.txn a.chip a.owner)

/-- Remove every translation of a tag, or of every tag, with the instruction lines under them (R287). A walk under way serves its own
request alone, and what has its leaf but has not used it walks again. The old accesses close, so that they drain. -/
def State.dropTag (s : State) (all : Bool) (tag : Nat) : State :=
  let hit := fun (t : Nat) => all || t == tag
  let s := s.dropTlb (fun t => hit t.tag)
  let next := fun (x : Xfer) (t : Option Nat) => if t.elim false hit then { x with gen := x.gen + 1 } else x
  ({ s with
    walks := s.walks.map (fun (r : WalkReq) =>
      if !hit r.tag then r
      else match r.st with | .walking => { r with only := r.only || r.started } | .leaf _ => r.again | _ => r)
    chanXf := s.chanXf.map (fun e => (e.1, e.2.map (fun x => next x (some (s.sq x.team).tag))))
    cores := s.cores.filterMap (fun e =>
      let k : Core := { e.2 with
        ic := e.2.ic.filter (fun l => !(l.2.valid && hit l.2.asid))
        mb := e.2.mb.map (fun x => if hit x.tag then { x with closed := true } else x)
        xfers := e.2.xfers.map (fun x => next x (e.2.tagOf x.team)) }
      if k = coreDefault e.1 then none else some (e.1, k)) } : State).startWalks

/-- May the context of a tag be destroyed (R289)? -/
def State.tagUsed (s : State) (tag : Nat) : Bool :=
  s.cores.any (fun e => e.2.teamList.any (fun t => t.2.tag == tag)) ||
    s.chanXf.any (fun e => match e.2 with | some x => (s.sq x.team).tag == tag | none => false) ||
    s.frecs.any (fun f => f.opn && f.tag == tag)

/-- The checks of a root at create and set-root (R268). -/
def State.rootOk (s : State) (p la : Nat) : Bool := s.definedPart p && la % 4096 == 0 && la < 2 ^ 46 && s.tableOk p (s.paOf la)

/-- GO of XLT_CMD: invalidations and removals begin; the other commands act when they end. A command that names tag zero is
refused (R268). -/
def State.xltGo (s : State) (ch : Nat) : State :=
  let op := s.fld (Fld.XLT_CMD_OP ch)
  let tag := s.fld (Fld.XLT_CMD_TAG ch)
  let c := s.ctx tag
  let inv := fun (t : State) (all destroy : Bool) => (t.dropTag all tag).setXop ch (.inval all tag destroy (t.oldAccs all tag))
  if op ≠ 1 && tag = 0 then s.xltEnd ch 2
  else
    match op with
    | 0 => inv s false false
    | 1 => inv s true false
    | 3 => if !c.valid then s.xltEnd ch 1 else if s.tagUsed tag then s.xltEnd ch 2 else inv s false true
    | 8 =>
      let la := s.fld (Fld.XLT_CMD_ADDR_ADDR ch)
      if !c.valid || !s.rootOk c.part la then s.xltEnd ch 1
      else inv (s.setCtx tag { c with root := s.paOf la }) false false
    | _ => s.setXop ch (.run 0 0)

/-- Is an old access still pending (R288)? -/
def State.oldPends (s : State) : OldAcc → Bool
  | .core c id => (s.core c).pendingAny [id]
  | .xfer c id g => (s.core c).xfers.any (fun x => x.id == id && x.pend.any (· ≤ g))
  | .chan n q seq g => match s.chan n with | some x => x.team == q && x.seq == seq && x.pend.any (· ≤ g) | none => false
  | .io t a w => s.ep.tags.any (fun x => x.tag == t && x.addr == a && x.owner == w && x.ans.isNone)
  | .win t c w => s.winOut.any (fun x => x.txn == t && x.chip == c && x.owner == w && x.ans.isNone)

/-- Old accesses that are still pending. -/
def State.oldLeft (s : State) (l : List OldAcc) : List OldAcc := l.filter s.oldPends

/-- The end of an invalidation: a destroyed context is removed. -/
def State.invalEnd (s : State) (ch tag : Nat) (destroy : Bool) (result : Nat) : State :=
  (if destroy then s.setCtx tag Ctx.empty else s).xltEnd ch result

/-- INVALIDATION_DONE: every old access has retired (R288). -/
def execInvalidationDone (ch : Fin 4) (s : State) : Out :=
  .next (s.whenService (fun s =>
    match s.xop ch with
    | .inval _ tag destroy olds => if (s.oldLeft olds).isEmpty then s.invalEnd ch tag destroy 0 else s
    | _ => s))

/-- An old store is dropped at the drain limit: logged with its physical address and counted (R288). -/
def State.drainStore (s : State) (c id : Nat) : State :=
  let k := s.core c
  let note := fun (s : State) (t : Tgt) (tag part : Nat) =>
    ((((s.bump Fld.XLT_DRAIN_DROP_CNT_COUNT 1).unitErr 0x19 1 0xA 0 (tgtAddr t) tag (if s.definedPart part then some part else none)).wakeCore c).sweepCmds)
  match k.sq.find? (fun e => e.id == id), k.mb.find? (fun e => e.id == id) with
  | some e, _ => note (s.modCore c (fun k => { k with sq := k.sq.filter (fun x => x.id != id) })) e.tgt e.tag e.part
  | none, some e => note (s.modCore c (fun k => { k with mb := k.mb.filter (fun x => x.id != id) })) e.tgt e.tag e.part
  | none, none => s

/-- The old writes of a transfer get an error response: it fails, and what they bring later counts no more (R288). -/
def Xfer.drained (x : Xfer) (g : Nat) : Xfer :=
  { x with pend := x.pend.filter (· > g), failed := true, bad := if x.failed then x.bad else x.dst + BitVec.ofNat 64 x.done }

/-- Whoever waits for a read that has left the chip gets an error response: a transfer fails, and an instruction finds the error when it
goes on. -/
def State.drainOwner (s : State) (w : IoWho) : State :=
  match w with
  | .xfer c id => (s.modCore c (fun k => { k with xfers := k.xfers.map (fun x => if x.id == id then x.drained 0 else x) })).xferOver c id
  | .chan n => match s.chan n with | some x => (s.setChan n (some (x.drained 0))).chanOver n | none => s
  | _ => s

/-- The drain limit ends an old access: a buffered store is dropped, anything else receives an error response (R288). -/
def State.drainOld (s : State) (o : OldAcc) : State :=
  match o with
  | .core c id => (s.drainStore c id).failReq c id
  | .xfer c id g => (s.modCore c (fun k => { k with xfers := k.xfers.map (fun x => if x.id == id then x.drained g else x) })).xferOver c id
  | .chan n _ _ g => match s.chan n with | some x => (s.setChan n (some (x.drained g))).chanOver n | none => s
  | .io t a w =>
    let old := s.ep.tags.filter (fun x => x.tag == t && x.addr == a && x.owner == w && x.ans.isNone)
    let left := s.ep.tags.map (fun (x : IoTag) => if old.contains x then { x with owner := .dead } else x)
    let ended := old.map (fun (x : IoTag) => { x with ans := some none })
    ({ s with ep := { s.ep with tags := left ++ ended } } : State).drainOwner w
  | .win t c w =>
    let hit := fun (x : WinAcc) => x.txn == t && x.chip == c && x.owner == w && x.ans.isNone
    ({ s with winOut := s.winOut.map (fun x => if hit x then { x with ans := some none } else x) } : State).drainOwner w

/-- DRAIN_LIMIT: XLT_DRAIN_LIMIT expires with old accesses pending (R288). -/
def execDrainLimit (ch : Fin 4) (s : State) : Out :=
  .next (s.whenService (fun s =>
    match s.xop ch with
    | .inval _ tag destroy olds =>
      let l := s.oldLeft olds
      if l.isEmpty then s
      else
        let s := l.foldl State.drainOld s
        s.invalEnd ch tag destroy 3
    | _ => s))

/-! ### Windows: what answers at the issuing chip (R293) -/

def noPull (_ : Nat) : Option Pull := none
def State.pull (s : State) (n : Nat) : Option Pull := SMap.get noPull s.pulls n
def State.setPull (s : State) (n : Nat) (v : Option Pull) : State := { s with pulls := SMap.set noPull s.pulls n v }

/-- Does the owner of a read still wait for it? -/
def State.ioAlive (s : State) : IoWho → Bool
  | .lane c r _ => (s.core c).asks r
  | .kept c n => (s.core c).kept.any (fun k => k.id == n)
  | .xfer c id => (s.core c).xfers.any (fun x => x.id == id)
  | .chan n => (s.chan n).isSome
  | .unit => true
  | .raw n => (s.pull n).isSome

/-- An answer to a window read or atomic. -/
def State.winAnswer (s : State) (m : Msg) (r : Option (List Byte × Bool)) : State :=
  match s.winOut.find? (fun a => a.txn == m.txn.toNat && a.chip == m.src.toNat && a.ans.isNone) with
  | none => s
  | some a =>
    let s' : State := { s with winOut := s.winOut.erase a }
    if a.wr then
      match r, m.aux.toNat, a.who with
      | some _, _, w => s'.ackWho w .ok
      -- a store to a chip that is cut off is a store to a dead peer (R187, R381)
      | none, 7, .store c id => s'.dropStore c id
      | none, 7, .merge c id => s'.dropStore c id
      | none, _, w => s'.ackWho w .bad
    else if s.ioAlive a.owner then
      { s with winOut := s.winOut.map (fun x => if x == a then { x with ans := some (r.map (fun d => (d.1.take a.len, d.2))) } else x) }
    else s'

/-- WRDRSP: the data of a window read. -/
def execWrdrsp (m : Msg) (s : State) : Out := .next (s.serveMsg m 0x50 (fun s => some (s.winAnswer m (some (m.data, m.poison)))))

/-- WWRACK: a window write is performed. -/
def execWwrack (m : Msg) (s : State) : Out := .next (s.serveMsg m 0x51 (fun s => some (s.winAnswer m (some ([], false)))))

/-- WATOMRSP: the old value of a window atomic. -/
def execWatomrsp (m : Msg) (s : State) : Out := .next (s.serveMsg m 0x52 (fun s => some (s.winAnswer m (some (m.data, m.poison)))))

/-- WERR: the receiving chip has refused the access, or is cut off (R293, R381). -/
def execWerr (m : Msg) (s : State) : Out := .next (s.serveMsg m 0x53 (fun s => some (s.winAnswer m none)))

/-! ### Windows: the receiving chip (R294 to R296) -/

/-- The window entry, from the unit's copy or from the table; `none`: it has still to be read. A copy that finds the unit full
replaces the oldest (R296). -/
def State.winEntry (s : State) (idx : Nat) : State × Option WinEnt :=
  match s.wins.find? (fun e => e.idx == idx) with
  | some e => (s, some e)
  | none =>
    match s.unitRead 0 (s.fld Fld.XLT_WIN_BASE_BASE + 16 * idx) 16 with
    | (s, some (some (b, _))) =>
      let e : WinEnt := ⟨idx, at' b 0 8, at' b 8 8⟩
      ({ s with wins := (if s.wins.length ≥ 256 then s.wins.tail else s.wins) ++ [e] }, some e)
    | (s, some none) => (s, some ⟨idx, 0, 0⟩)
    | (s, none) => (s, none)

/-- Why a window access is refused (R295, XLT_WIN_LAST.REASON); `none`: it is performed. -/
def State.winRefuse (s : State) (e : WinEnt) (src off len : Nat) (write : Bool) : Option Nat :=
  let size := bits e.lo 20 16
  let p := bits e.lo 11 8
  let la := bits e.hi 45 0 + off
  let ty := bits e.lo 4 2
  let reserved := bits e.lo 31 25 != 0 || bits e.lo 23 21 != 0 || bits e.lo 15 12 != 0 || bits e.lo 7 5 != 0 ||
    bits e.lo 63 42 != 0 || bits e.hi 63 46 != 0 || size < 12 || ty == 3 || ty > 4
  if !e.lo.testBit 0 then some 1
  else if off + len > 2 ^ size then some 2
  else if write && !e.lo.testBit 1 then some 3
  else if !e.lo.testBit 24 && bits e.lo 41 32 ≠ src then some 4
  else if reserved then some 6
  else if !(s.definedPart p && (if isHostRange la then s.ownsHost p la len else (isHbm la || isGallery la) && s.ownsRange p la len)) then some 5
  else none

/-- Refuse an access: counted, noted, and answered with WErr. -/
def State.winRefused (s : State) (m : Msg) (idx reason : Nat) : State :=
  let s := (s.bump Fld.XLT_WIN_REFUSED_CNT_COUNT 1).setReg Reg.XLT_WIN_LAST (reason * 2 ^ 29 + m.src.toNat * 2 ^ 12 + idx)
  s.send (mkMsg 0x53 m.src.toNat s.chip m.txn.toNat m.addr.toNat reason zero64)

/-- Window and offset of a message's address. -/
def winOf (m : Msg) : Nat × Nat := (bits m.addr.toNat 43 32, bits m.addr.toNat 31 0)

/-- Serve a window request: its entry is read and checked, and `f` performs it at a local address for a partition with a type;
`none`: it waits. -/
def State.winServe (s : State) (m : Msg) (len : Nat) (write : Bool) (f : State → Nat → Nat → MType → Option State) : Option State :=
  let (idx, off) := winOf m
  match s.winEntry idx with
  | (_, none) => none
  | (s, some e) =>
    match s.winRefuse e m.src.toNat off len write with
    | some r => some (s.winRefused m idx r)
    | none => f s (bits e.hi 45 0 + off) (bits e.lo 11 8) ((leafType (bits e.lo 4 2)).getD .wb)

/-- Serve a window message in its place among those that have arrived: while it waits, what it asked for still comes. -/
def State.serveWin (s : State) (m : Msg) (opc : Nat) (len : Nat) (write : Bool) (f : State → Nat → Nat → MType → Option State)
    (ask : State → State) : State :=
  s.whenService (fun s =>
    match s.takeMsg m opc with
    | none => s
    | some t =>
      match t.winServe m len write f with
      | some u => u.settle
      | none => ask s)

/-- The bytes of a read for a window, as a local requester of this chip with the entry's type (R295). -/
def State.winRead1 (s : State) (la p len : Nat) (ty : MType) : State × Option (Option (List Byte × Bool)) :=
  if isHostRange la && !s.cacheEnable then s.ioRead .unit la len
  else
    match s.readAll p (s.unitPa la) len ty.readAge with
    | (s, some r) => (s, some (some r))
    | (s, none) => (s, none)

/-- The entry and the bytes that a waiting access has to bring. -/
def State.winBring (s : State) (m : Msg) (f : State → Nat → Nat → MType → State) : State :=
  match s.winEntry (winOf m).1 with
  | (s, none) => s
  | (s, some e) => f s (bits e.hi 45 0 + (winOf m).2) (bits e.lo 11 8) ((leafType (bits e.lo 4 2)).getD .wb)

/-- WRD: a window read; its data stands from byte 0 of WRdRsp on. -/
def execWrd (m : Msg) (s : State) : Out :=
  let len := m.aux.toNat % 64 + 1
  .next (s.serveWin m 0x40 len false
    (fun s la p ty =>
      match s.winRead1 la p len ty with
      | (s, some (some (d, po))) =>
        some (s.send { mkMsg 0x50 m.src.toNat s.chip m.txn.toNat m.addr.toNat 0 (patch zero64 0 d) with poison := po })
      | (s, some none) => some (s.send (mkMsg 0x53 m.src.toNat s.chip m.txn.toNat m.addr.toNat 0 zero64))
      | (_, none) => none)
    (fun s => s.winBring m (fun s la p ty => (s.winRead1 la p len ty).1)))

/-- Contiguous runs of the bytes of a block. -/
def runsOf (bs : List (Nat × Byte)) : List (List (Nat × Byte)) :=
  (List.range 64).foldl (fun (acc : List (List (Nat × Byte))) i =>
    match bs.find? (fun b => b.1 == i), acc.reverse with
    | none, _ => acc
    | some b, r :: rest => if (r.getLast?.map (·.1)) = some (i - 1) && i > 0 then (rest.reverse) ++ [r ++ [b]] else acc ++ [[b]]
    | some b, [] => [[b]]) []

/-- Posted CXL.io writes of bytes of one block of host memory, the last with `who`; the Bool says that they have left. -/
def State.ioWrite (s : State) (who : Who) (a : Nat) (bs : List (Nat × Byte)) : State × Bool :=
  let l := runsOf bs
  let s' := l.zipIdx.foldl (fun t r =>
    let o := (r.1.headD (0, 0)).1
    t.hostOut (if r.2 + 1 = l.length then who else .nobody) (.memWr (s.hostName (a / 64 * 64 + o)) (r.1.map (·.2)))) s
  (s', s.hostFlows)

/-- WWR: a window write of masked bytes. -/
def execWwr (m : Msg) (s : State) : Out :=
  let bs := maskBytes m.mask m.data
  let low := (bs.headD (0, 0)).1
  let len := ((bs.getLast?.map (·.1)).getD 0) + 1
  .next (s.serveWin m 0x41 len true
    (fun s la p ty =>
      let who := Who.win m.src.toNat m.txn.toNat m.addr.toNat
      let ack := fun (t : State) => t.ackWho who .ok
      if bs.isEmpty then some (ack s)
      else if isHostRange (la + low) && !s.cacheEnable then
        if s.ioBarred then none
        else
          let (t, out) := s.ioWrite who la bs
          some (if out then ack t else t)
      else
        match s.writeSec p (s.unitPa la) ty.pol bs none who with
        | (t, .done) => some (ack t)
        | (t, .sent) => some t
        | (t, .bad) => some (t.ackWho who .bad)
        | (_, .wait) => none)
    (fun s => s.winBring m (fun s la p ty =>
      if isHostRange la && !s.cacheEnable then s else (s.writeSec p (s.unitPa la) ty.pol bs none .nobody).1)))

/-- WATOM: a window atomic, performed here (R508). Host memory without CXL.cache takes none. -/
def execWatom (m : Msg) (s : State) : Out :=
  let w64 := m.aux.getLsbD 4
  let n := if w64 then 8 else 4
  let op := aopOf (bits m.aux.toNat 3 0)
  .next (s.serveWin m 0x42 n true
    (fun s la p _ =>
      let err := fun (t : State) => t.send (mkMsg 0x53 m.src.toNat t.chip m.txn.toNat m.addr.toNat 0 zero64)
      if la % n ≠ 0 || (isHostRange la && !s.cacheEnable) then some (err s)
      else
        let pa := s.unitPa la
        match s.ownSec p pa with
        | (_, none) => none
        | (s, some (d, po)) =>
          let old := at' d (pa % 64) n
          let rsp := { mkMsg 0x52 m.src.toNat s.chip m.txn.toNat m.addr.toNat 0 (patch zero64 0 (natLe n old)) with poison := po }
          if po then some ((s.ownEnd pa).send rsp)
          else
            let v := aopFn op (8 * n) old (at' m.data 0 n) (at' m.data 8 n)
            let bs := (natLe n v).zipIdx.map (fun b => (pa % 64 + b.2, b.1))
            match s.writeSec p pa (.alloc 1) bs none .nobody with
            | (t, .wait) => let _ := t; none
            | (t, _) => some (t.send rsp))
    (fun s => s.winBring m (fun s la p _ => (s.ownSec p (s.unitPa la)).1)))

/-- Inbound window writes that are not performed yet. -/
def State.winPends (s : State) : List Who :=
  (s.preqs.map (·.who) ++ s.hcReqs.map (·.who) ++ s.ep.hold.map (·.who)).filter (fun w => match w with | .win _ _ _ => true | _ => false)

/-- GO of XLT_WIN_CMD: the unit's copies of the named entry, or of every entry, are dropped, and the accesses that have used them are
awaited (R296). -/
def State.winGo (s : State) : State :=
  let idx := s.fld Fld.XLT_WIN_CMD_IDX
  let all := s.fldB Fld.XLT_WIN_CMD_ALL
  let of := fun (w : Who) => match w with | .win _ _ a => all || bits a 43 32 == idx | _ => false
  { s with wins := s.wins.filter (fun e => !all && e.idx != idx), winOld := s.winPends.filter of }

/-- WINDOW_REFRESH_DONE: no access uses an old copy any more. -/
def execWindowRefreshDone (s : State) : Out :=
  .next (s.whenService (fun s =>
    if s.fldB Fld.XLT_WIN_CMD_GO && s.winOld.all (fun w => !s.winPends.contains w) then (s.setFldB Fld.XLT_WIN_CMD_GO false).setFldB Fld.XLT_WIN_STATUS_DONE true else s))

end Sys2Proof.Machine
end

