-- ==== Sys2Proof/Machine/TierOps.lean ====
section
/-! DEFINITION. The tier manager's shared operations: quotas and the pool, taking a page, moves, what a step needs, and the endings
of Table 12.6 (R357 to R374). -/
namespace Sys2Proof.Machine

/-! ### Quotas and the pool (R368, R369) -/

/-- Pages of tier `t` that a quota word gives. -/
def quotaPages (v t : Nat) : Nat :=
  match t with
  | 0 => bits v 15 0
  | 1 => bits v 36 16 * 16
  | _ => bits v 51 37 * 16384

def State.quota (s : State) (p t : Nat) : Nat := quotaPages (s.reg (Reg.TIER_QUOTA p)) t
def State.poolSize (s : State) (t : Nat) : Nat := quotaPages (s.reg Reg.TIER_POOL) t

/-- The pages of the reserved Gallery quota of a partition. -/
def State.galRes (s : State) (p : Nat) : Nat := s.fld (Fld.SQ_PART_RES_GALLERY p) * 16

/-- Pages that count against quota or pool, those that a move has taken included. -/
def State.pagesIn (s : State) (f : (p t : Nat) → (pool c0 : Bool) → Bool) : Nat :=
  (s.pages.filter (fun (g : Page) => f g.part g.tier g.pool g.c0)).length + (s.moves.filter (fun (m : Move) => f m.part m.toT m.pool m.c0)).length

def State.quotaUsed (s : State) (p t : Nat) : Nat := s.pagesIn (fun q u pool _ => q == p && u == t && !pool)
def State.poolUsed (s : State) (t : Nat) : Nat := s.pagesIn (fun _ u pool _ => u == t && pool)

/-- May partition `p` take a page within its quota? Pages that are not of Class 0 leave the reserved part of tier 0 free. -/
def State.quotaRoom (s : State) (p t : Nat) (c0 : Bool) : Bool :=
  s.quotaUsed p t < s.quota p t &&
    (t != 0 || c0 || s.pagesIn (fun q u pool c => q == p && u == 0 && !pool && !c) + s.galRes p < s.quota p 0)

/-- The 64 KiB units of memory from which partition `p` takes pages of a tier, by local address (keys 0x0302, 0x0303). -/
def State.pagePlaces (s : State) (p t : Nat) : List Nat :=
  let units := fun (r : Nat × Nat) => (List.range (r.2 / 0x10000)).map (fun i => r.1 + 0x10000 * i)
  match t with
  | 0 => (((pairsOf 16 0 (s.srec 0x0302 p)).filter (fun r => isGallery r.1)).flatMap units).filter (fun a => s.ownsRange p a 0x10000)
  | 1 => (((pairsOf 16 0 (s.srec 0x0302 p)).filter (fun r => isHbm r.1)).flatMap units).filter (fun a => s.ownsRange p a 0x10000)
  | _ => let v := s.srec 0x0303 p; units (hostBase + at' v 0 8, at' v 8 8)

/-- Do two 64 KiB units share a byte? A unit of the Gallery may be named in either alias. -/
def unitsMeet (a b : Nat) : Bool :=
  a == b || (isGallery a && isGallery b && (List.range 128).any (fun i => covers b 0x10000 (canon (a + 512 * i))))

/-- The places that hold no page and wait for none. -/
def State.freePlaces (s : State) (p t : Nat) : List Nat :=
  (s.pagePlaces p t).filter (fun a => !(s.pages.any (fun g => unitsMeet g.phys a)) && !(s.moves.any (fun m => unitsMeet m.phys a)))

/-- Is a page being moved? -/
def State.moving (s : State) (o : POwner) (i : Nat) : Bool := s.moves.any (fun m => m.owner == o && m.idx == i)

def State.page (s : State) (o : POwner) (i : Nat) : Option Page := s.pages.find? (fun g => g.owner == o && g.idx == i)

/-- Has a MODEL command been taken up? -/
def Cmd.taken (c : Cmd) : Bool := c.inlen.isSome

/-- The MODEL commands that run, with their queues. -/
def State.models (s : State) : List (Nat × Cmd) :=
  s.sqs.flatMap (fun e => (e.2.cmds.filter (fun c => c.st == .running && !c.cancel && descType c.desc == 2)).map (fun c => (e.1, c)))

/-- The first position of the hot set of a step that writes position `pos` (R366). -/
def Image.hotFrom (i : Image) (pos : Nat) : Nat := if i.window = 0 then 0 else pos - i.window

/-- Entries of a command that have fired: those below the launched layers plus LEAD. -/
def State.firedTo (s : State) (c : Cmd) (layers : Nat) : Nat :=
  min (c.step * layers + c.layer + (if c.begun then 1 else 0) + s.fld Fld.TIER_CTL_LEAD) (mSteps c.desc * layers)

/-- Is a page in the hot set of a pending step (R366), of those steps included whose entries have fired? -/
def State.isHot (s : State) (o : POwner) (idx : Nat) : Bool :=
  match o with
  | .stream n _ =>
    match s.strm n with
    | some v =>
      match s.img v.image with
      | some i =>
        i.hotFrom v.pos / i.perPage ≤ idx && s.models.any (fun m => mStream m.2.desc == n &&
          idx ≤ (v.pos + ((s.firedTo m.2 i.layers - 1) / i.layers - m.2.step)) / i.perPage)
      | none => false
    | none => false
  | _ => false

/-- Is a page evictable (R370)? The home copy of an image whose reside runs is being moved, and the input area of a MODEL command that has
been taken up is in use (R372; log entry 60). -/
def State.evictable (s : State) (g : Page) : Bool :=
  !g.pinned && !s.moving g.owner g.idx &&
    (match g.owner with
    | .copy _ => false
    | .input n => !(s.models.any (fun m => m.2.taken && mStream m.2.desc == n))
    | .image i => (match s.img i with | some m => m.res != .locked && m.res != .changing | none => true)
    | .stream _ _ => !(g.tier == 1 && s.isHot g.owner g.idx))

def POwner.layer : POwner → Nat
  | .stream _ l => l
  | _ => 0

/-- The order of ages with the tie rule of R370. -/
def State.older (s : State) (a b : Page) : Bool :=
  let key := fun (g : Page) => [g.age.toNat, g.idx, g.owner.layer, s.pageVa g.owner g.idx]
  decide (List.Lex (· < ·) (key a) (key b))

/-- The oldest evictable page that `p` selects. -/
def State.oldest (s : State) (f : Page → Bool) : Option Page :=
  (s.pages.filter (fun g => f g && s.evictable g)).foldl (fun (b : Option Page) g =>
    match b with | none => some g | some x => if s.older g x then some g else b) none

/-- The outcome of taking a page: a place, whose count it uses; not yet, since one is being freed; or no space. -/
inductive Take where
  | got (phys : Nat) (pool : Bool)
  | wait
  | noSpace
  deriving DecidableEq, Repr

/-- A free place, any one of them. -/
def State.pickPlace (s : State) (p t : Nat) (pool : Bool) : State × Take :=
  let l := s.freePlaces p t
  let (s, n) := s.takeFree
  match l[(Config.freeW64 n).toNat % (max l.length 1)]? with
  | some a => (s, .got a pool)
  | none => (s, .noSpace)

/-- Take a page of tier `t` for partition `p` (R369): within the quota, from the pool, or by a demotion, whose end the taker
waits for. Pages over a lowered quota go first (R377). -/
def State.takePage : Nat → State → Nat → Nat → Bool → State × Take
  | 0, s, _, _, _ => (s, .noSpace)
  | fuel + 1, s, p, t, c0 =>
    if s.quotaRoom p t c0 then s.pickPlace p t false
    else if s.poolUsed t < s.poolSize t then s.pickPlace p t true
    else
      let mine := fun (g : Page) => g.part == p && g.tier == t && !g.pool && (c0 || !g.c0)
      let leaving := s.moves.any (fun m => m.toT == t + 1 &&
        (match s.page m.owner m.idx with | some g => g.tier == t && (g.pool || mine g) | none => false))
      let excess := if s.quotaUsed p t > s.quota p t then s.oldest mine else none
      let v := match excess with
        | some g => some g
        | none => match s.oldest (fun g => g.tier == t && g.pool) with | some g => some g | none => s.oldest mine
      if leaving then (s, .wait)
      else if t ≥ 2 then (s, .noSpace)
      else
        match v with
        | none => (s, .noSpace)
        | some g =>
          match State.takePage fuel s g.part (t + 1) g.c0 with
          | (s, .got a pool) =>
            let s := if g.pool then s.bump Fld.TIER_POOL_EVICT_CNT_COUNT 1 else s
            ({ s with moves := s.moves ++ [⟨g.owner, g.idx, t + 1, g.part, a, pool, false, none⟩] }, .wait)
          | (s, r) => (s, r)

/-- Place a fresh zero-filled page of tier 0, or say why not. -/
def State.newPage (s : State) (o : POwner) (idx p : Nat) (c0 : Bool) : State × Take :=
  match s.takePage 3 p 0 c0 with
  | (s, .got a pool) =>
    let g : Page := ⟨o, idx, p, 0, pool, s.aon.newel, c0 && !pool, false, a, false, [], []⟩
    ((({ s with pages := s.pages ++ [g] } : State).storeRun a (List.replicate 0x10000 0)), .got a pool)
  | r => r

/-! ### Sealing for tier 2 (R453) -/

def noKeys (_ : Nat) : PKeys := PKeys.empty

def State.keys (s : State) (p : Nat) : PKeys := SMap.get noKeys s.rot.keys p
def State.setKeys (s : State) (p : Nat) (k : PKeys) : State := { s with rot := { s.rot with keys := SMap.set noKeys s.rot.keys p k } }

/-- The additional data of a page: partition, image or stream, layer, page index and counter. -/
def pageAad (g : Page) (ctr : Nat) : List Byte :=
  let n := match g.owner with | .image i => i | .copy i => i | .stream n _ => n | .input n => n
  natLe 4 g.part ++ natLe 4 n ++ natLe 4 g.owner.layer ++ natLe 4 g.idx ++ natLe 8 ctr

/-- Seal the bytes of a page: the ciphertext, the nonce and the tag. -/
def State.sealPage (s : State) (g : Page) (b : List Byte) : State × List Byte × List Byte × List Byte :=
  let k := s.keys g.part
  let nonce := natLe 4 k.epoch ++ natLe 8 k.spill
  let key := Config.spillKey s.rot.memGen g.part
  let aad := pageAad g k.spill
  (s.setKeys g.part { k with spill := k.spill + 1 }, Config.gcmSeal key nonce aad b, nonce, natLe 16 (Config.gcmTag key nonce aad b).toNat)

/-- Open a page of tier 2; `none`: its check fails. -/
def State.openPage (s : State) (g : Page) (b : List Byte) : Option (List Byte) :=
  Config.gcmOpen (Config.spillKey s.rot.memGen g.part) g.nonce (pageAad g (leNat (g.nonce.drop 4))) (b ++ g.tag)

/-! ### Endings (R373, R374) -/

/-- Cancel a command's teams and end it. -/
def State.endNow (s : State) (q seq status detail : Nat) : State := ((s.stopKernel q seq).endCmd q seq status detail).sweepCmds

/-- End a MODEL command with STATUS TIER (Table 12.6). -/
def State.tierEnd (s : State) (q seq whereN : Nat) (kv : Bool) (tier cause : Nat) : State :=
  let s := s.bump (if cause = 1 then Fld.TIER_LATE_CNT_COUNT else Fld.TIER_FAIL_CNT_COUNT) 1
  s.endNow q seq 5 (whereN % 2 ^ 24 * 256 + (if kv then 64 else 0) + tier * 16 + cause)

/-! ### What an entry of the prefetch Flight needs (R367, R371) -/

structure Need where
  owner : POwner
  idx   : Nat
  /-- The page does not exist yet. -/
  fresh : Bool
  /-- The layer whose entry needs it. -/
  layer : Nat
  deriving DecidableEq, Repr

/-- The pages of a weight segment: page numbers of the image. -/
def Seg.pages (g : Seg) : List Nat :=
  if g.slen = 0 then [] else (List.range (ceilDiv (g.sofs % 0x10000 + g.slen) 0x10000)).map (fun i => g.sofs / 0x10000 + i)

/-- The moves and pages that entry `g` (global layer) of a MODEL command still needs. -/
def State.needs (s : State) (c : Cmd) (g : Nat) : List Need :=
  match s.img (mImage c.desc), s.strm (mStream c.desc) with
  | some i, some v =>
    let l := g % i.layers
    let pos := v.pos + (g / i.layers - c.step)
    let n := mStream c.desc
    let o : POwner := .image (mImage c.desc)
    -- in tier 2, or on its way there
    let low := fun (k : Nat) => match s.page o k with | some p => p.tier == 2 || s.moves.any (fun m => m.owner == o && m.idx == k && m.toT == 2) | none => false
    let weights := match i.segs[l]? with
      | some sg => if i.fromCopy then [] else (sg.pages.filter low).map (fun k => ⟨o, k, false, l⟩)
      | none => []
    if l ≠ 0 || pos ≥ v.maxpos then weights
    else
      let fresh := ((List.range i.layers).filter (fun x => (s.page (.stream n x) (pos / i.perPage)).isNone)).map (fun x => (⟨.stream n x, pos / i.perPage, true, 0⟩ : Need))
      let hot := (s.pages.filter (fun (p : Page) =>
        match p.owner with
        | .stream m _ => m == n && p.tier == 2 && i.hotFrom pos / i.perPage ≤ p.idx && p.idx ≤ pos / i.perPage
        | _ => false)).map (fun p => (⟨p.owner, p.idx, false, 0⟩ : Need))
      weights ++ fresh ++ hot
  | _, _ => []

/-- What a need is, for DETAIL: its page index or layer, whether it is a stream page, and its tier. -/
def Need.place (n : Need) : Nat × Bool × Nat :=
  match n.owner with
  | .stream _ _ => (n.idx, true, if n.fresh then 0 else 2)
  | _ => (n.layer, false, 2)

/-- Begin what a need asks for, where it is not in progress. -/
def State.serveNeed (s : State) (q : Nat) (c : Cmd) (g : Nat) (n : Need) : State :=
  let c0 := (s.sq q).cls == 0
  let noRoom := fun (s : State) => let (w, kv, t) := n.place; s.tierEnd q c.seq w kv t 4
  -- a page that has to come up from tier 2, whoever began its move
  let s := if n.fresh then s else s.voidCmds 8 (fun q' n' => q' == q && n' == c.seq)
  if s.moving n.owner n.idx then s
  else if n.fresh then
    match s.newPage n.owner n.idx (s.sq q).part c0 with
    | (s, .noSpace) => noRoom s
    | (s, _) => s
  else
    match s.takePage 3 (s.sq q).part 1 c0 with
    | (s, .got a pool) => { s with moves := s.moves ++ [⟨n.owner, n.idx, 1, (s.sq q).part, a, pool, false, some (q, c.seq, g)⟩] }
    | (s, .wait) => s
    | (s, .noSpace) => noRoom s

/-- The lost page of a stream that is broken, on which a later MODEL command ends at once (R374). -/
def State.brokenAt (s : State) (n : Nat) : Option (Nat × Bool × Nat) :=
  match s.strm n with
  | some v =>
    if !v.broken then none
    else
      match s.pages.find? (fun (p : Page) => p.lost && (match p.owner with | .stream m _ => m == n | .input m => m == n | _ => false)) with
      | some p => some (p.idx, true, p.tier)
      | none => some (0, true, 0)
  | none => none

/-- The entries of a command that have fired and whose layers have not run, with the layer at hand, in layer order. -/
def State.firedNow (s : State) (c : Cmd) (layers : Nat) : List Nat :=
  let from_ := c.step * layers + c.layer
  (List.range (max 1 (s.firedTo c layers - from_))).map (fun j => from_ + j)

/-- A lost page that the command meets: one of its input area, of the hot set of a step, or of the weights of a layer, whose entry
has fired (R373). -/
def State.lostFor (s : State) (c : Cmd) : Option (Nat × Bool × Nat) :=
  match s.img (mImage c.desc), s.strm (mStream c.desc) with
  | some i, some v =>
    let n := mStream c.desc
    let gs := s.firedNow c i.layers
    let hot := fun (k : Nat) => gs.any (fun g =>
      let pos := v.pos + (g / i.layers - c.step)
      i.hotFrom pos / i.perPage ≤ k && k ≤ pos / i.perPage)
    match s.pages.find? (fun (p : Page) => p.lost && (match p.owner with | .stream m _ => m == n && hot p.idx | .input m => m == n | _ => false)) with
    | some p => some (p.idx, true, p.tier)
    | none =>
      let o : POwner := if i.fromCopy then .copy (mImage c.desc) else .image (mImage c.desc)
      gs.findSome? (fun g =>
        match i.segs[g % i.layers]? with
        | some sg => (s.pages.find? (fun (p : Page) => p.lost && p.owner == o && sg.pages.contains p.idx)).map (fun p => (g % i.layers, false, p.tier))
        | none => none)
  | _, _ => none

/-- Once the pages of entry E(s, 0) have been taken and its hot-set pages have left tier 2, those of tier 1 are promoted into free tier-0
pages, newest page index first (R367). -/
def State.promoteHot (s : State) (q : Nat) (c : Cmd) (g : Nat) : State :=
  match s.img (mImage c.desc), s.strm (mStream c.desc) with
  | some i, some v =>
    let p := (s.sq q).part
    let c0 := (s.sq q).cls == 0
    let pos := v.pos + (g / i.layers - c.step)
    if g % i.layers ≠ 0 || (c.begun && g == c.step * i.layers + c.layer) || (s.needs c g).any (fun n => match n.owner with | .stream _ _ => true | _ => false) then s
    else
      let hot := s.pages.filter (fun (k : Page) => match k.owner with
        | .stream m _ => m == mStream c.desc && k.tier == 1 && i.hotFrom pos / i.perPage ≤ k.idx && k.idx ≤ pos / i.perPage
        | _ => false)
      (sortBy (fun (a b : Page) => decide (a.idx ≥ b.idx)) hot).foldl (fun s k =>
        if s.moving k.owner k.idx then s
        else if s.quotaRoom p 0 c0 || s.poolUsed 0 < s.poolSize 0 then
          match s.pickPlace p 0 (!s.quotaRoom p 0 c0) with
          | (s, .got a pool) => { s with moves := s.moves ++ [⟨k.owner, k.idx, 0, p, a, pool, c0 && !pool, some (q, c.seq, g)⟩] }
          | (s, _) => s
        else s) s
  | _, _ => s

/-- Begin what entry `g` of a command still needs. -/
def State.serveEntry (s : State) (q seq g : Nat) : State :=
  let on := fun (s : State) (f : Cmd → State) => match s.cmd q seq with | some c => if c.cancel then s else f c | none => s
  on s (fun c =>
    let s := (s.needs c g).foldl (fun s n => on s (fun c => s.serveNeed q c g n)) s
    on s (fun c => s.promoteHot q c g))

/-- Read the sectors that entries have still to read, those that can be read now; each is asked for (R371). -/
def State.bringPump (s : State) : State :=
  let r := s.brings.foldl (fun (r : State × List Bring) b =>
    match r.1.cmd b.q b.seq, r.1.page (.image b.img) (b.ofs / 0x10000) with
    | some c, some g =>
      let pa := r.1.unitPa (g.phys + b.ofs % 0x10000)
      if c.cancel || g.tier ≠ 1 || (r.1.l2Sec pa).isSome then r
      else match r.1.readSec (r.1.sq b.q).part pa (some 1) with | (s, some _) => (s, r.2) | (s, none) => (s, r.2 ++ [b])
    | _, _ => r) (s, [])
  { r.1 with brings := r.2 }

/-- A page on its way up as WILLNEED asks: a page of tier 2 goes to tier 1, and a stream's page on to tier 0 while quota or pool have
room, which never evicts (R367, R375). The Bool says that it has still to go. -/
def State.advisedUp (s : State) (o : POwner) (idx : Nat) : State × Bool :=
  let locked : Bool := match o with | .image i => (s.img i).elim false (fun m => m.res == .locked) | _ => false
  let ofStream : Bool := match o with | .stream _ _ => true | _ => false
  let move := fun (s : State) (g : Page) (t a : Nat) (pool : Bool) => { s with moves := s.moves ++ [⟨o, idx, t, g.part, a, pool, false, none⟩] }
  match s.page o idx with
  | none => (s, false)
  | some g =>
    if locked then (s, false)
    else if s.moving o idx then (s, true)
    else if g.tier = 2 then
      match s.takePage 3 g.part 1 false with
      | (s, .got a pool) => (move s g 1 a pool, ofStream)
      | (s, .wait) => (s, true)
      | (s, .noSpace) => (s, false)
    else if g.tier = 1 && ofStream && (s.quotaRoom g.part 0 false || s.poolUsed 0 < s.poolSize 0) then
      match s.pickPlace g.part 0 (!s.quotaRoom g.part 0 false) with
      | (s, .got a pool) => (move s g 0 a pool, false)
      | (s, _) => (s, false)
    else (s, false)

/-- The pages that WILLNEED has named go on, in their order. -/
def State.advisePump (s : State) : State :=
  let r := s.advised.foldl (fun (r : State × List (POwner × Nat)) e =>
    match r.1.advisedUp e.1 e.2 with | (s, more) => (s, if more then r.2 ++ [e] else r.2)) (s, [])
  { r.1 with advised := r.2 }

/-- Begin what the fired entries of every MODEL command still need; a demotion to tier 2 of a page that a pending step uses is abandoned
(R358, R367). -/
def State.tierPump (s : State) : State :=
  let s : State := { s with moves := s.moves.filter (fun m => !(m.toT == 2 && s.isHot m.owner m.idx)) }
  advisePump <| bringPump <| s.models.foldl (fun s m =>
    match s.cmd m.1 m.2.seq, s.img (mImage m.2.desc) with
    | some c, some i =>
      if !c.taken || c.cancel then s
      else
        match s.lostFor c with
        | some (w, kv, t) => s.tierEnd m.1 c.seq w kv t 5
        | none =>
          let from_ := c.step * i.layers + c.layer
          (List.range (s.firedTo c i.layers - from_)).foldl (fun s j => s.serveEntry m.1 c.seq (from_ + j)) s
    | _, _ => s) s

/-- Entry `g` fires: a segment in tier 1 of an image in HOME is read into the partition's L2 ways with age 1 (R371). Its moves are
begun by State.tierPump. -/
def State.fireEntry (s : State) (q : Nat) (c : Cmd) (g : Nat) : State :=
  match s.img (mImage c.desc) with
  | some i =>
    match i.segs[g % i.layers]? with
    | some sg =>
      let pgs := sg.pages.filterMap (fun k => s.page (.image (mImage c.desc)) k)
      if i.res = .home && !pgs.isEmpty && pgs.all (fun k => k.tier == 1) then
        State.bringPump { s with brings := s.brings ++ (List.range (ceilDiv sg.slen 64)).map (fun j => ⟨q, c.seq, g, mImage c.desc, sg.sofs + 64 * j⟩) }
      else s
    | none => s
  | none => s

/-! ### Moves (R358) -/

/-- Do accesses that hold physical addresses still use a page? -/
def State.pageBusy (s : State) (phys : Nat) : Bool :=
  let hit := fun (t : Tgt) => match t with | .coh c a => c == s.chip && covers phys 0x10000 a | _ => false
  s.cores.any (fun e => e.2.reqs.any (fun r => r.lanes.any (fun l => hit l.tgt)) || e.2.sq.any (fun x => hit x.tgt) || e.2.mb.any (fun x => hit x.tgt))

/-- Invalidate every tag of a partition (R286, R358). -/
def State.dropPart (s : State) (p : Nat) : State :=
  (s.ctxs.filter (fun e => e.2.valid && e.2.part == p)).foldl (fun s e => s.dropTag false e.1) s

/-- Free pages with the moves that were to place them (R361, R365). -/
def State.freePages (s : State) (p : Nat) (f : POwner → Bool) : State :=
  ({ s with pages := s.pages.filter (fun g => !f g.owner), moves := s.moves.filter (fun m => !f m.owner) } : State).dropPart p

def State.setPage (s : State) (o : POwner) (idx : Nat) (f : Page → Page) : State :=
  { s with pages := s.pages.map (fun (g : Page) => if g.owner == o && g.idx == idx then f g else g) }

def State.dropMove (s : State) (m : Move) : State :=
  { s with moves := s.moves.filter (fun x => !(x.owner == m.owner && x.idx == m.idx)) }

/-- A page is lost: its stream is broken, or its image is marked LOST, where no tier-0 copy of the page stands (R374). -/
def State.losePage (s : State) (g : Page) : State :=
  let s := s.setPage g.owner g.idx (fun g => { g with lost := true })
  let break_ := fun (n : Nat) => match s.strm n with | some v => s.setStrm n (some { v with broken := true }) | none => s
  match g.owner with
  | .stream n _ => break_ n
  | .input n => break_ n
  | .image i =>
    match s.img i with
    | some m => if (s.page (.copy i) g.idx).isSome then s else s.setImg i (some { m with lost := true })
    | none => s
  | .copy _ => s

/-- A move has failed: the page stays in its old tier, and each MODEL command that needs it, or whose entry made the move, ends (R358,
R373, Table 12.9). -/
def State.moveFail (s : State) (m : Move) (g : Page) (cause : Nat) : State :=
  let s := s.dropMove m
  s.models.foldl (fun s e =>
    match s.cmd e.1 e.2.seq, s.img (mImage e.2.desc) with
    | some c, some i =>
      let from_ := c.step * i.layers + c.layer
      let all := if c.taken && !c.cancel then (List.range (s.firedTo c i.layers - from_)).flatMap (fun j => s.needs c (from_ + j)) else []
      match all.find? (fun n => n.owner == m.owner && n.idx == m.idx) with
      | some n => let (w, kv, _) := n.place; s.tierEnd e.1 c.seq w kv g.tier cause
      | none =>
        match m.cmd with
        | some (q, seq, k) =>
          if q = e.1 && seq = c.seq && !c.cancel && k ≥ from_ && !(c.begun && k == from_) then s.tierEnd q seq m.idx true g.tier cause else s
        | none => s
    | _, _ => s) s

/-- The copy of a move has been written: the mapping is rewritten and the old copy is free. -/
def State.moveDone (s : State) (m : Move) (g : Page) (nonce tag : List Byte) : State :=
  let s := s.setPage m.owner m.idx (fun g =>
    { g with tier := m.toT, phys := m.phys, pool := m.pool, c0 := m.c0, nonce := nonce, tag := tag })
  let s := (s.dropMove m).dropPart g.part
  s.bump (if m.toT < g.tier then Fld.TIER_PROMOTE_CNT_COUNT else Fld.TIER_DEMOTE_CNT_COUNT) 1

/-- Carry a move out: copy, map, free; or fail. While the copy cannot be read or written yet, what it waits for is asked for. -/
def State.moveRun (s : State) (m : Move) (g : Page) : State :=
  if s.pageBusy g.phys then s
  else if (m.toT = 2 || g.tier = 2) && !s.hostFlows then s
  else
    match s.unitRead g.part g.phys 0x10000 with
    | (s, none) => s
    | (s, some none) => s.moveFail m g 2
    | (s, some (some (b, poison))) =>
      if poison then (s.losePage g).moveFail m g 2
      else
        match (if g.tier = 2 then s.openPage g b else some b) with
        | none => ((s.bump Fld.SEC_SPILL_FAIL_CNT_COUNT 1).losePage g).moveFail m g 3
        | some b =>
          let (s', out, nonce, tag) := if m.toT = 2 then s.sealPage { g with part := m.part } b else (s, b, [], [])
          match s'.unitWrite g.part .nobody m.phys out with
          | (t, true) => t.moveDone m g nonce tag
          | (t, false) => { t with rot := s.rot }

/-- PAGE_MOVE: the copy of move `k` completes, or it meets an error response. -/
def execPageMove (k : Nat) (err : Bool) (s : State) : Out :=
  .next (s.whenService (fun s =>
    match s.moves[k]? with
    | none => s
    | some m =>
      match s.page m.owner m.idx with
      | none => s.dropMove m
      | some g => ((if err then s.moveFail m g 2 else s.moveRun m g).tierPump).settle))

end Sys2Proof.Machine
end

