-- ==== Sys2Proof/Machine/Virtual.lean ====
section
/-! DEFINITION. Reads of virtual memory by the control cores for launch blocks, inputs and outputs (R332, R334, R372). -/
namespace Sys2Proof.Machine

/-- A piece of a run: part of a coherent sector, or bytes of host memory over CXL.io. -/
inductive Piece where
  | sec (pa lo len : Nat)
  | io (a len : Nat)
  deriving DecidableEq, Repr

/-- The pieces of `n` bytes at `va` of a tag, by a walk for each block: not yet (outer `none`) or an error. -/
def State.virtPieces (s : State) (tag va n : Nat) : State × Option (Option (List Piece)) :=
  (secsOf va n).foldl (fun (r : State × Option (Option (List Piece))) b =>
    let lo := max va b
    let len := min (va + n) (b + 64) - lo
    match r with
    | (s, some (some l)) =>
      let go := fun (s : State) (pa : Nat) =>
        match s.target pa with
        | .coh c a => (s, some (some (l ++ [.sec (c * 2 ^ 46 + a / 64 * 64) (a % 64) len])))
        | .host a =>
          if s.cacheEnable then (s, some (some (l ++ [.sec (s.paOf (a / 64 * 64)) (a % 64) len]))) else (s, some (some (l ++ [.io a len])))
        | _ => (s, some none)
      if tag = 0 then go s lo
      else if lo ≥ 2 ^ 48 then (s, some none)
      else
        match s.walk tag lo with
        | (s, .leaf t) => go s (t.paOf lo)
        | (s, .fault _ _) => (s, some none)
        | (s, .wait) => (s, none)
    | r => r) (s, some (some []))

/-- Can a piece be read now? -/
def State.pieceReady (s : State) (p : Piece) : Bool :=
  match p with
  | .sec pa _ _ => s.secReady pa
  | .io a len => s.ep.tags.any (fun t => t.owner == .unit && t.addr == a && t.len == len && t.ans.isSome)

/-- Read a piece, or ask for it: bytes, an error, or not yet. Poison is an error. -/
def State.pieceRead (s : State) (part : Nat) (p : Piece) : State × Option (Option (List Byte)) :=
  let clean := fun (r : Option (List Byte × Bool)) => match r with | some (b, po) => if po then none else some b | none => none
  match p with
  | .sec pa lo len =>
    match s.readSec part pa none with
    | (s, some (d, po)) => (s, some (if po then none else some ((d.drop lo).take len)))
    | (s, none) => (s, none)
  | .io a len =>
    match s.ioRead .unit a len with
    | (s, some r) => (s, some (clean r))
    | (s, none) => (s, none)

/-- Read `n` bytes at `va` of a tag for partition `p`: all of them, an error, or not yet (outer `none`). -/
def State.virtRead (s : State) (p tag va n : Nat) : State × Option (Option (List Byte)) :=
  match s.virtPieces tag va n with
  | (s, some (some l)) =>
    if l.all s.pieceReady then
      l.foldl (fun (r : State × Option (Option (List Byte))) x =>
        match r.2, r.1.pieceRead p x with
        | some (some acc), (t, some (some d)) => (t, some (some (acc ++ d)))
        | some none, (t, _) => (t, some none)
        | _, (t, some none) => (t, some none)
        | _, (t, _) => (t, none)) (s, some (some []))
    else ((l.filter (fun x => !s.pieceReady x)).foldl (fun t x => (t.pieceRead p x).1) s, none)
  | (s, some none) => (s, some none)
  | (s, none) => (s, none)

end Sys2Proof.Machine
end

