-- ==== Sys2Proof/Machine/Submission.lean ====
section
/-! DEFINITION. Submission and completion queues: doorbells, descriptor fetch, starting and admitting commands, what each type of
descriptor does, completion records, and the SQ_ commands (R327 to R356). -/
namespace Sys2Proof.Machine

/-! ### Doorbells (R337, R338, R344) -/

def State.dbBad (s : State) : State := s.bump Fld.SQ_DB_BAD_CNT_COUNT 1

/-- Is a drain of the queue in progress? -/
def State.draining (s : State) (q : Nat) : Bool := (s.sq q).drain

/-- A doorbell of queue `q` with a new tail (R338); during a drain it is discarded and counted (R355). -/
def State.ring (s : State) (q newTail : Nat) : State :=
  let v := s.sq q
  let d := distance 32 v.tail.toNat newTail
  if v.st != .enabled || v.drain then s.dbBad
  else if d = 0 then s
  else if d ≥ 2 ^ 31 then s.dbBad
  else if distance 32 v.head.toNat newTail > 2 ^ v.log2 then s.queueError q 2 v.head.toNat
  else
    (s.modSq q (fun v => { v with tail := BitVec.ofNat 32 newTail, dbs := v.dbs ++ [(BitVec.ofNat 32 newTail, s.aon.newel)] })).bump
      Fld.SQ_DB_CNT_COUNT 1

/-- A write of CONS of a completion queue (R344). -/
def State.setCons (s : State) (q cons : Nat) : State :=
  let v := s.cq q
  if !v.en || distance 32 cons v.seq.toNat > 2 ^ v.log2 then s.dbBad
  else s.modCq q (fun v => { v with cons := BitVec.ofNat 32 cons })

/-! ### Fetching descriptors (R338, R339) -/

/-- Commands of a queue that have not started. -/
def Sq.waiting (v : Sq) : List Cmd := v.cmds.filter (fun c => c.st == .fetched || c.st == .waitLanding)

/-- When the doorbell that covers descriptor `k` came. -/
def Sq.dbTime (v : Sq) (k : Nat) : W64 := (v.dbOf k).getD 0

/-- A descriptor as it is accepted. -/
def newCmd (seq : Nat) (d : List Byte) (refetched : Nat) (db : W64) : Cmd :=
  { seq := seq, desc := d, blk := [], args := [], inlen := none, aged := false, begun := false, stepAt := 0, longest := 0, bound := 0, missed := false,
    st := .fetched, refetched := refetched, db := db, ref := db, landed := false, lastW := none, class0 := false, voided := 0, placed := 0, total := 0, step := 0, layer := 0,
    pub := false, status := 0, detail := 0, steps := 0, cancel := false, cores := [], seen := [] }

/-- Accept descriptor HEAD; the re-fetches issued count, returned or not (R339). -/
def State.accept (s : State) (q : Nat) (d : List Byte) : State :=
  s.modSq q (fun v =>
    let h := v.head + 1
    { v.afresh with
      head := h, cmds := v.cmds ++ [newCmd v.head.toNat d (v.miss.getD 0) (v.dbTime v.head.toNat)]
      dbs := v.dbs.filter (fun e => e.1 != h) })

/-- Where descriptor HEAD stands. -/
def Sq.slot (v : Sq) : Nat := v.base + 128 * (v.head.toNat % 2 ^ v.log2)

/-- The first half of descriptor HEAD has come with a matching SEQ: bytes 0x40–0x7F are read, and it is accepted. -/
def State.fetchRest (s : State) (q : Nat) (d : List Byte) : State :=
  let v := s.sq q
  match s.unitRead v.part (v.slot + 64) 64 with
  | (s, none) => s.modSq q (fun v => { v with half := some d })
  | (s, some (some (e, false))) => s.accept q (d ++ e)
  | (s, _) => s.queueError q 3 v.head.toNat

/-- A read of descriptor HEAD returns: bytes 0x00–0x3F, and where SEQ matches the rest. A mismatch is followed by re-fetches, of which the
eighth to return ends in a queue error (R339). -/
def State.fetchDesc (s : State) (q : Nat) (err : Bool) : State :=
  let v := s.sq q
  if err then s.queueError q 3 v.head.toNat
  else
    match v.half with
    | some d => s.fetchRest q d
    | none =>
      match s.unitRead v.part v.slot 64 with
      | (s, none) => s
      | (s, some (some (d, false))) =>
        if at' d 0 4 = v.head.toNat then s.fetchRest q d
        else if v.miss.isNone then s.modSq q (fun v => { v with miss := some 0 })
        else if v.ret ≥ 7 then s.queueError q 1 v.head.toNat
        else s.modSq q (fun v => { v with ret := v.ret + 1 })
      | (s, _) => s.queueError q 3 v.head.toNat

/-- Is a read of descriptor HEAD outstanding, or the first to be made? Between re-fetches none is. -/
def Sq.reads (v : Sq) : Bool := v.half.isSome || (match v.miss with | none => true | some n => v.ret < n)

/-- DESCRIPTOR_FETCH: the read of the next descriptor returns; up to 16 ahead of the next to start. -/
def execDescriptorFetch (q : Fin 4096) (err : Bool) (s : State) : Out :=
  .next (s.whenService (fun s =>
    let v := s.sq q
    if v.st = .enabled && !v.drain && v.head != v.tail && v.reads && v.waiting.length ≤ 16 then s.fetchDesc q err else s))

/-- REFETCH: one of the eight re-fetch times comes, and bytes 0x00–0x3F are read again, unless a read has matched. -/
def execRefetch (q : Fin 4096) (s : State) : Out :=
  .next (s.whenService (fun s =>
    let v := s.sq q
    match v.miss with
    | some n =>
      if v.st = .enabled && !v.drain && v.half.isNone && n < 8 then
        ((s.bump Fld.SQ_REFETCH_CNT_COUNT 1).modSq q (fun v => { v with miss := some (n + 1) })).fetchDesc q false
      else s
    | none => s))

/-! ### Descriptors that break R331 -/

/-- Context lengths of a QUALIFY: the first zero ends the list. -/
def qLens (d : List Byte) : List Nat := ((List.range 8).map (fun i => at' d (0x20 + 4 * i) 4)).takeWhile (· ≠ 0)

def qCores (d : List Byte) : Nat := bits (at' d 0x10 8) 40 32

/-- The first field that breaks R331, by its byte offset, but for the checks made when a MODEL command is next to start. -/
def State.fieldBad (s : State) (q : Nat) (d : List Byte) : Option Nat :=
  let v := s.sq q
  let ty := descType d
  let fl := at' d 5 1
  let inl := at' d 6 1
  let opa := at' d 0x10 8
  let opb := at' d 0x18 8
  if ty = 0 || ty > 5 || (ty = 5 && v.cls ≠ 0) then some 4
  else if v.host && (s.snat 0x0903 0).testBit v.part && (ty = 1 || ty = 3) then some 4
  else if fl ≥ 32 || (fl.testBit 4 && ty ≠ 2) then some 5
  else if inl > 96 || (ty = 2 && fl.testBit 4 && inl ≠ 0) then some 6
  else if fl.testBit 3 && at' d 7 1 ≥ s.fld (Fld.NWL_FLIGHT_N v.part) then some 7
  else
    match ty with
    | 1 => if opa % 32 ≠ 0 then some 0x10 else if opb ≠ 0 then some 0x18 else none
    | 2 => if bits opa 15 12 ≠ 0 then some 0x11 else if bits opa 31 16 = 0 then some 0x12 else none
    | 3 =>
      if inl ≠ 0 then none
      else if !shapeOk (BitVec.ofNat 32 (at' d 0x24 4)) then some 0x24
      else if at' d 0x28 1 > 2 then some 0x28
      else none
    | 4 => if opa ≠ 0 then some 0x10 else if opb ≠ 0 then some 0x18 else none
    | _ =>
      let l := qLens d
      if bits opa 31 12 ≠ 0 then some 0x11
      else if qCores d = 0 || qCores d > 256 then some 0x14
      else if bits opa 63 41 ≠ 0 then some 0x15
      else if opb ≠ 0 then some 0x18
      else if l.isEmpty then some 0x20
      else
        match (List.range l.length).find? (fun i => l.getD i 0 > 16777216 || (i > 0 && l.getD i 0 ≤ l.getD (i - 1) 0)) with
        | some i => some (0x20 + 4 * i)
        | none => if at' d 0x40 2 < 64 || at' d 0x40 2 > 4096 then some 0x40 else none

/-- The stream and input checks of a MODEL command that is next to start (R331). -/
def State.modelBad (s : State) (q : Nat) (d : List Byte) : Option Nat :=
  let p := (s.sq q).part
  if mStream d > 65535 then some 0x14
  else
    match s.strm (mStream d), s.img (mImage d) with
    | some v, some i =>
      if v.image ≠ mImage d || v.part ≠ p then some 0x14
      else if !descFlag d 4 && at' d 6 1 > i.inb then some 0x06
      else if descFlag d 4 && at' d 0x28 4 > i.inb then some 0x28
      else none
    | _, _ => some 0x14

/-! ### Admission (R353, R354) -/

/-- Reserved cores of a partition that no Class 0 command holds. -/
def State.freeRes (s : State) (p : Nat) : List Nat :=
  let held := s.c0Cores p
  (List.range 256).filter (fun c => (s.resMask p).testBit c && !held.contains c && !(s.fence 0 32).testBit c)

def noCert (_ : Nat) : Option Cert := none
def State.cert (s : State) (i : Nat) : Option Cert := SMap.get noCert s.certs i
def State.setCert (s : State) (i : Nat) (c : Option Cert) : State := { s with certs := SMap.set noCert s.certs i c }

/-- Remove the certifications that `f` selects; commands of their images that run take void code 0x02 (R352, R355). -/
def State.dropCerts (s : State) (f : Nat → Cert → Bool) : State :=
  let gone := s.certs.filterMap (fun e => match e.2 with | some c => if f e.1 c then some e.1 else none | none => none)
  gone.foldl (fun s i =>
    (s.setCert i none).voidCmds 2 (fun q n => match s.cmd q n with | some c => descType c.desc == 2 && mImage c.desc == i | none => false)) s

/-- Is an image resident as R349 requires? -/
def Image.resident (i : Image) : Bool := i.res == .gallery || i.res == .locked

/-- The void code of the first condition in force. -/
def condCode (k : Nat) : Nat :=
  if k.testBit 0 then 1 else if k.testBit 2 then 3 else if k.testBit 3 then 4 else if k.testBit 5 then 6 else 7

/-- The reason for which a Class 0 command is refused, or the cores it needs and its certified bound. -/
def State.admission (s : State) (q : Nat) (d : List Byte) : Except Nat (Nat × Nat) :=
  let p := (s.sq q).part
  let free := (s.freeRes p).length
  let k := s.c0Cond p
  let last := fun (n bound : Nat) =>
    if free < n then .error 4 else if k ≠ 0 then .error (5 + 256 * condCode k) else .ok (n, bound)
  match descType d with
  | 2 =>
    match s.img (mImage d), s.strm (mStream d), s.cert (mImage d) with
    | some i, some v, some c =>
      if c.part ≠ p then .error 1
      else
        match c.points.find? (fun x => x.1 ≥ v.pos + mSteps d) with
        | none => .error 2
        | some x => if !i.resident then .error 3 else last c.cores x.2
    | _, _, _ => .error 1
  | 1 => last 1 0
  | 5 => last (qCores d) 0
  | _ => if k ≠ 0 then .error (5 + 256 * condCode k) else .ok (0, 0)

/-! ### Lent cores (R347, R348) -/

/-- The cores that Class 0 commands hold. -/
def State.heldCores (s : State) : List Nat := s.partsOf.flatMap s.c0Cores

/-- Borrowed teams on cores that Class 0 commands hold are preempted, and those cores are woken. -/
def State.takeCores (s : State) : State :=
  s.heldCores.foldl (fun s c =>
    let k := s.core c
    let l := k.teamList.filter (fun e => e.2.preemptable)
    let s := s.modCore c Core.wake
    if l.isEmpty || s.fldB (Fld.CORE_PREEMPT_GO c) then s
    else
      let s := s.modCore c (fun k => l.foldl (fun (k : Core) e => k.setTeam e.1 (some { e.2 with lent := true })) k)
      let s := (s.setFld (Fld.CORE_PREEMPT_TEAMS c) (l.foldl (fun m e => m + 2 ^ e.1) 0)).setFldB (Fld.CORE_PREEMPT_GO c) true
      s.preemptGo c) s

/-- Teams that firmware preempted resume on cores that no Class 0 command holds any more. -/
def State.returnCores (s : State) : State :=
  let held := s.heldCores
  s.coreNums.foldl (fun s c =>
    let k := s.core c
    let l := k.teamList.filter (fun e => e.2.lent && e.2.st == .preempted)
    if l.isEmpty || held.contains c || s.fldB (Fld.CORE_RESUME_GO c) then s
    else
      let s := s.modCore c (fun k => l.foldl (fun (k : Core) e => k.setTeam e.1 (some { e.2 with lent := false })) k)
      let s := (s.setFld (Fld.CORE_RESUME_TEAMS c) (l.foldl (fun m e => m + 2 ^ e.1) 0)).setFldB (Fld.CORE_RESUME_DISCARD c) false
      (s.setFldB (Fld.CORE_RESUME_GO c) true).resumeGo c) s

/-! ### Starting (R336) -/

/-- What the checks of R331 find when a command is next to start: it breaks a field, by its byte offset; its launch block has not come
yet; or it is good, with the launch block of a KERNEL, empty where that could not be read. -/
inductive Check where
  | bad (o : Nat)
  | wait
  | good (blk : List Byte)
  deriving DecidableEq, Repr

/-- The checks of R331 on the command that is next to start: the launch block of a KERNEL is read here (R332). -/
def State.startCheck (s : State) (q : Nat) (d : List Byte) : State × Check :=
  match s.fieldBad q d with
  | some o => (s, .bad o)
  | none =>
    if descType d = 1 then
      match s.virtRead (s.sq q).part (s.sq q).tag (at' d 0x10 8) 32 with
      | (s, none) => (s, .wait)
      | (s, some none) => (s, .good [])
      | (s, some (some b)) => (s, match blkBad b with | some o => .bad o | none => .good b)
    else if descType d = 2 then (s, match s.modelBad q d with | some o => .bad o | none => .good [])
    else (s, .good [])

/-- A command ends before it has started: a record only. -/
def State.recordCmd (s : State) (q : Nat) (c : Cmd) (status detail : Nat) : State :=
  let s := s.modSq q (fun v => { v with cmds := v.cmds.filter (fun d => d.seq != c.seq) })
  s.recordOnly q c.seq status detail (BitVec.ofNat 64 (at' c.desc 8 8)) (descFlag c.desc 1) (c.refetched > 0) c.db

/-- Start a command whose Landing, if it names one, has fired: Class 0 commands are admitted or refused here (R354). -/
def State.startCmd (s : State) (q : Nat) (c : Cmd) : State :=
  if (s.sq q).cls ≠ 0 then s.modCmd q c.seq (fun c => { c with st := .running })
  else
    match s.admission q c.desc with
    | .error r => (s.bump Fld.SQ_C0_REFUSE_CNT_COUNT 1).recordCmd q c 3 r
    | .ok (n, bound) =>
      let cores := (s.freeRes (s.sq q).part).take n
      let s := s.bump Fld.SQ_C0_ADMIT_CNT_COUNT 1
      (s.modCmd q c.seq (fun c => { c with st := .running, class0 := true, cores := cores, bound := bound })).takeCores

/-- May queue `q` start commands now: its partition runs and its completion queue has room (R344, R418)? A queue error lets the descriptors
before the failing one start (R340), and a drain stops fetching only (log entry 122). -/
def State.mayStart (s : State) (q : Nat) : Bool :=
  let v := s.sq q
  (v.st == .enabled || v.st == .error) && (s.fld Fld.SET_PART_RUN_RUN).testBit v.part && (s.cq v.cq).room

/-- Has every earlier descriptor of the queue completed (ORDERED)? -/
def State.allBefore (s : State) (q seq : Nat) : Bool :=
  (s.sq q).cmds.all (fun c => !precedes 32 c.seq seq) && (s.cq (s.sq q).cq).recs.all (fun r => r.sq != q)

/-- COMMAND_START: the next command of a queue starts, waits for its Landing, or ends at once. -/
def execCommandStart (q : Fin 4096) (s : State) : Out :=
  .next (s.whenService (fun s =>
    let s := s.sweepCmds
    match (s.sq q).waiting with
    | [] => s
    | c :: _ =>
      if !s.mayStart q || c.st != .fetched || (descFlag c.desc 2 && !s.allBefore q c.seq) then s
      else if c.landed then s.startCmd q c
      else
        match s.startCheck q c.desc with
        | (s, .wait) => s
        | (s, .bad o) =>
          let s := if o = 4 && (s.sq q).host && (descType c.desc = 1 || descType c.desc = 3) then s.bump Fld.SEC_HOST_DENY_CNT_COUNT 1 else s
          s.recordCmd q c 4 o
        | (s, .good b) =>
          let s := s.modCmd q c.seq (fun d => { d with blk := b })
          let e := s.flight (s.sq q).part (at' c.desc 7 1)
          if !descFlag c.desc 3 then s.startCmd q c
          else
            match e.st with
            | .armed => s.modCmd q c.seq (fun c => { c with st := .waitLanding })
            -- the start bound runs from the later of the doorbell and the firing (Table 11.7)
            -- and an entry that has fired before its action is late (R405)
            | .fired => ((s.setFlight (s.sq q).part (at' c.desc 7 1) { e with late := true }).modCmd q c.seq (fun c => { c with ref := if (e.firedAt - c.db).toNat < 2 ^ 63 then e.firedAt else c.db })).startCmd q c
            | .cancelled => s.recordCmd q c 8 1
            | .empty => s.recordCmd q c 8 2))

/-- A Landing of partition `p` has fired: the commands that wait for it start, those of a queue that may start none now as soon as it
may (R336, R344, R418). -/
def State.landingStart (s : State) (p idx : Nat) : State :=
  s.sqs.foldl (fun s e =>
    if e.2.part != p then s
    else
      (e.2.cmds.filter (fun c => c.st == .waitLanding && at' c.desc 7 1 == idx)).foldl (fun s c =>
        let s := s.modCmd e.1 c.seq (fun d => { d with st := .fetched, landed := true, ref := s.aon.newel })
        if s.mayStart e.1 then s.startCmd e.1 c else s) s) s

/-- A Landing has been cancelled: the commands that wait for it end. -/
def State.landingCancel (s : State) (p idx : Nat) : State :=
  s.sqs.foldl (fun s e =>
    if e.2.part != p then s
    else (e.2.cmds.filter (fun c => c.st == .waitLanding && at' c.desc 7 1 == idx)).foldl (fun s c => s.recordCmd e.1 c 8 1) s) s

/-! ### The types of descriptor -/

/-- A command that has started and has not been taken up yet, of a type. -/
def State.startedCmd (s : State) (q seq ty : Nat) : Option Cmd :=
  match s.cmd q seq with
  | some c => if c.st == .running && !c.cancel && !c.begun && descType c.desc == ty then some c else none
  | none => none

/-- Launch values u0 to u25 of a KERNEL command (R333). -/
def kernelArgs (q seq : Nat) (d : List Byte) : List W32 :=
  let body := (d.drop 0x20).take (at' d 6 1)
  (List.range 24).map (fun i => BitVec.ofNat 32 (at' body (4 * i) 4)) ++ [BitVec.ofNat 32 q, BitVec.ofNat 32 seq]

/-- KERNEL: the teams of the launch block are to be placed (R332, R333); one that could not be read ends the command (Table 11.5). -/
def execKernel (q : Fin 4096) (seq : W32) (s : State) : Out :=
  .next (s.whenService (fun s =>
    match s.startedCmd q seq.toNat 1 with
    | none => s
    | some c =>
      if c.blk.isEmpty then s.endNow q c.seq 2 0
      else
        s.modCmd q c.seq (fun c =>
          { c with args := kernelArgs q c.seq c.desc, begun := true, placed := 0, total := kX c.blk * kY c.blk * kZ c.blk })))

/-- Does command `c` of queue `q` come before command `d` of queue `r`: by their queue's order, or by their doorbells? -/
def cmdBefore (q : Nat) (c : Cmd) (r : Nat) (d : Cmd) : Bool :=
  if q = r then precedes 32 c.seq d.seq else c.db.toNat < d.db.toNat || (c.db == d.db && q < r)

/-- Does an earlier MODEL command run on the stream: one that has been taken up, until it completes, or one that came first (R377)? -/
def State.streamBusy (s : State) (n q seq : Nat) : Bool :=
  s.sqs.any (fun e => e.2.cmds.any (fun c =>
    c.st == .running && descType c.desc == 2 && mStream c.desc == n && !(e.1 == q && c.seq == seq) &&
      (c.taken || (!c.cancel && (s.cmd q seq).elim false (fun d => cmdBefore e.1 c q d)))))

/-- The input area of a stream, in tier 0: one that has left it is taken anew, since its bytes are to be written (R370, R372). -/
def State.inputArea (s : State) (n p : Nat) (c0 : Bool) : State × Take :=
  let mine := fun (o : POwner) => o == .input n
  let s : State := { s with moves := s.moves.filter (fun m => !mine m.owner) }
  match s.page (.input n) 0 with
  | some g => if g.tier = 0 then (s, .got g.phys g.pool) else (s.freePages p mine).newPage (.input n) 0 p c0
  | none => s.newPage (.input n) 0 p c0

/-- The input of a MODEL command: inline, or read by address. -/
def State.modelInput (s : State) (q : Nat) (d : List Byte) : State × Option (Option (List Byte)) :=
  if descFlag d 4 then
    let n := at' d 0x28 4
    if n = 0 then (s, some (some [])) else s.virtRead (s.sq q).part (s.sq q).tag (at' d 0x20 8) n
  else (s, some (some ((d.drop 0x20).take (at' d 6 1))))

/-- MODEL: the command is taken up. Its input goes to the stream's input area, and the first entries of its prefetch Flight
fire (R334, R371, R372). -/
def execModel (q : Fin 4096) (seq : W32) (s : State) : Out :=
  .next (s.whenService (fun s =>
    match s.startedCmd q seq.toNat 2 with
    | none => s
    | some c =>
      let n := mStream c.desc
      let p := (s.sq q).part
      if c.taken || s.streamBusy n q c.seq then s
      else
        match s.img (mImage c.desc), (s.brokenAt n).or (s.lostFor c) with
        | none, _ => s.endNow q c.seq 4 0x14
        | _, some (w, kv, t) => s.tierEnd q c.seq w kv t 5
        | some i, none =>
          match s.inputArea n p ((s.sq q).cls == 0) with
          | (s, .wait) => s
          | (s, .noSpace) => s.tierEnd q c.seq 0 true 0 4
          | (s, .got a _) =>
            match s.modelInput q c.desc with
            | (s, none) => s
            | (s, some none) => s.endNow q c.seq 2 0
            | (s, some (some b)) =>
              match (if b.isEmpty then (s, true) else s.unitWrite p .nobody a b) with
              | (s, false) => s
              | (s, true) =>
                let s := (s.modCmd q c.seq (fun c => { c with inlen := some b.length })).tierPump
                (List.range (min (s.fld Fld.TIER_CTL_LEAD) (mSteps c.desc * i.layers))).foldl (fun s g =>
                  match s.cmd q c.seq with
                  | some c => if c.cancel then s else s.fireEntry q c g
                  | none => s) s))

/-- The chip-level channels of a partition (key 0x030A) that carry nothing. -/
def State.freeChans (s : State) (p : Nat) : List Nat :=
  (List.range 32).filter (fun n => (s.snat 0x030A p).testBit n && !(s.fence 0x26 4).testBit n && (s.chan n).isNone)

/-- Is the command a TRANSFER that waits for a channel? -/
def Cmd.wantsChan (c : Cmd) : Bool := c.st == .running && !c.cancel && !c.begun && descType c.desc == 3

/-- Does no other TRANSFER of the partition that waits for a channel come first (R336, R346)? -/
def State.xferNext (s : State) (q : Nat) (cmd : Cmd) : Bool :=
  let r := s.placeRank q cmd
  s.sqs.all (fun e => e.2.part != (s.sq q).part || e.2.cmds.all (fun d => !d.wantsChan || s.placeRank e.1 d ≥ r))

/-- TRANSFER: the command, where it comes first, is handed to the lowest-numbered free channel of the partition (R335, R346). -/
def execTransfer (q : Fin 4096) (seq : W32) (s : State) : Out :=
  .next (s.whenService (fun s =>
    match s.startedCmd q seq.toNat 3 with
    | none => s
    | some c =>
      match (if s.xferNext q c then s.freeChans (s.sq q).part else []) with
      | [] => s
      | n :: _ =>
        let d := c.desc
        let v := s.sq q
        let s : State := { s with turns := SMap.set noTurn s.turns (4 * v.part + placeClass v c) q }
        let inl := at' d 6 1
        let x : Xfer := ⟨0, q, 0, c.seq, inl ≠ 0, false, if inl ≠ 0 then 0 else at' d 0x28 1, BitVec.ofNat 64 (at' d (if inl ≠ 0 then 0x10 else 0x18) 8),
          BitVec.ofNat 64 (at' d 0x10 8), if inl ≠ 0 then inl else at' d 0x20 4,
          if inl ≠ 0 then 0 else BitVec.ofNat 32 (at' d 0x24 4), 0, [], [], 0, false, 0, 0⟩
        ((s.setChan n (some x)).modCmd q c.seq (fun c => { c with begun := true })).chanOver n))

/-- NOP_DESCRIPTOR: nothing but the completion. -/
def execNopDescriptor (q : Fin 4096) (seq : W32) (s : State) : Out :=
  .next (s.whenService (fun s =>
    match s.startedCmd q seq.toNat 4 with
    | some c => (s.endCmd q c.seq 0 0).sweepCmds
    | none => s))

/-- The certified step bound: the longest step times 5/4, rounded up to 100 ns (R351). -/
def stepBound (longest : Nat) : Nat := ceilDiv (longest * 5) 400 * 100

/-- Do the tier quotas of a partition hold a stream of an image with `ctx` positions: its pages, in any tier, and its input area
(R351, R368)? The run gives them back at its end (DESIGN CHOICE, log entry 134). -/
def State.qualHolds (s : State) (p : Nat) (i : Image) (ctx : Nat) : Bool :=
  let room := fun (t : Nat) => s.quota p t - s.quotaUsed p t
  room 0 ≥ 1 && i.layers * ceilDiv ctx i.perPage + 1 ≤ room 0 + room 1 + room 2

/-- QUALIFY: the run over each context length ends with the longest steps that were measured, or finds the tier quotas too small
for its streams (R351, R352): `tierFull` says that other work, which runs on, took its pages meanwhile. -/
def execQualify (q : Fin 4096) (seq : W32) (longest : List Nat) (tierFull : Bool) (s : State) : Out :=
  .next (s.whenService (fun s =>
    match s.startedCmd q seq.toNat 5 with
    | none => s
    | some c =>
      let h := at' c.desc 0x10 2 % 4096
      let p := (s.sq q).part
      let l := qLens c.desc
      match s.img h with
      | some i =>
        if i.part ≠ p || !i.resident then s.endNow q c.seq 9 2
        else if tierFull || !(qLens c.desc).all (s.qualHolds p i) then s.endNow q c.seq 9 0xFF
        else if longest.length ≠ l.length then s
        else ((s.setCert h (some ⟨p, qCores c.desc, l.zip (longest.map stepBound)⟩)).endCmd q c.seq 0 0).sweepCmds
      | none => s.endNow q c.seq 9 2))

/-! ### Layers of a MODEL command (R371 to R373) -/

/-- Launch values of a layer kernel (Table 12.5). -/
def State.layerArgs (s : State) (q : Nat) (c : Cmd) (i : Image) (v : TStream) (sg : Seg) : List W32 :=
  let n := mStream c.desc
  let w := fun (x : Nat) => [BitVec.ofNat 32 x, BitVec.ofNat 32 (x / 2 ^ 32)]
  let o := fun (x : Nat) => [BitVec.ofNat 32 x]
  w (i.va + sg.sofs) ++ w (v.va + 65536 * c.layer * v.np i) ++ o v.pos ++ o (i.hotFrom v.pos) ++ o c.step ++ o c.layer ++
    w (s.pageVa (.input n) 0) ++ o (if c.step = 0 then c.inlen.getD 0 else i.outb) ++
    w (at' c.desc 0x18 8 + c.step * i.outb) ++ o (mImage c.desc) ++ o n ++ List.replicate 9 0 ++ o q ++ o c.seq

/-- The output of the step before is copied into the input area; the Bool says whether it is there, `none` that it could not be
read. -/
def State.copyOutput (s : State) (q : Nat) (c : Cmd) (i : Image) : State × Option Bool :=
  if c.step = 0 || c.layer ≠ 0 then (s, some true)
  else
    let v := s.sq q
    match s.virtRead v.part v.tag (at' c.desc 0x18 8 + (c.step - 1) * i.outb) i.outb, s.page (.input (mStream c.desc)) 0 with
    | (s, some (some b)), some g =>
      let (s, ok) := s.unitWrite v.part .nobody g.phys b
      (s, some ok)
    | (s, none), _ => (s, some false)
    | (s, _), _ => (s, none)

/-- The pages that a step uses are used now (R370). -/
def State.touchPages (s : State) (c : Cmd) (i : Image) (v : TStream) (sg : Seg) : State :=
  let t := s.aon.newel
  let n := mStream c.desc
  let used := fun (g : Page) =>
    match g.owner with
    | .stream m _ => m == n && c.layer == 0 && i.hotFrom v.pos / i.perPage ≤ g.idx && g.idx ≤ v.pos / i.perPage
    | .image m => m == mImage c.desc && sg.pages.contains g.idx
    | .copy m => m == mImage c.desc && sg.pages.contains g.idx
    | .input m => m == n
  { s with pages := s.pages.map (fun (g : Page) => if used g then { g with age := t } else g) }

/-- The kernel of the layer is launched, and the entry LEAD layers on fires. -/
def State.launchLayer (s : State) (q : Nat) (c : Cmd) (i : Image) (v : TStream) (sg : Seg) : State :=
  let b := sg.blk
  let args := s.layerArgs q c i v sg
  let s := (s.touchPages c i v sg).modCmd q c.seq (fun c =>
    { c with blk := b, args := args, begun := true, placed := 0, total := kX b * kY b * kZ b })
  let g := c.step * i.layers + c.layer + s.fld Fld.TIER_CTL_LEAD
  let s := s.tierPump
  match s.cmd q c.seq with
  | some c => if c.cancel || g ≥ mSteps c.desc * i.layers then s.takeCores else (s.fireEntry q c g).takeCores
  | none => s

/-- Has the entry of a global layer of a command still sectors to read (R371)? -/
def State.bringing (s : State) (q seq g : Nat) : Bool := s.brings.any (fun b => b.q == q && b.seq == seq && b.ent == g)

/-- LAYER_LAUNCH: a layer kernel is launched once its entry has completed; a step at MAXPOS, or on a lost page, ends the command. -/
def execLayerLaunch (q : Fin 4096) (seq : W32) (s : State) : Out :=
  .next (s.whenService (fun s =>
    let s := s.sweepCmds
    match s.startedCmd q seq.toNat 2 with
    | none => s
    | some c =>
      match s.img (mImage c.desc), s.strm (mStream c.desc) with
      | some i, some v =>
        let g := c.step * i.layers + c.layer
        if !c.taken then s
        else if v.pos ≥ v.maxpos then s.tierEnd q c.seq (v.pos / i.perPage) true 0 6
        else
          match s.lostFor c, i.segs[c.layer]? with
          | some (w, kv, t), _ => s.tierEnd q c.seq w kv t 5
          | none, some sg =>
            if !(s.needs c g).isEmpty || s.moves.any (fun m => m.cmd == some (q.val, c.seq, g)) || s.bringing q c.seq g then s.tierPump
            else
              match s.copyOutput q c i with
              | (s, some true) => s.launchLayer q c i v sg
              | (s, some false) => s
              | (s, none) => s.endNow q c.seq 2 0
          | none, none => s
      | _, _ => s))

/-- TIER_LATE_LIMIT: a layer has waited for its entry for the limit (R373). -/
def execTierLateLimit (q : Fin 4096) (seq : W32) (s : State) : Out :=
  .next (s.whenService (fun s =>
    let s := s.sweepCmds
    match s.startedCmd q seq.toNat 2 with
    | none => s
    | some c =>
      match s.img (mImage c.desc) with
      | some i =>
        let g := c.step * i.layers + c.layer
        match c.taken, s.needs c g with
        | true, n :: _ => let (w, kv, t) := n.place; s.tierEnd q c.seq w kv t 1
        | true, [] =>
          match s.moves.find? (fun m => m.cmd == some (q.val, c.seq, g)) with
          | some m => s.tierEnd q c.seq m.idx true (m.toT + 1) 1
          | none => if s.bringing q c.seq g then s.tierEnd q c.seq c.layer false 1 1 else s
        | _, _ => s
      | none => s))

/-! ### Completion records (R341 to R345) -/

/-- The first 24 bytes of a record. -/
def recHead (r : CqRec) : List Byte :=
  natLe 8 r.user.toNat ++ natLe 2 r.sq ++ natLe 2 r.status ++ natLe 4 r.seq ++ natLe 4 r.detail ++ natLe 2 r.steps ++ natLe 1 r.flags ++
    natLe 1 r.void

/-- The words at 0x18 and 0x1C: PHASE is NOT bit LOG2SIZE of CQ_SEQ. -/
def recTail (r : CqRec) (log2 : Nat) (cqSeq : Nat) : List Byte :=
  natLe 4 (r.elapsed + (if cqSeq.testBit log2 then 0 else 2 ^ 31)) ++ natLe 4 cqSeq

/-- A record has been performed: the vector becomes pending where R345 says so. -/
def State.recordDone (s : State) (q : Nat) (intr : Bool) : State :=
  let v := s.cq q
  let n := v.unsig + 1
  if intr || (v.coalN ≠ 0 && n ≥ v.coalN) then (s.modCq q (fun v => { v with unsig := 0 })).pendVec v.vec
  else s.modCq q (fun v => { v with unsig := n })

/-- A finish bound that the promise had (Table 11.7). -/
def State.finishMiss (s : State) (r : CqRec) : State × CqRec :=
  if r.flags.testBit 0 && !r.flags.testBit 1 && !r.flags.testBit 2 && (s.aon.newel - r.fin).toNat > 2000 then
    (s.bump Fld.SQ_C0_MISS_CNT_COUNT 1, { r with flags := r.flags + 4 })
  else (s, r)

/-- End the drain and cancel commands whose work is done (R356). -/
def State.sqPoll (s : State) : State :=
  (List.range 4).foldl (fun s ch =>
    let q := s.fld (Fld.SQ_CMD_QUEUE ch)
    let v := s.sq q
    let noRecs := (s.cq v.cq).recs.all (fun r => r.sq != q)
    let fin := fun (s : State) => s.chanEnd (Fld.SQ_CMD_GO ch) (Fld.SQ_CMD_STATUS_DONE ch) (Fld.SQ_CMD_STATUS_RESULT ch) 0
    if !s.fldB (Fld.SQ_CMD_GO ch) then s
    else
      match s.fld (Fld.SQ_CMD_OP ch) with
      | 5 =>
        if v.cmds.all (fun c => c.st != .running) && noRecs then
          -- a reset has ended the drain, and a queue error stays one
          fin (if v.drain then s.modSq q (fun v => { v with st := if v.st == .error then .error else .drained, drain := false }) else s)
        else s
      | 6 => if v.cmds.all (fun c => !(c.st == .running && c.cancel)) && noRecs then fin s else s
      | _ => s) s

/-- COMPLETION_RECORD: the next record of a completion queue with room is written, its last eight bytes after the others. -/
def execCompletionRecord (cq : Fin 4096) (s : State) : Out :=
  .next (s.whenService (fun s =>
    let s := s.sweepCmds.returnCores
    let v := s.cq cq
    match v.recs with
    | [] => s.sqPoll
    | r :: rest =>
      if !v.en || distance 32 v.cons.toNat v.seq.toNat ≥ 2 ^ v.log2 then s.sqPoll
      else
        let (s, r) := s.finishMiss r
        let a := v.base + 32 * (v.seq.toNat % 2 ^ v.log2)
        let tail := recTail r v.log2 v.seq.toNat
        let held := isHostRange a && !s.hostFlows
        match s.unitWrite v.part .nobody a (recHead r) with
        | (s, false) => s.modCq cq (fun v => { v with recs := r :: rest })
        | (s, true) =>
          let io := isHostRange a && !s.cacheEnable
          let (s, ok) :=
            if io then
              let (s, _) := s.unitWrite v.part .nobody (a + 0x1C) (tail.drop 4)
              s.unitWrite v.part (.record cq r.intr) (a + 0x18) (tail.take 4)
            else s.unitWrite v.part (.record cq r.intr) (a + 0x18) tail
          if !ok then s.modCq cq (fun v => { v with recs := r :: rest })
          else
            let s := s.modCq cq (fun v => { v with recs := rest, seq := v.seq + 1 })
            (if held then s else s.recordDone cq r.intr).sqPoll))

/-- COAL_TIMEOUT: COAL_T has passed since the oldest record that is not signalled. -/
def execCoalTimeout (cq : Fin 4096) (s : State) : Out :=
  .next (s.whenService (fun s =>
    let v := s.cq cq
    if v.coalT ≠ 0 && v.unsig > 0 then (s.modCq cq (fun v => { v with unsig := 0 })).pendVec v.vec else s))

/-- BG_AGE: a Class 2 command has waited longer than SQ_SCHED.BG_AGE (R346). -/
def execBgAge (q : Fin 4096) (s : State) : Out :=
  .next (s.whenService (fun s =>
    if (s.sq q).cls ≠ 2 then s
    else
      match (s.sq q).cmds.find? (fun c => (c.unplaced || c.wantsChan) && !c.aged) with
      | some c => s.modCmd q c.seq (fun c => { c with aged := true })
      | none => s))

/-! ### SQ_ commands (R327, R340, R356) -/

def State.sqEnd (s : State) (ch r : Nat) : State :=
  s.chanEnd (Fld.SQ_CMD_GO ch) (Fld.SQ_CMD_STATUS_DONE ch) (Fld.SQ_CMD_STATUS_RESULT ch) r

/-- Does a ring of `n` bytes break R327? -/
def State.ringBad (s : State) (p base log2 n : Nat) : Bool :=
  !s.definedPart p || log2 < 4 || log2 > 16 || base % 4096 ≠ 0 ||
    !(if isHostRange base then s.ownsHost p base n else (isHbm base || isGallery base) && s.ownsRange p base n)

/-- Permission `i` that the Setting gives the host in a partition (key 0x0309): 0 contexts, 1 queues, 2 images, 3 Flight. -/
def State.hostMay (s : State) (p i : Nat) : Bool := (s.snat 0x0309 p).testBit i

/-- Create a submission queue. -/
def State.createSq (s : State) (a : Agent) (ch : Nat) : State :=
  let q := s.fld (Fld.SQ_CMD_QUEUE ch)
  let p := s.fld (Fld.SQ_CMD_PARTITION ch)
  let cls := s.fld (Fld.SQ_CMD_CLASS ch)
  let log2 := s.fld (Fld.SQ_CMD_LOG2SIZE ch)
  let base := s.fld (Fld.SQ_CMD_BASE_BASE ch)
  let tag := s.fld (Fld.SQ_CMD_ARG_TAG ch)
  let cq := s.fld (Fld.SQ_CMD_ARG_CQ ch)
  let seq := BitVec.ofNat 32 (s.fld (Fld.SQ_CMD_ARG_SEQ ch))
  let c := s.ctx tag
  if s.ringBad p base log2 (128 * 2 ^ log2) || !(s.cq cq).en || (s.cq cq).part ≠ p || (tag ≠ 0 && (!c.valid || c.part ≠ p)) then s.sqEnd ch 1
  else if (a = .host && (!s.hostMay p 1 || tag = 0 || c.priv)) || (cls = 0 && !s.hasRes p) || (s.sq q).st != .disabled then s.sqEnd ch 2
  else
    (s.setSq q { Sq.empty with
      st := .enabled, part := p, cls := cls, tag := tag, cq := cq, base := base, log2 := log2, head := seq, tail := seq,
      host := a == .host }).sqEnd ch 0

/-- Create a completion queue. -/
def State.createCq (s : State) (a : Agent) (ch : Nat) : State :=
  let q := s.fld (Fld.SQ_CMD_QUEUE ch)
  let p := s.fld (Fld.SQ_CMD_PARTITION ch)
  let log2 := s.fld (Fld.SQ_CMD_LOG2SIZE ch)
  let base := s.fld (Fld.SQ_CMD_BASE_BASE ch)
  if s.ringBad p base log2 (32 * 2 ^ log2) then s.sqEnd ch 1
  else if (a = .host && !s.hostMay p 1) || (s.cq q).en then s.sqEnd ch 2
  else
    (s.setCq q { Cq.empty with
      en := true, part := p, base := base, log2 := log2, vec := s.fld (Fld.SQ_CMD_CQCFG_VEC ch), coalN := s.fld (Fld.SQ_CMD_CQCFG_COAL_N ch),
      coalT := s.fld (Fld.SQ_CMD_CQCFG_COAL_T ch) }).sqEnd ch 0

/-- Cancel the commands of a queue (Table 11.11): those not started complete as CANCELLED, running Class 1 and 2 kernels lose their
teams, and Class 0 kernels and transfers run on. -/
def State.cancelQueue (s : State) (q : Nat) : State :=
  let v := s.sq q
  let s := v.waiting.foldl (fun s c => s.recordCmd q c 6 0) s
  if v.cls = 0 then s
  else
    (v.cmds.filter (fun c => c.st == .running && (descType c.desc == 1 || descType c.desc == 2))).foldl (fun s c =>
      (s.coreNums.foldl (fun s n => s.discardTeams n (fun t => t.q == q && t.seq == c.seq)) s).endCmd q c.seq 6 0) s |>.sweepCmds

/-- A write of agent `a` has set GO of SQ_CMD_c. -/
def State.sqGo (s : State) (a : Agent) (ch : Nat) : State :=
  let q := s.fld (Fld.SQ_CMD_QUEUE ch)
  let v := s.sq q
  let c := s.cq q
  let none_ := v.st == .disabled
  match s.fld (Fld.SQ_CMD_OP ch) with
  | 0 => s.createSq a ch
  | 1 => s.createCq a ch
  | 2 =>
    if none_ then s.sqEnd ch 1
    else if !v.cmds.isEmpty || (s.cq v.cq).recs.any (fun r => r.sq == q) then s.sqEnd ch 3
    else (s.setSq q Sq.empty).sqEnd ch 0
  | 3 =>
    if !c.en then s.sqEnd ch 1
    else if s.sqs.any (fun e => e.2.st != .disabled && e.2.cq == q) || !c.recs.isEmpty then s.sqEnd ch 3
    else (s.setCq q Cq.empty).sqEnd ch 0
  | 4 =>
    if none_ then s.sqEnd ch 1
    else
      let n := BitVec.ofNat 32 (s.fld (Fld.SQ_CMD_ARG_SEQ ch))
      (s.modSq q (fun v =>
        { v.afresh with st := .enabled, head := n, tail := n, drain := false, dbs := [], cmds := v.cmds.filter (fun c => c.st == .running) })).sqEnd ch 0
  | 5 => if none_ then s.sqEnd ch 1 else (s.modSq q (fun v => { v with drain := true })).sqPoll
  | 6 => if none_ then s.sqEnd ch 1 else (s.cancelQueue q).sqPoll
  | 7 =>
    let s := (s.setFld (Fld.SQ_CMD_VIEW_HI ch) v.tail.toNat).setFld (Fld.SQ_CMD_VIEW_LO ch) v.head.toNat
    let st := match v.st with | .disabled => 0 | .enabled => 1 | .error => 2 | .drained => 3
    (s.setFld (Fld.SQ_CMD_STATUS_QSTATE ch) st).sqEnd ch 0
  | _ =>
    let s := (s.setFld (Fld.SQ_CMD_VIEW_HI ch) c.seq.toNat).setFld (Fld.SQ_CMD_VIEW_LO ch) c.cons.toNat
    (s.setFld (Fld.SQ_CMD_STATUS_QSTATE ch) (if c.en then 1 else 0)).sqEnd ch 0

end Sys2Proof.Machine
end

