-- ==== Sys2Proof/Machine/Catalogue.lean ====
section
/-! DEFINITION. Catalogue fetches over the Ethernet ports: SRT and RoCE v2 (R376, R408 to R410). What a port sends is held as
destination address, UDP ports and payload; the framing below UDP carries no more than the entry gives (log entry 30). -/
namespace Sys2Proof.Machine

def noEth (_ : Nat) : EthPort := EthPort.empty

def State.ethPort (s : State) (p : Nat) : EthPort := SMap.get noEth s.eth p
def State.setEth (s : State) (p : Nat) (v : EthPort) : State := { s with eth := SMap.set noEth s.eth p v }

/-- A datagram leaves a port: its IEEE 802.1Q tag, if it has one, destination, destination and source UDP port, payload. -/
def State.ethSend (s : State) (p : Nat) (tag dst : List Byte) (dport sport : Nat) (payload : List Byte) : State :=
  let v := s.ethPort p
  s.setEth p { v with tx := v.tx ++ [tag ++ dst ++ natBe 2 dport ++ natBe 2 sport ++ payload] }

/-- A received frame is dropped and counted (R407). -/
def State.ethDrop (s : State) : State := s.bump Fld.ETH_RX_DROP_CNT_COUNT 1

/-- The lowest port of an endpoint entry that has link (Table 13.9). -/
def State.epPort (s : State) (e : List Byte) : Option Nat :=
  (List.range 16).find? (fun p => (at' e 4 2).testBit p && (s.ethPort p).link)

/-- The SRT header (Table 13.10). -/
def srtHead (ty fetch req obj off len code : Nat) : List Byte :=
  natLe 1 1 ++ natLe 1 ty ++ natLe 2 fetch ++ natLe 4 req ++ natLe 8 obj ++ natLe 8 (off % 2 ^ 48) ++ natLe 4 len ++ natLe 4 code

def srtUdp (e : List Byte) : Nat := at' e 6 2
def epAddr (e : List Byte) : List Byte := (e.drop 0x10).take 16

/-- The IEEE 802.1Q tag of an endpoint entry's frames: PCP and VID where its VLAN bit is 1 (Table 13.9). -/
def epTag (e : List Byte) : List Byte :=
  if (at' e 0 1).testBit 3 then [0x81, 0x00] ++ natBe 2 (at' e 1 1 % 8 * 8192 + at' e 2 2 % 4096) else []

/-- The base transport header of RoCE v2, and a RoCE packet of queue pair `c`. -/
def bth (opcode qpn psn : Nat) : List Byte := natBe 1 opcode ++ [0x40] ++ natBe 2 0xFFFF ++ natBe 4 qpn ++ natBe 4 psn

/-- Ask for `len` bytes from `off` of the object. -/
def State.fetchAsk (s : State) (f : Fetch) (off len : Nat) : State :=
  let obj := s.fld (Fld.TIER_CAT_OBJECT f.ch)
  if f.roce then
    let psn := (at' f.entry 0xC 4 % 2 ^ 24 + off / 4096) % 2 ^ 24
    s.ethSend f.port (epTag f.entry) (epAddr f.entry) 4791 (0xC000 + f.ch)
      (bth 0x0C (at' f.entry 8 4 % 2 ^ 24) psn ++ natBe 8 (obj + off) ++ natBe 4 (s.fld (Fld.TIER_CAT_CTL_RKEY f.ch)) ++ natBe 4 len)
  else s.ethSend f.port (epTag f.entry) (epAddr f.entry) (srtUdp f.entry) (0xD2A0 + f.ch) (srtHead 1 f.ch f.reqNo obj off len 0)

def noByte (_ : Nat) : Option Byte := none

/-- Has the range of 64 KiB that begins at chunk `k` come whole? -/
def Fetch.chunkDone (f : Fetch) (k : Nat) : Bool :=
  (List.range (min 0x10000 (f.total - 0x10000 * k))).all (fun i => (SMap.get noByte f.got (0x10000 * k + i)).isSome)

/-- Chunks asked for that have not come whole. -/
def Fetch.missing (f : Fetch) : List Nat := (List.range f.asked).filter (fun k => !f.chunkDone k)

def Fetch.whole (f : Fetch) : Bool := f.asked ≥ ceilDiv f.total 0x10000 && f.missing.isEmpty

def State.setFetch (s : State) (f : Fetch) : State :=
  { s with fetches := s.fetches.map (fun (g : Fetch) => if g.ch == f.ch then f else g) }

/-- Ask for further chunks while fewer than 64, or 16 for RoCE, are outstanding. -/
def State.fetchMore : Nat → State → Fetch → State
  | 0, s, f => s.setFetch f
  | n + 1, s, f =>
    if f.asked < ceilDiv f.total 0x10000 && f.missing.length < (if f.roce then 16 else 64) then
      let len := min 0x10000 (f.total - 0x10000 * f.asked)
      State.fetchMore n (s.fetchAsk f (0x10000 * f.asked) len) { f with asked := f.asked + 1, reqNo := f.reqNo + 1 }
    else s.setFetch f

/-- A command of a TIER channel ends with a result. -/
def State.tierDone (s : State) (ch r : Nat) : State :=
  s.chanEnd (Fld.TIER_CMD_GO ch) (Fld.TIER_CMD_STATUS_DONE ch) (Fld.TIER_CMD_STATUS_RESULT ch) r

/-- A transport failure ends the register command (R376). -/
def State.fetchFail (s : State) (ch : Nat) : State :=
  ({ s with fetches := s.fetches.filter (fun f => f.ch != ch) } : State).tierDone ch 6

/-- Bytes of a stored image of decrypted length `n`: header, ciphertext and a tag for each chunk of 2^20 bytes (R451). -/
def storedLen (n : Nat) : Nat := n + 16 * ceilDiv (n - 128) 0x100000

/-- Begin the fetch of a register command with SRC 1, once the endpoint entry has been read. -/
def State.fetchStart (s : State) (ch : Nat) : State :=
  if s.fetches.any (fun f => f.ch == ch) then s
  else
    let roce := s.fldB (Fld.TIER_CAT_CTL_TRANSPORT ch)
    match s.unitRead 0 (s.fld Fld.ETH_EP_BASE_BASE + 64 * s.fld (Fld.TIER_CAT_CTL_ENDPOINT ch)) 64 with
    | (s, none) => s
    | (s, some none) => s.tierDone ch 6
    | (s, some (some (e, poison))) =>
      match s.epPort e with
      | none => s.tierDone ch 6
      | some p =>
        if poison || !(at' e 0 1).testBit 0 || !(at' e 0 1).testBit (if roce then 2 else 1) then s.tierDone ch 6
        else
          let f : Fetch := ⟨ch, roce, e, storedLen (s.fld (Fld.TIER_CMD_LEN_LEN ch)), [], 0, [], 0, at' e 0xC 4 % 2 ^ 24, p⟩
          ({ s with fetches := s.fetches ++ [f] } : State).fetchMore 64 f

/-- Bytes have come for a fetch. -/
def State.fetchGot (s : State) (f : Fetch) (off : Nat) (bytes : List Byte) : State :=
  let f' := { f with got := bytes.zipIdx.foldl (fun m b => SMap.set noByte m (off + b.2) (some b.1)) f.got }
  (s.bump Fld.TIER_FETCH_BYTE_CNT_COUNT bytes.length).fetchMore 64 f'

/-- DATA: an SRT segment of up to 4,096 bytes. -/
def execData (ch : Fin 4) (req : W32) (offset : Nat) (bytes : List Byte) (s : State) : Out :=
  .next (s.whenService (fun s =>
    match s.fetches.find? (fun f => f.ch == ch.val && !f.roce) with
    | some f => if req.toNat < f.reqNo && bytes.length ≤ 4096 && offset + bytes.length ≤ f.total then s.fetchGot f offset bytes else s
    | none => s))

/-- ERROR: the server's error ends the fetch. -/
def execError (ch : Fin 4) (_code : W32) (s : State) : Out :=
  .next (s.whenService (fun s => if s.fetches.any (fun f => f.ch == ch.val && !f.roce) then s.fetchFail ch else s))

def noTry (_ : Nat) : Nat := 0

/-- Has a range that is missing been asked for again `n` times (R409, R410)? -/
def Fetch.spent (f : Fetch) (n : Nat) : Bool := f.missing.any (fun k => decide (SMap.get noTry f.tries k ≥ n))

/-- Ask again for every chunk of a fetch that is missing. -/
def State.fetchAgain (s : State) (f : Fetch) (cnt : FRef) : State :=
  f.missing.foldl (fun s k =>
    match s.fetches.find? (fun g => g.ch == f.ch) with
    | some g =>
      let s := (s.fetchAsk g (0x10000 * k) (min 0x10000 (g.total - 0x10000 * k))).bump cnt 1
      s.setFetch { g with reqNo := g.reqNo + 1, tries := SMap.set noTry g.tries k (SMap.get noTry g.tries k + 1) }
    | none => s) s

/-- SRT_REPEAT: ranges are still missing after 500 µs; the eighth failed repeat ends the fetch. -/
def execSrtRepeat (ch : Fin 4) (s : State) : Out :=
  .next (s.whenService (fun s =>
    match s.fetches.find? (fun f => f.ch == ch.val && !f.roce) with
    | some f => if f.missing.isEmpty then s else if f.spent 8 then s.fetchFail ch else s.fetchAgain f Fld.ETH_SRT_RETX_CNT_COUNT
    | none => s))

def noCnp (_ : Nat) : Option W64 := none

/-- RDMA_READ_RESPONSE: the next packet of the reads outstanding; CE is answered with a CNP, at most one every 50 µs for a queue pair. -/
def execRdmaReadResponse (ch : Fin 4) (psn : BitVec 24) (bytes : List Byte) (ce : Bool) (s : State) : Out :=
  .next (s.whenService (fun s =>
    match s.fetches.find? (fun f => f.ch == ch.val && f.roce) with
    | none => s
    | some f =>
      let due := ce && (match SMap.get noCnp s.cnps ch with | some t => (s.aon.newel - t).toNat ≥ 50000 | none => true)
      let s : State :=
        if due then
          { s.ethSend f.port (epTag f.entry) (epAddr f.entry) 4791 (0xC000 + ch) (bth 0x81 (at' f.entry 8 4 % 2 ^ 24) 0 ++ List.replicate 16 0) with
            cnps := SMap.set noCnp s.cnps ch (some s.aon.newel) }
        else s
      let off := distance 24 (at' f.entry 0xC 4 % 2 ^ 24) psn.toNat * 4096
      if psn.toNat = f.psn && bytes.length = min 4096 (f.total - off) && off < 0x10000 * f.asked then
        s.fetchGot { f with psn := (f.psn + 1) % 2 ^ 24 } off bytes
      else s.setFetch f))

/-- A RoCE read is retried, under one count for its kinds (R410). -/
def State.roceAgain (s : State) (ch : Nat) : State :=
  match s.fetches.find? (fun f => f.ch == ch && f.roce) with
  | some f => if f.missing.isEmpty then s else if f.spent 7 then s.fetchFail ch else s.fetchAgain f Fld.ETH_ROCE_RETRY_CNT_COUNT
  | none => s

/-- RNR_NAK: the responder is not ready. -/
def execRnrNak (ch : Fin 4) (s : State) : Out := .next (s.whenService (fun s => s.roceAgain ch))

/-- ROCE_RETRY: a read is unanswered after 1 ms. -/
def execRoceRetry (ch : Fin 4) (s : State) : Out := .next (s.whenService (fun s => s.roceAgain ch))

end Sys2Proof.Machine
end

