-- ==== Sys2Proof/Machine/TierCmds.lean ====
section
/-! DEFINITION. The commands of the tier manager's channels (R359 to R366, R378), the ends of the translation commands that are not
invalidations (R268, R290, R291) and advice (R375). -/
namespace Sys2Proof.Machine

/-! ### Who uses images and streams (R361, R377) -/

/-- Does a running MODEL or QUALIFY command use image `h`? -/
def State.imgBusy (s : State) (h : Nat) : Bool :=
  s.sqs.any (fun e => e.2.cmds.any (fun c =>
    c.st == .running && (descType c.desc == 2 || descType c.desc == 5) && mImage c.desc == h))

def State.strmBusy (s : State) (n : Nat) : Bool :=
  s.sqs.any (fun e => e.2.cmds.any (fun c => c.st == .running && descType c.desc == 2 && mStream c.desc == n))

def POwner.ofImage (h : Nat) : POwner → Bool
  | .image i => i == h
  | .copy i => i == h
  | _ => false

def POwner.ofStream (n : Nat) : POwner → Bool
  | .stream m _ => m == n
  | .input m => m == n
  | _ => false

/-- What the images and streams of a partition take in the tier manager's range: first address and the one after the last. -/
def State.vaRuns (s : State) (p : Nat) : List (Nat × Nat) :=
  s.imgs.filterMap (fun e => match e.2 with
    | some i => if i.part == p then some (i.va, i.va + 0x10000 * ceilDiv i.ilen 0x10000) else none
    | none => none) ++
  s.streams.filterMap (fun e => match e.2 with
    | some v => (s.img v.image).bind (fun i => if v.part == p then some (v.va, v.va + 0x10000 * (i.layers * v.np i + 1)) else none)
    | none => none)

/-- The lowest address of the tier manager's range at which `n` pages have room in a partition; `none`: the range is full (R357). -/
def State.nextVa (s : State) (p n : Nat) : Option Nat :=
  let l := s.vaRuns p
  let fits := fun (a : Nat) => a + 0x10000 * n ≤ 2 ^ 48 && l.all (fun r => a + 0x10000 * n ≤ r.1 || r.2 ≤ a)
  ((tierVa :: l.map (·.2)).filter fits).foldl (fun (m : Option Nat) a => some (m.elim a (min a))) none

/-- Release the locks that partition `p` holds on the lines of an image's home pages (R363). -/
def State.unlockImg (s : State) (h p : Nat) : State :=
  let mine := fun (a : Nat) => s.pages.any (fun (g : Page) => g.owner == .image h && g.tier == 1 && covers g.phys 0x10000 a)
  (s.l2.filter (fun e => e.2.lock == some p && e.2.line * 128 / 2 ^ 46 == s.chip && mine (e.2.line * 128 % 2 ^ 46))).foldl (fun s e =>
    let l := s.l2At e.1
    s.setL2 e.1 (if l.valid then { l with lock := none, age := 1 } else L2Line.empty)) s

/-! ### Register (R359, R360) -/

/-- The fields of an image header (Table 12.1). -/
structure Head where
  layers : Nat
  wfmt   : Nat
  kvb    : Nat
  outb   : Nat
  window : Nat
  maxctx : Nat
  ilen   : Nat
  table  : Nat
  inb    : Nat
  digest : List Byte
  deriving DecidableEq, Repr

/-- The format codes of Table 02.1. -/
def fmtCodes : List Nat := [0x00, 0x01, 0x02, 0x03, 0x04, 0x08, 0x09, 0x0A, 0x0B, 0x0C, 0x0D, 0x10, 0x11, 0x12, 0x13, 0x14]

/-- Read and check a header against LEN. -/
def readHead (b : List Byte) (len : Nat) : Option Head :=
  let h : Head := ⟨at' b 6 2, at' b 8 1, at' b 0xA 2, at' b 0xC 4, at' b 0x10 4, at' b 0x14 4, at' b 0x18 8, at' b 0x20 4, at' b 0x24 4, (b.drop 0x28).take 48⟩
  let in_ := fun (x lo hi : Nat) => lo ≤ x && x ≤ hi
  if at' b 0 4 = 0x4D494C50 && at' b 4 2 = 1 && in_ h.layers 1 1024 && fmtCodes.contains h.wfmt && at' b 9 1 = 0 && in_ h.kvb 1 1024 &&
      in_ h.outb 1 65536 && in_ h.maxctx 1 16777216 && h.ilen = len && h.ilen ≥ 128 && h.inb ≤ 65536 && at' b 0x58 40 = 0 &&
      h.table + 32 * h.layers ≤ h.ilen then some h else none

/-- The layers of a decrypted image; `none`: an entry of the layer table or a launch block breaks a rule. -/
def readSegs (h : Head) (img : List Byte) : Option (List Seg) :=
  (List.range h.layers).foldr (fun i r =>
    match r with
    | none => none
    | some l =>
      let e := (img.drop (h.table + 32 * i)).take 32
      let la := at' e 0 4
      let so := at' e 8 8
      let sl := at' e 0x10 8
      let blk := (img.drop la).take 32
      if at' e 4 4 = 0 && at' e 0x18 8 = 0 && so % 65536 = 0 && so + sl ≤ h.ilen && la + 32 ≤ h.ilen && (blkBad blk).isNone then
        some (⟨blk, so, sl⟩ :: l)
      else none) (some [])

/-- Decrypt the chunks of a stored image (R451); `none`: a tag fails. -/
def openChunks (key head : List Byte) (n : Nat) : Nat → Nat → List Byte → Option (List Byte)
  | 0, _, _ => some []
  | k + 1, i, b =>
    let c := b.take (0x100000 + 16)
    match Config.gcmOpen key (List.replicate 8 0 ++ natLe 4 i) (head ++ natLe 4 i ++ natLe 4 n) c with
    | none => none
    | some d =>
      match openChunks key head n k (i + 1) (b.drop (0x100000 + 16)) with
      | some r => some (d ++ r)
      | none => none

def noSlot (_ : Nat) : List Byte := []

/-- The source of a register command: its bytes; an error; or not yet (outer `none`). -/
def State.regSource (s : State) (ch : Nat) : State × Option (Option (List Byte)) :=
  let n := storedLen (s.fld (Fld.TIER_CMD_LEN_LEN ch))
  if s.fldB (Fld.TIER_CMD_SRC ch) then
    match s.fetches.find? (fun f => f.ch == ch) with
    | some f =>
      if f.whole then (s, some (some ((List.range f.total).map (fun i => (SMap.get noByte f.got i).getD 0)))) else (s, none)
    | none => (s.fetchStart ch, none)
  else
    let a := s.fld (Fld.TIER_CMD_ADDR_ADDR ch)
    let p := s.fld (Fld.TIER_CMD_PARTITION ch)
    if !(if isHostRange a then s.ownsHost p a n else s.ownsRange p a n) then (s, some none)
    else
      match s.unitRead p a n with
      | (s, some (some (b, poison))) => (s, some (if poison then none else some b))
      | (s, some none) => (s, some none)
      | (s, none) => (s, none)

/-- Give an image's pages their places in its home tier, those that lack one. -/
def State.homePages (s : State) (h p tier n : Nat) : State × Take :=
  (List.range n).foldl (fun (r : State × Take) k =>
    match r with
    | (s, .got _ _) =>
      if (s.page (.image h) k).isSome then (s, .got 0 false)
      else
        match s.takePage 3 p tier false with
        | (s, .got a pool) =>
          let g : Page := ⟨.image h, k, p, tier, pool, s.aon.newel, false, false, a, false, [], []⟩
          ({ s with pages := s.pages ++ [g] }, .got a pool)
        | x => x
    | x => x) (s, .got 0 false)

/-- Write an image to its home pages; the Bool says whether every page could be written. -/
def State.writeImage (s : State) (h : Nat) (img : List Byte) (n : Nat) : State × Bool :=
  (List.range n).foldl (fun (r : State × Bool) k =>
    match r.2, r.1.page (.image h) k with
    | true, some g =>
      let b := (img.drop (0x10000 * k)).take 0x10000
      let b := b ++ List.replicate (0x10000 - b.length) 0
      if g.tier = 2 then
        let (t, out, nonce, tag) := r.1.sealPage g b
        match t.unitWrite g.part .nobody g.phys out with
        | (u, ok) => (u.setPage g.owner g.idx (fun g => { g with nonce := nonce, tag := tag }), ok)
      else r.1.unitWrite g.part .nobody g.phys b
    | _, _ => (r.1, false)) (s, true)

/-- Add `va` to ENTRY of the launch blocks in an image (R359). -/
def patchImage (h : Head) (va : Nat) (img : List Byte) : List Byte :=
  ((List.range h.layers).map (fun i => at' img (h.table + 32 * i) 4)).eraseDups.foldl (fun m la => patch m la (natLe 8 (at' m la 8 + va))) img

/-- A register command, in the order of R359: read and check, allocate, decrypt and authenticate, write, map and measure. -/
def State.registerRun (s : State) (ch : Nat) : State :=
  let h := s.fld (Fld.TIER_CMD_ID ch)
  let p := s.fld (Fld.TIER_CMD_PARTITION ch)
  let tier := s.fld (Fld.TIER_CMD_ARG ch)
  let len := s.fld (Fld.TIER_CMD_LEN_LEN ch)
  let fail := fun (s : State) (r : Nat) =>
    (({ s with fetches := s.fetches.filter (fun f => f.ch != ch) } : State).freePages p (POwner.ofImage h)).tierDone ch r
  match s.regSource ch with
  | (s, none) => s
  | (s, some none) => fail s 6
  | (s, some (some b)) =>
    let head := b.take 128
    let n := ceilDiv (len - 128) 0x100000
    match readHead head len with
    | none => fail s 1
    | some hd =>
      let k := ceilDiv len 0x10000
      let key := SMap.get noSlot (s.keys p).slots (s.fld (Fld.TIER_CMD_AUX_KEY ch))
      match s.homePages h p tier k with
      | (s, .noSpace) => fail s 5
      | (s, .wait) => s
      | (s, .got _ _) =>
        match (if key.isEmpty then none else openChunks key head n n 0 (b.drop 128)) with
        | none => fail s 4
        | some body =>
          if sha384 body ≠ hd.digest then fail s 4
          else
            match readSegs hd (head ++ body) with
            | none => fail s 1
            | some segs =>
              match s.nextVa p k with
              | none => fail s 5
              | some va =>
              match s.writeImage h (patchImage hd va (head ++ body)) k with
              | (s, false) => s
              | (s, true) =>
                let m : Image := ⟨p, tier, .home, .home, false, hd.layers, hd.wfmt, hd.kvb, hd.outb, hd.window, hd.maxctx, hd.ilen, hd.table, hd.inb,
                  hd.digest, va, segs.map (fun g => { g with blk := patch g.blk 0 (natLe 8 (kEntry g.blk + va)) })⟩
                let s := ({ s with fetches := s.fetches.filter (fun f => f.ch != ch) } : State).setImg h (some m)
                (s.hmExtend (8 + p) 0x41 h hd.digest).tierDone ch 0

/-! ### Residency (R362, R363) -/

/-- Pages that hold the weight segments of an image. -/
def Image.segPages (i : Image) : List Nat := (i.segs.flatMap Seg.pages).eraseDups

/-- Read the bytes of an image's home page: bytes; an error; not yet (outer `none`). -/
def State.homeBytes (s : State) (g : Page) : State × Option (Option (List Byte)) :=
  match s.unitRead g.part g.phys 0x10000 with
  | (s, none) => (s, none)
  | (s, some none) => (s, some none)
  | (s, some (some (b, poison))) =>
    if poison then (s.losePage g, some none)
    else if g.tier = 2 then
      match s.openPage g b with
      | some d => (s, some (some d))
      | none => ((s.bump Fld.SEC_SPILL_FAIL_CNT_COUNT 1).losePage g, some none)
    else (s, some (some b))

/-- Progress of a reside: done so far, not yet, or a result that ends it. -/
inductive Prog where
  | go
  | wait
  | fail (r : Nat)
  deriving DecidableEq, Repr

/-- Copy one home page to a new place. -/
def State.copyPage (s : State) (h k : Nat) (f : State → Page → State × Take) (put : State → Page → Nat → Bool → State) : State × Prog :=
  match s.page (.image h) k with
  | none => (s, .fail 6)
  | some g =>
    match s.homeBytes g with
    | (s, none) => (s, .wait)
    | (s, some none) => (s, .fail 6)
    | (s, some (some b)) =>
      match f s g with
      | (s, .got a pool) =>
        match s.unitWrite g.part .nobody a b with
        | (s, true) => (put s g a pool, .go)
        | (s, false) => (s, .wait)
      | (s, .wait) => (s, .wait)
      | (s, .noSpace) => (s, .fail 5)

/-- Reside to GALLERY: a tier-0 copy of every segment page in the reserved quota. -/
def State.toGallery (s : State) (h : Nat) (i : Image) : State × Prog :=
  i.segPages.foldl (fun (r : State × Prog) k =>
    match r with
    | (s, .go) =>
      if (s.page (.copy h) k).isSome then (s, .go)
      else
        s.copyPage h k (fun s _ => s.pickPlace i.part 0 false) (fun s _ a pool =>
          let c : Page := ⟨.copy h, k, i.part, 0, pool, s.aon.newel, true, false, a, false, [], []⟩
          { s with pages := s.pages ++ [c] })
    | x => x) (s, .go)

/-- A base aligned to 8 MiB from which the tier-1 places of a partition can take the segment pages of image `h`: no move goes there, and
each place holds no page, or the one that belongs there, or one that `ok` selects (R363). -/
def State.runPlace (s : State) (h : Nat) (i : Image) (ok : Page → Bool) : Option Nat :=
  let l := s.pagePlaces i.part 1
  l.find? (fun a => a % 0x800000 == 0 && i.segPages.zipIdx.all (fun x =>
    let u := a + 0x10000 * x.2
    l.contains u && !(s.moves.any (fun m => unitsMeet m.phys u)) &&
      s.pages.all (fun g => !unitsMeet g.phys u || ok g || (g.owner == .image h && g.idx == x.1 && g.phys == u))))

/-- The pages of the run at `a` that are not the image's own. -/
def State.inWay (s : State) (h : Nat) (i : Image) (a : Nat) : List Page :=
  s.pages.filter (fun g => g.owner != .image h && i.segPages.zipIdx.any (fun x => unitsMeet g.phys (a + 0x10000 * x.2)))

/-- Move pages to tier `t`, each for its own partition, those that are not being moved (R358, R369). -/
def State.movePages (s : State) (l : List Page) (t : Nat) : State × Prog :=
  l.foldl (fun (r : State × Prog) g =>
    match r with
    | (s, .fail k) => (s, .fail k)
    | (s, _) =>
      if g.lost then (s, .fail 6)
      else if s.moving g.owner g.idx then (s, .wait)
      else
        match s.takePage 3 g.part t g.c0 with
        | (s, .got a pool) => ({ s with moves := s.moves ++ [⟨g.owner, g.idx, t, g.part, a, pool, false, none⟩] }, .wait)
        | (s, .wait) => (s, .wait)
        | (s, .noSpace) => (s, .fail 5)) (s, if l.isEmpty then .go else .wait)

/-- Do the segment pages already stand one after another from a base aligned to 8 MiB? -/
def State.inRun (s : State) (h : Nat) (i : Image) : Bool :=
  let l := i.segPages.map (fun k => match s.page (.image h) k with | some g => if g.tier = 1 then g.phys else 1 | none => 1)
  match l with
  | [] => true
  | a :: _ => a % 0x800000 == 0 && l.zipIdx.all (fun x => x.1 == a + 0x10000 * x.2)

/-- Copy the segment pages to the run at `a`, those that are not there, once no access uses their old places. -/
def State.copyRun (s : State) (h : Nat) (i : Image) (a : Nat) : State × Prog :=
  let (s, pr) := i.segPages.zipIdx.foldl (fun (r : State × Prog) k =>
    match r, r.1.page (.image h) k.1 with
    | (s, .go), some g =>
      if g.phys = a + 0x10000 * k.2 then (s, .go)
      else if s.pageBusy g.phys || s.moving g.owner g.idx then (s, .wait)
      else
        s.copyPage h k.1 (fun s _ => (s, .got (a + 0x10000 * k.2) false)) (fun s g a _ => s.setPage g.owner g.idx (fun g => { g with phys := a }))
    | (s, .go), none => (s, .fail 6)
    | x, _ => x) (s, .go)
  (s.dropPart i.part, pr)

/-- The home copy moves into tier 1, and its segment pages stand one after another there (R363). Pages of others that can be evicted give
way, where no run is free without that (R369; DEDUCED, log entry 59). -/
def State.placeRun (s : State) (h : Nat) (i : Image) : State × Prog :=
  match s.movePages (s.pages.filter (fun g => g.owner == .image h && g.tier == 2)) 1 with
  | (s, .go) =>
    if s.inRun h i then (s, .go)
    else
      match s.runPlace h i (fun _ => false), s.runPlace h i (fun g => g.owner != .image h && s.evictable g) with
      | some a, _ => s.copyRun h i a
      | none, some a => s.movePages (s.inWay h i a) 2
      | none, none => (s, .fail 5)
  | r => r

/-- Preload and lock the segments (R208, R363). -/
def State.lockSegs (s : State) (h : Nat) (i : Image) : State × Prog :=
  let r := i.segs.eraseDups.foldl (fun (r : MntRes) sg => (List.range (ceilDiv sg.slen 128)).foldl (fun (r : MntRes) j =>
    let o := sg.sofs + 128 * j
    match s.page (.image h) (o / 0x10000) with
    | some g => r.preload i.part (s.paOf (canon (g.phys + o % 0x10000)))
    | none => r) r) ⟨s, 0, 0, false, true⟩
  if !r.ok then (r.s, .wait) else if r.short > 0 then (r.s.unlockImg h i.part, .fail 5) else (r.s, .go)

/-- The end of a reside: the new state, or HOME after a failure. -/
def State.resideEnd (s : State) (ch h : Nat) (i : Image) (res : Res) (r : Nat) : State :=
  -- a lost home page has no tier-0 copy any more
  let lost := (match s.img h with | some m => m.lost | none => i.lost) || (res != .gallery && s.pages.any (fun g => g.owner == .image h && g.lost))
  let s := s.setImg h (some { i with res := res, was := res, lost := lost })
  let s := if res = .gallery then s else s.freePages i.part (fun o => o == .copy h)
  let s := if res = .locked then s else s.unlockImg h i.part
  (s.dropPart i.part).tierDone ch r

/-- The steps of a reside command as far as they go now. -/
def State.resideRun (s : State) (ch : Nat) : State :=
  let h := s.fld (Fld.TIER_CMD_ID ch)
  match s.img h with
  | none => s.tierDone ch 1
  | some i =>
    -- accesses in flight still use the copy that is to be freed (R286, R358)
    if s.fld (Fld.TIER_CMD_ARG ch) ≠ 1 && s.pages.any (fun g => g.owner == .copy h && s.pageBusy g.phys) then s
    else
    match s.fld (Fld.TIER_CMD_ARG ch) with
    | 0 => s.resideEnd ch h i .home 0
    | 1 =>
      match s.toGallery h i with
      | (s, .go) => s.resideEnd ch h i .gallery 0
      | (s, .wait) => s
      | (s, .fail r) => s.resideEnd ch h i .home r
    | _ =>
      match s.placeRun h i with
      | (s, .go) =>
        match s.lockSegs h i with
        | (s, .go) => s.resideEnd ch h i .locked 0
        | (s, .wait) => s
        | (s, .fail r) => s.resideEnd ch h i .home r
      | (s, .wait) => s
      | (s, .fail r) => s.resideEnd ch h i .home r

/-- The checks of R363 when a reside begins: its result, or the move begins. -/
def State.resideGo (s : State) (ch h p : Nat) : State :=
  let arg := s.fld (Fld.TIER_CMD_ARG ch)
  match s.img h with
  | none => s.tierDone ch 1
  | some i =>
    let c0 := s.pagesIn (fun q t pool c => q == p && t == 0 && !pool && c)
    let sum := (i.segs.map (·.slen)).sum
    if i.part ≠ p || arg = 3 then s.tierDone ch 1
    else if s.imgBusy h || i.res = .changing then s.tierDone ch 3
    else if arg ≠ 0 && !s.hasRes p then s.tierDone ch 2
    else if (arg = 0 && i.res = .home) || (arg = 1 && i.res = .gallery) || (arg = 2 && i.res = .locked) then s.tierDone ch 0
    else if arg = 1 && (i.segPages.length > s.galRes p - c0 || i.segPages.length > s.quota p 0 - s.quotaUsed p 0) then s.tierDone ch 5
    else if arg = 2 && sum > s.fld (Fld.SQ_PART_RES_WAYS p) * 0x800000 then s.tierDone ch 5
    else
      -- an image that leaves GALLERY or LOCKED no longer meets R349
      s.setImg h (some { i with res := .changing, was := i.res })

/-! ### Streams (R365) -/

/-- The pages, layer and page index, of the positions from `pos` up to `to_` of a stream of image `i` (R366). -/
def Image.newPages (i : Image) (pos to_ : Nat) : List (Nat × Nat) :=
  ((List.range (ceilDiv to_ i.perPage - pos / i.perPage)).map (fun k => pos / i.perPage + k)).flatMap
    (fun k => (List.range i.layers).map (fun l => (l, k)))

/-- Take a page of stream `n` for each entry of the list that has none yet. -/
def State.takePages (s : State) (n p : Nat) (l : List (Nat × Nat)) : State × Take :=
  l.foldl (fun (r : State × Take) x =>
    match r with
    | (s, .got _ _) => if (s.page (.stream n x.1) x.2).isSome then (s, .got 0 false) else s.newPage (.stream n x.1) x.2 p false
    | x => x) (s, Take.got 0 false)

/-- An extend as far as it goes now: pages for the new positions, then POS. -/
def State.extendRun (s : State) (ch : Nat) : State :=
  let n := s.fld (Fld.TIER_CMD_ID ch)
  let pos := s.fld (Fld.TIER_CMD_ADDR_ADDR ch)
  match s.strm n with
  | none => s.tierDone ch 1
  | some v =>
    match s.img v.image with
    | none => s.tierDone ch 1
    | some i =>
      match s.takePages n v.part (i.newPages v.pos pos) with
      | (s, .wait) => s
      | (s, .noSpace) => s.tierDone ch 5
      | (s, .got _ _) => (s.setStrm n (some { v with pos := pos })).tierDone ch 0

/-! ### GO (R378) -/

def Res.code : Res → Nat
  | .home => 0 | .gallery => 1 | .locked => 2 | .changing => 3

/-- A read command: TIER_CMD_VIEW and VIEW2. -/
def State.tierView (s : State) (ch res home : Nat) (lost valid : Bool) (va pos : Nat) : State :=
  let s := s.setReg (Reg.TIER_CMD_VIEW ch) (res * 2 ^ 62 + home * 2 ^ 60 + (if lost then 2 ^ 59 else 0) + (if valid then 2 ^ 58 else 0) + va % 2 ^ 48)
  (s.setReg (Reg.TIER_CMD_VIEW2 ch) (pos % 2 ^ 32)).tierDone ch 0

/-- A write of agent `a` has set GO of TIER_CMD_c. -/
def State.tierGo (s : State) (a : Agent) (ch : Nat) : State :=
  let id := s.fld (Fld.TIER_CMD_ID ch)
  let p := s.fld (Fld.TIER_CMD_PARTITION ch)
  let op := s.fld (Fld.TIER_CMD_OP ch)
  let val := s.fld (Fld.TIER_CMD_ADDR_ADDR ch)
  let isImg := op = 0 || op = 1 || op = 2 || op = 6
  if a = .host && !s.hostMay p 2 then s.tierDone ch 2
  else if !s.definedPart p || (isImg && id > 4095) then s.tierDone ch 1
  else
    match op with
    | 0 =>
      let arg := s.fld (Fld.TIER_CMD_ARG ch)
      let others := (List.range 4).any (fun c => c != ch && s.fldB (Fld.TIER_CMD_GO c) && s.fld (Fld.TIER_CMD_OP c) == 0 && s.fld (Fld.TIER_CMD_ID c) == id)
      if (s.img id).isSome || others then s.tierDone ch 2
      else if (arg ≠ 1 && arg ≠ 2) || s.fld (Fld.TIER_CMD_LEN_LEN ch) < 128 then s.tierDone ch 1
      else if s.fldB (Fld.TIER_CMD_SRC ch) then s.fetchStart ch
      else s
    | 1 =>
      match s.img id with
      | none => s.tierDone ch 1
      | some i =>
        if i.part ≠ p then s.tierDone ch 1
        else if s.imgBusy id || i.res = .changing || s.streams.any (fun e => match e.2 with | some v => v.image == id | none => false) then s.tierDone ch 3
        else
          let s := ((s.unlockImg id p).freePages p (POwner.ofImage id)).setImg id none
          ((s.dropCerts (fun h _ => h == id)).hmExtend (8 + p) 0x42 id i.digest).tierDone ch 0
    | 2 => s.resideGo ch id p
    | 3 =>
      let h := s.fld (Fld.TIER_CMD_AUX_IMAGE ch)
      match s.img h with
      | none => s.tierDone ch 2
      | some i =>
        if (s.strm id).isSome || i.part ≠ p then s.tierDone ch 2
        else if val = 0 || val > i.maxctx then s.tierDone ch 1
        else
          match s.nextVa p (i.layers * ceilDiv val i.perPage + 1) with
          | some va => (s.setStrm id (some ⟨h, p, val, 0, false, va⟩)).tierDone ch 0
          | none => s.tierDone ch 5
    | 4 =>
      match s.strm id with
      | none => s.tierDone ch 1
      | some v =>
        if v.part ≠ p then s.tierDone ch 1
        else if s.strmBusy id then s.tierDone ch 3
        else ((s.freePages p (POwner.ofStream id)).setStrm id none).tierDone ch 0
    | 5 =>
      match s.strm id with
      | none => s.tierDone ch 1
      | some v => if v.part ≠ p || val ≤ v.pos || val > v.maxpos then s.tierDone ch 1 else s
    | 6 =>
      match s.img id with
      | none => s.tierView ch 0 0 false false 0 0
      | some i => s.tierView ch i.res.code i.home i.lost true i.va (s.pages.filter (fun g => POwner.ofImage id g.owner)).length
    | _ =>
      match s.strm id with
      | none => s.tierView ch 0 0 false false 0 0
      | some v => s.tierView ch 0 0 v.broken true v.va v.pos

/-- TIER_COMMAND_DONE: a register, reside or extend command takes its remaining steps and ends, unless one of them has to wait. -/
def execTierCommandDone (ch : Fin 4) (s : State) : Out :=
  .next (s.whenService (fun s =>
    if !s.fldB (Fld.TIER_CMD_GO ch) then s
    else
      match s.fld (Fld.TIER_CMD_OP ch) with
      | 0 => s.registerRun ch
      | 2 => s.resideRun ch
      | 5 => s.extendRun ch
      | _ => s))

/-! ### Translation commands (R268, R290, R291, R298) -/

/-- A create ends (R268, R298). Where several results apply, a tag that has a context comes first, then a partition that is not defined,
then what R298 refuses, then the root (DESIGN CHOICE, log entry 130). -/
def State.createEnd (s : State) (ch tag : Nat) : State :=
  let p := s.fld (Fld.XLT_CMD_PARTITION ch)
  let priv := s.fldB (Fld.XLT_CMD_PRIV ch)
  let la := s.fld (Fld.XLT_CMD_ADDR_ADDR ch)
  if (s.ctx tag).valid then s.xltEnd ch 2
  else if !s.definedPart p then s.xltEnd ch 1
  else if ch ≥ 2 && (priv || !s.hostMay p 0) then s.xltEnd ch 2
  else if !s.rootOk p la then s.xltEnd ch 1
  else (s.setCtx tag ⟨true, p, priv, s.paOf la⟩).xltEnd ch 0

/-- What a prefetch has done: the state, pages skipped, and whether it could go on. -/
structure PfRes where
  s    : State
  skip : Nat
  ok   : Bool
  deriving DecidableEq, Repr

/-- Bring one sector into the partition's ways, where it can be read now. -/
def PfRes.sector (r : PfRes) (p pa age : Nat) : PfRes :=
  if (r.s.l2Sec pa).isSome then r
  else match r.s.readSec p pa (some age) with | (s, some _) => { r with s := s } | (s, none) => { r with s := s, ok := false }

/-- One page of a prefetch with OP 4, 5 or 6 (R290): its walk takes one walker, where R278 has one for it. -/
def PfRes.page (r : PfRes) (op tag p va : Nat) : PfRes :=
  if !walkerFree (walkersHeld r.s.walks) 1 p then { r with ok := false }
  else
  match r.s.walk tag va with
  | (s, .wait) => { r with s := s, ok := false }
  | (s, .fault _ _) => { r with s := s, skip := r.skip + 1 }
  | (s, .leaf t) =>
    let r := { r with s := { s with stlb := stlbPut s.stlb t } }
    if op = 4 || t.ty = .wtm || t.ty = .device then r
    else
      let secs := (List.range 64).filterMap (fun i =>
        match r.s.target (t.paOf (va + 64 * i)) with
        | .coh c a => if c = r.s.chip then some (c * 2 ^ 46 + a) else none
        | .host a => if r.s.cacheEnable then some (r.s.paOf a) else none
        | _ => none)
      let r := secs.foldl (fun r q => r.sector p q (if op = 5 then 1 else 0)) r
      if op = 6 && r.ok then
        { r with s := (secs.filter (fun q => q % 128 == 0)).foldl (fun s q =>
            let (s, ok) := s.l2Lock p q
            if ok then (match s.l2Find q with | some k => s.setL2 k { s.l2At k with age := 0 } | none => s) else s) r.s }
      else r

/-- One more page of a prefetch, of which the page is done or waits: what has been done stays with the channel. -/
def PfRes.next (r : PfRes) (ch op tag p a : Nat) : PfRes :=
  match r.ok, r.s.xop ch with
  | true, .run n k =>
    let t := r.page op tag p (a + 4096 * n)
    if t.ok then { t with s := (t.s.bump Fld.XLT_WALK_CNT_COUNT 1).setXop ch (.run (n + 1) (k + (t.skip - r.skip))) } else t
  | _, _ => r

/-- A prefetch command as far as it goes. -/
def State.prefetchEnd (s : State) (ch op tag done skipped : Nat) : State :=
  let a := s.fld (Fld.XLT_CMD_ADDR_ADDR ch)
  let n := s.fld (Fld.XLT_CMD_LEN_LEN ch)
  if a % 4096 ≠ 0 || n = 0 || n % 4096 ≠ 0 || n > 0x40000000 || a + n > 2 ^ 48 then s.xltEnd ch 1
  else
    let p := (s.ctx tag).part
    let r := (List.range (n / 4096 - done)).foldl (fun (r : PfRes) _ => r.next ch op tag p a) ⟨s, skipped, true⟩
    if !r.ok then r.s
    else (r.s.setFld (Fld.XLT_CMD_STATUS_SKIPPED ch) (min r.skip (2 ^ 24 - 1))).xltEnd ch (if r.skip > 0 then 4 else 0)

/-- Advice on one page: COLD, PIN and UNPIN (Table 12.7). -/
def State.advisePage (s : State) (g : Page) (adv : Nat) : State :=
  match adv with
  | 2 => s.setPage g.owner g.idx (fun g => { g with age := 0 })
  | 3 =>
    let pin := fun (s : State) => s.setPage g.owner g.idx (fun g => { g with pinned := true })
    let short := s.bump Fld.TIER_ADVICE_SHORT_CNT_COUNT 1
    match s.moves.find? (fun m => m.owner == g.owner && m.idx == g.idx) with
    | some m =>
      -- the pin applies in the new tier (Table 12.9)
      if !m.pool then pin s
      else if s.quotaRoom m.part m.toT m.c0 then
        pin { s with moves := s.moves.map (fun (x : Move) => if x.owner == g.owner && x.idx == g.idx then { x with pool := false } else x) }
      else short
    | none =>
      if !g.pool then pin s
      else if s.quotaRoom g.part g.tier g.c0 then (pin s).setPage g.owner g.idx (fun g => { g with pool := false })
      else short
  | _ => s.setPage g.owner g.idx (fun g => { g with pinned := false })

/-- Advise: the pages of the range in the tier manager's range of the tag's partition (R291, R375). -/
def State.adviseEnd (s : State) (ch tag : Nat) : State :=
  let a := s.fld (Fld.XLT_CMD_ADDR_ADDR ch)
  let n := s.fld (Fld.XLT_CMD_LEN_LEN ch)
  let c := s.ctx tag
  let adv := s.fld (Fld.XLT_CMD_ADVICE ch)
  if !c.valid || adv = 0 then s.xltEnd ch 1
  else
    let mine := s.pages.filter (fun g =>
      let va := s.pageVa g.owner g.idx
      g.part == c.part && va < a + n && a < va + 0x10000)
    -- WILLNEED: newest page index first, as R367 promotes
    (if adv = 1 then
      State.advisePump { s with advised := s.advised ++ (sortBy (fun (a b : Page) => decide (a.idx ≥ b.idx)) mine).map (fun g => (g.owner, g.idx)) }
     else mine.foldl (fun s g => s.advisePage g adv) s).xltEnd ch 0

/-- TRANSLATION_COMMAND_DONE: a create, a prefetch or an advise ends. -/
def execTranslationCommandDone (ch : Fin 4) (s : State) : Out :=
  .next (s.whenService (fun s =>
    match s.xop ch with
    | .run n k =>
      let tag := s.fld (Fld.XLT_CMD_TAG ch)
      match s.fld (Fld.XLT_CMD_OP ch) with
      | 2 => s.createEnd ch tag
      | 7 => s.adviseEnd ch tag
      | op => s.prefetchEnd ch op tag n k
    | _ => s))

end Sys2Proof.Machine
end

