-- ==== Sys2Proof/Machine/Endpoint.lean ====
section
/-! DEFINITION. The host endpoint: configuration space, the component registers, doorbells, the Gallery aperture, vectors,
containment and its release, CXL.io completions, the Inventory table and IDE (R299 to R326). -/
namespace Sys2Proof.Machine

/-! ### Configuration space and component registers (R299, R300, R309) -/

/-- A word of configuration space or of the component registers: what it reads at reset, the bits that software writes and
those that it clears by writing 1 (log entry 12). -/
structure CWord where
  off   : Nat
  fixed : W32
  wmask : W32
  w1c   : W32
  deriving DecidableEq, Repr

/-- Header and capability chain of Tables 10.1 and 10.2. -/
def cfgWords : List CWord := [
  ⟨0x00, 0x71401F6C, 0, 0⟩, ⟨0x04, 0x00100000, 0x0146, 0xF9000000⟩, ⟨0x08, 0x12000012, 0, 0⟩, ⟨0x0C, 0, 0xFF, 0⟩,
  ⟨0x10, 0x4, 0xFE000000, 0⟩, ⟨0x14, 0, 0xFFFFFFFF, 0⟩, ⟨0x18, 0x4, 0xFFFC0000, 0⟩, ⟨0x1C, 0, 0xFFFFFFFF, 0⟩,
  ⟨0x20, 0xC, 0x80000000, 0⟩, ⟨0x24, 0, 0xFFFFFFFF, 0⟩, ⟨0x2C, 0x71401F6C, 0, 0⟩, ⟨0x30, 0, 0xFFF00001, 0⟩,
  ⟨0x34, 0x40, 0, 0⟩, ⟨0x3C, 0, 0xFF, 0⟩,
  -- Power Management; MSI; PCI Express; MSI-X
  ⟨0x40, 0x00035001, 0, 0⟩, ⟨0x44, 0x8, 0x3, 0⟩,
  ⟨0x50, 0x018A7005, 0x00710000, 0⟩, ⟨0x54, 0, 0xFFFFFFFC, 0⟩, ⟨0x58, 0, 0xFFFFFFFF, 0⟩, ⟨0x5C, 0, 0xFFFF, 0⟩,
  ⟨0x60, 0, 0xFFFFFFFF, 0⟩, ⟨0x64, 0, 0, 0⟩,
  ⟨0x70, 0x0002B010, 0, 0⟩, ⟨0x74, 0x00008022, 0, 0⟩, ⟨0x78, 0x2910, 0x79FF, 0x000F0000⟩, ⟨0x94, 0x00030013, 0, 0⟩,
  ⟨0x98, 0, 0x101F, 0⟩,
  ⟨0xB0, 0x07FF0011, 0xC0000000, 0⟩, ⟨0xB4, 0x00088000, 0, 0⟩, ⟨0xB8, 0x00081000, 0, 0⟩,
  -- Advanced Error Reporting; Device Serial Number
  ⟨0x100, 0x14820001, 0, 0⟩, ⟨0x104, 0, 0, 0x1057F030⟩, ⟨0x108, 0x00400000, 0x1057F030, 0⟩, ⟨0x10C, 0x00462030, 0x1057F030, 0⟩,
  ⟨0x110, 0, 0, 0x0000F1C1⟩, ⟨0x114, 0x0000E000, 0x0000F1C1, 0⟩, ⟨0x148, 0x15810003, 0, 0⟩,
  -- DVSEC, CXL Device
  ⟨0x158, 0x19810023, 0, 0⟩, ⟨0x15C, 0x03C31E98, 0, 0⟩, ⟨0x160, 0x41E70000, 0, 0⟩, ⟨0x164, 0x00000002, 0x4FFD, 0x40000000⟩,
  ⟨0x168, 0, 0x0009, 0⟩,
  -- DVSEC, Flex Bus Port; DVSEC, Register Locator; DOE; IDE
  ⟨0x198, 0x1B810023, 0, 0⟩, ⟨0x19C, 0x02021E98, 0, 0⟩, ⟨0x1A0, 0x20070007, 0, 0⟩,
  ⟨0x1B8, 0x20010023, 0, 0⟩, ⟨0x1BC, 0x01401E98, 0, 0⟩, ⟨0x1C0, 0x00000008, 0, 0⟩, ⟨0x1C4, 0x000E0100, 0, 0⟩,
  ⟨0x200, 0x2201002E, 0, 0⟩, ⟨0x220, 0x00010030, 0, 0⟩, ⟨0x224, 0x00000041, 0, 0⟩, ⟨0x22C, 0, 0x1, 0⟩]

/-- The words of one HDM decoder, from its base at offset `b`. -/
def decWords (b : Nat) : List CWord := [
  ⟨b, 0, 0xF0000000, 0⟩, ⟨b + 4, 0, 0xFFFFFFFF, 0⟩, ⟨b + 8, 0, 0xF0000000, 0⟩, ⟨b + 12, 0, 0xFFFFFFFF, 0⟩,
  ⟨b + 16, 0, 0x13FF, 0⟩, ⟨b + 20, 0, 0xF0000000, 0⟩, ⟨b + 24, 0, 0xFFFFFFFF, 0⟩]

/-- Component registers: the RAS, HDM Decoder and IDE Capabilities (R300). -/
def compWords : List CWord := [
  ⟨0x1000, 0x03110001, 0, 0⟩, ⟨0x1004, 0x10020002, 0, 0⟩, ⟨0x1008, 0x20030005, 0, 0⟩, ⟨0x100C, 0x30020007, 0, 0⟩,
  ⟨0x1100, 0, 0, 0x0001CFFF⟩, ⟨0x1104, 0x0001CFFF, 0x0001CFFF, 0⟩, ⟨0x1108, 0x0001CFFF, 0x0001CFFF, 0⟩, ⟨0x110C, 0, 0, 0x7F⟩,
  ⟨0x1110, 0x7F, 0x7F, 0⟩, ⟨0x1200, 0x00000301, 0, 0⟩, ⟨0x1204, 0, 0x3, 0⟩, ⟨0x1300, 0x00020005, 0, 0⟩] ++
  decWords 0x1210 ++ decWords 0x1230

def cword (l : List CWord) (off : Nat) : CWord :=
  match l.find? (fun c => c.off == off) with
  | some c => c
  | none => ⟨off, 0, 0, 0⟩

/-- The value of a word after a write of `v` to the bytes that `be` selects. -/
def CWord.write (c : CWord) (cur v be : W32) : W32 :=
  let w := c.wmask &&& be
  (cur &&& ~~~w &&& ~~~(v &&& be &&& c.w1c)) ||| (v &&& w)

/-- Memory behind decoder `n`: 0 HBM, 1 tier-0 Gallery (R309). -/
def State.hdmSize (s : State) (n : Nat) : Nat := if n = 0 then s.hbmCap else s.tier0W * 256

/-- The range registers of the CXL Device DVSEC read as zero until a Setting has loaded (R310). -/
def State.rangeWord (s : State) (n i : Nat) : Nat :=
  if s.aon.dev = .vestibule then 0
  else
    match i with
    | 0 => s.hdmSize n / 2 ^ 32
    | 1 => bits (s.hdmSize n) 31 28 * 2 ^ 28 + 0x404B
    | _ => 0

/-- Pending bits of the 32 MSI vectors, onto which the logical vectors fold (R316). -/
def State.msiPend (s : State) : Nat :=
  let n := min (bits (s.cfgW 0x50).toNat 22 20) 5
  (List.range 64).foldl (fun acc k =>
    let w := s.fld (Fld.EP_INT_PEND_PEND k)
    (List.range 32).foldl (fun acc i => if w.testBit i then acc ||| 2 ^ ((32 * k + i) % 2 ^ n) else acc) acc) 0

/-- A word of configuration space. -/
def State.cfgRead (s : State) (off : Nat) : W32 :=
  match off with
  | 0x64 => BitVec.ofNat 32 s.msiPend
  | 0x14C => BitVec.ofNat 32 Config.serial.toNat
  | 0x150 => BitVec.ofNat 32 (Config.serial.toNat / 2 ^ 32)
  | 0x20C => BitVec.ofNat 32 (s.ep.doe.busy.toNat + 4 * s.ep.doe.err.toNat + (if s.ep.doe.rd.isEmpty then 0 else 2 ^ 31))
  | 0x214 => s.ep.doe.rd.headD 0
  | 0x230 => if s.ep.ideSec.getLsbD 0 then 2 else 0
  | _ =>
    if 0x170 ≤ off && off < 0x180 then BitVec.ofNat 32 (s.rangeWord 0 ((off - 0x170) / 4))
    else if 0x180 ≤ off && off < 0x190 then BitVec.ofNat 32 (s.rangeWord 1 ((off - 0x180) / 4))
    else (cword cfgWords off).fixed ^^^ s.cfgW off

def State.setCfg (s : State) (off : Nat) (v : W32) : State :=
  { s with ep := { s.ep with cfg := SMap.set zeroCfg s.ep.cfg off (v ^^^ (cword cfgWords off).fixed) } }

/-- Set a status bit of configuration space. -/
def State.cfgStatus (s : State) (off bit : Nat) : State := s.setCfg off (s.cfgRead off ||| (1#32 <<< bit))

/-- The L2 writes back and invalidates every host line (Cache Writeback and Invalidate of the CXL Device DVSEC, R300). -/
def State.dropHostLines (s : State) : State :=
  s.l2.foldl (fun t e => if e.2.valid && e.2.host then t.evictWay e.1 else t) s

/-! #### The DOE mailbox (R300, R308) -/

def State.setDoe (s : State) (b : DoeBox) : State := { s with ep := { s.ep with doe := b } }

/-- Bytes as little-endian double words, the last filled up with zeros. -/
def toDwords (b : List Byte) : List W32 :=
  (List.range ((b.length + 3) / 4)).map (fun i => BitVec.ofNat 32 (leNat ((b.drop (4 * i)).take 4)))

/-- The protocols of the mailbox: vendor and type. -/
def doeProtocols : List (Nat × Nat) := [(0x0001, 0), (0x0001, 1), (0x0001, 2), (0x1E98, 2)]

/-- The answer of DOE Discovery: the protocol with an index, and the next index. -/
def doeFound (index : Nat) : List Byte :=
  match doeProtocols[index]? with
  | some p => natLe 2 p.1 ++ natLe 1 p.2 ++ natLe 1 ((index + 1) % 4)
  | none => [0xFF, 0xFF, 0, 0]

/-- A CDAT entry of 24 bytes: its type, then its fields. -/
def cdatEntry (ty : Nat) (b : List Byte) : List Byte := natLe 1 ty ++ [0] ++ natLe 2 24 ++ b

/-- The entries of one range (Table 10.6): its handle, DPA base and length, latency in ns, bandwidth in GB/s. -/
def cdatRange (h base len lat bw : Nat) : List (List Byte) :=
  let dslbis := fun (ty unit v : Nat) => cdatEntry 1 (natLe 1 h ++ [0] ++ natLe 1 ty ++ [0] ++ natLe 8 unit ++ natLe 2 v ++ natLe 6 0)
  [cdatEntry 0 (natLe 1 h ++ [0] ++ natLe 2 0 ++ natLe 8 base ++ natLe 8 len), dslbis 1 1000 lat, dslbis 2 1000 lat,
    dslbis 4 4000 (bw / 4), dslbis 5 4000 (bw / 4), cdatEntry 4 (natLe 1 h ++ natLe 1 1 ++ natLe 2 0 ++ natLe 8 0 ++ natLe 8 len)]

/-- The entries of the CDAT; without a Setting there are none. -/
def State.cdat (s : State) : List (List Byte) :=
  if s.aon.dev = .service then cdatRange 0 0 s.hbmCap 200 20480 ++ cdatRange 1 galleryBase (s.tier0W * 256) 70 131072 else []

/-- The header of the CDAT: its length, revision, checksum and sequence number. -/
def State.cdatHead (s : State) : List Byte :=
  let l := s.cdat
  let h := fun (sum : Nat) => natLe 4 (16 + 24 * l.length) ++ [0x01] ++ natLe 1 sum ++ natLe 6 0 ++ natLe 4 s.ep.cdatSeq.toNat
  let total := ((h 0 ++ l.flatten).map (·.toNat)).sum
  h ((256 - total % 256) % 256)

/-- The answer of CDAT Table Access: the entry with a handle, the header for handle 0, and the next handle. -/
def State.cdatFound (s : State) (n : Nat) : List Byte :=
  let l := s.cdatHead :: s.cdat
  natLe 2 0 ++ natLe 2 (if n + 1 < l.length then n + 1 else 0xFFFF) ++ l.getD n []

/-- The largest data object, in double words (R308). -/
def doeMax : Nat := 4096

/-- Go of the mailbox: an object whose length is wrong, too long, or of a protocol that the mailbox does not support sets Error. Discovery
and CDAT answer in the mailbox. An SPDM object that is written word by word keeps the mailbox busy until an abort: the root of trust answers the
rows of the opcode table, each of which is a whole exchange (DESIGN CHOICE, log entry 133). -/
def State.doeGo (s : State) : State :=
  let b := s.ep.doe
  let w := fun (i : Nat) => (b.wr.getD i 0).toNat
  let ty := (bits (w 0) 15 0, bits (w 0) 23 16)
  let ok := b.wr.length ≥ 2 && b.wr.length ≤ doeMax && bits (w 1) 17 0 == b.wr.length && doeProtocols.contains ty
  let ans := fun (m : List Byte) =>
    s.setDoe { wr := [], rd := b.wr.take 1 ++ [BitVec.ofNat 32 (2 + (m.length + 3) / 4)] ++ toDwords m, busy := false, err := false }
  if b.busy || b.err || !b.rd.isEmpty then s
  else if !ok then s.setDoe { b with wr := [], err := true }
  else if ty.1 = 0x1E98 then (if w 2 % 2 ^ 16 = 0 then ans (s.cdatFound (w 2 / 2 ^ 16)) else s.setDoe { b with wr := [], err := true })
  else if ty.2 = 0 then ans (doeFound (w 2 % 256))
  else s.setDoe { b with wr := [], busy := true }

/-- A write of a register of the mailbox: Abort and Go of its control, a double word of the request, or the acknowledgement of one that has
been read. Words past the largest object are not kept. -/
def State.doeWrite (s : State) (off : Nat) (v : W32) : State :=
  let b := s.ep.doe
  match off with
  | 0x208 => if v.getLsbD 0 then s.setDoe ⟨[], [], false, false⟩ else if v.getLsbD 31 then s.doeGo else s
  | 0x210 => s.setDoe { b with wr := (b.wr ++ [v]).take (doeMax + 1) }
  | 0x214 => s.setDoe { b with rd := b.rd.tail }
  | _ => s

/-- A write of configuration space. Writes of D1 and D2 to the power state are discarded (R300). -/
def State.cfgWrite (s : State) (off : Nat) (v be : W32) : State :=
  let n := (cword cfgWords off).write (s.cfgRead off) v be
  if 0x204 ≤ off && off ≤ 0x214 then s.doeWrite off (v &&& be)
  else
  match off with
  | 0x44 => if bits n.toNat 1 0 = 1 || bits n.toNat 1 0 = 2 then s else s.setCfg off n
  | 0x168 =>
    let s := s.setCfg off n
    if (v &&& be).getLsbD 1 then s.dropHostLines.cfgStatus 0x168 16 else s
  | _ => s.setCfg off n

/-- Does the configuration write initiate a CXL Reset (R301)? -/
def startsCxlReset (off : Nat) (v be : W32) : Bool := off == 0x168 && (v &&& be).getLsbD 2

/-! #### Component registers -/

def State.compRead (s : State) (off : Nat) : W32 :=
  let c := cword compWords off
  if off = 0x1308 then (if s.ep.ideSec.getLsbD 1 then 0x22 else 0x11)
  else c.fixed ^^^ SMap.get zeroCfg s.ep.comp off

def State.setComp (s : State) (off : Nat) (v : W32) : State :=
  { s with ep := { s.ep with comp := SMap.set zeroCfg s.ep.comp off (v ^^^ (cword compWords off).fixed) } }

/-- The base of the words of decoder `n`. -/
def decBase (n : Nat) : Nat := 0x1210 + 0x20 * n

/-- A 64-bit value of a decoder: base 0, size 8, DPA skip 20. -/
def State.dec64 (s : State) (n o : Nat) : Nat :=
  (s.compRead (decBase n + o)).toNat / 2 ^ 28 * 2 ^ 28 + (s.compRead (decBase n + o + 4)).toNat * 2 ^ 32

def State.decCtl (s : State) (n : Nat) : W32 := s.compRead (decBase n + 16)

/-- Ways that a control word names: codes 0, 1 and 2 are 1, 2 and 4. -/
def decWays (ctl : W32) : Nat := 2 ^ bits ctl.toNat 7 4

/-- Is the decoder's range within the interleave support and the DPA range of Table 10.6? -/
def State.decOk (s : State) (n : Nat) (ctl : W32) : Bool :=
  let iw := bits ctl.toNat 7 4
  let ig := bits ctl.toNat 3 0
  let size := s.dec64 n 8 / decWays ctl
  let before := if n = 1 && (s.decCtl 0).getLsbD 10 then s.dec64 0 20 + s.dec64 0 8 / decWays (s.decCtl 0) else 0
  let dpa := before + s.dec64 n 20
  s.aon.dev != .vestibule && iw ≤ (if n = 0 then 2 else 0) && (n = 1 || ig ≤ 6) && s.dec64 n 8 != 0 &&
    dpa == (if n = 0 then 0 else galleryBase) && size ≤ s.hdmSize n

/-- A write of decoder `n`'s control: a commit is checked (R309). -/
def State.decCommit (s : State) (n : Nat) (v be : W32) : State :=
  let off := decBase n + 16
  let cur := s.decCtl n
  let w := (cword compWords off).write cur v be
  if cur.getLsbD 10 then
    -- a locked decoder keeps its commit
    if cur.getLsbD 8 || w.getLsbD 9 then s else s.setComp off (w &&& ~~~(0xC00#32))
  else if w.getLsbD 9 then
    (if s.decOk n w then s.setComp off ((w &&& ~~~(0xC00#32)) ||| 0x400) else s.setComp off ((w &&& ~~~(0xC00#32)) ||| 0x800))
  else s.setComp off (w &&& ~~~(0xC00#32))

/-- A write of the component registers; the words of a committed decoder keep their values. -/
def State.compWrite (s : State) (off : Nat) (v be : W32) : State :=
  let n := (off - 0x1210) / 0x20
  if off = 0x1220 || off = 0x1240 then s.decCommit n v be
  else if 0x1210 ≤ off && off < 0x1250 && (s.decCtl n).getLsbD 10 then s
  else s.setComp off ((cword compWords off).write (s.compRead off) v be)

/-! ### The Inventory table (R312 to R314) -/

/-- An Inventory entry with its header, padded to a multiple of 4. -/
def invEntry (ty : Nat) (b : List Byte) : List Byte :=
  let n := (b.length + 7) / 4 * 4
  natLe 2 ty ++ natLe 2 n ++ b ++ List.replicate (n - 4 - b.length) 0

/-- The bits below `2^n` that are clear in `v`. -/
def clearBits (n v : Nat) : Nat := 2 ^ n - 1 - v % 2 ^ n

/-- The entries of Table 10.7. -/
def State.invEntries (s : State) : List Byte :=
  let service := s.aon.dev != .vestibule
  invEntry 1 (natLe 4 0x7F) ++
  invEntry 2 (natLe 32 (clearBits 256 (s.fence 0 32)) ++ natLe 1 (clearBits 8 (s.fence 0x20 1)) ++ natLe 8 (2 ^ 64 - 1) ++
    natLe 32 (2 ^ 256 - 1)) ++
  invEntry 3 (natLe 1 (s.fld Fld.L2C_CFG_HBM_MASK) ++ natLe 1 (s.snat 0x0202 0) ++ natLe 2 (s.snat 0x0203 0) ++
    natLe 4 (s.tier0W * 256 / 2 ^ 20) ++ natLe 4 (s.mscSize / 2 ^ 20)) ++
  invEntry 4 (natLe 1 s.ep.modules.toNat ++ natLe 1 (s.fld Fld.STW_CFG_PORTS &&& clearBits 8 (s.fence 0x24 1)) ++
    natLe 1 (if (s.fence 0x25 1).testBit 0 then 0 else s.snat 0x0703 0) ++
    natLe 1 (if (s.fence 0x25 1).testBit 1 then 0 else s.snat 0x0703 1)) ++
  invEntry 5 (natLe 4 (match s.rot.fw with | some f => (Config.fwVersion f.1).toNat | none => 0) ++ natLe 4 Config.rotVersion.toNat) ++
  invEntry 6 (if service then s.loadDig else zeros48) ++
  invEntry 7 (natLe 2 16 ++ natLe 2 4096 ++ natLe 2 4096 ++ natLe 2 4096)

/-- The header of Table 10.7 with generation `gen` and CRC field `crc`. -/
def State.invHeader (s : State) (len gen crc : Nat) : List Byte :=
  natLe 4 0x56494C50 ++ natLe 2 1 ++ natLe 2 32 ++ natLe 4 len ++ natLe 2 7 ++ natLe 2 0 ++ natLe 2 0x0102 ++
    natLe 2 (if s.aon.dev = .vestibule then 0 else 1) ++ natLe 4 gen ++ natLe 4 crc ++ natLe 4 0

/-- The PL14 rewrites the Inventory table: GEN takes the next even value (R314). -/
def State.writeInv (s : State) : State :=
  let gen := (s.ep.invGen.toNat + 2) % 2 ^ 32
  let e := s.invEntries
  let len := 32 + e.length
  let crc := (crc32 (s.invHeader len gen 0 ++ e)).toNat
  { s with ep := { s.ep with invGen := BitVec.ofNat 32 gen, inv := s.invHeader len gen crc ++ e } }

/-- A byte of the mirror of the Inventory table at BAR0 offset 0x8000 + `o`. -/
def State.invByte (s : State) (o : Nat) : Byte := s.ep.inv.getD o 0

/-! ### The hold buffer (R320 to R323) -/

def ContSt.code : ContSt → Nat
  | .normal => 0 | .frozen => 1 | .releasing => 2

def State.setCont (s : State) (c : ContSt) : State :=
  ({ s with ep := { s.ep with cont := c } } : State).setFld Fld.EP_CONT_STATUS_STATE c.code

/-- The effect of a poisoned entry on whoever made it: a write is dropped, a read is answered with poisoned data (R321). -/
def State.heldBad (s : State) (h : Held) : State :=
  let lost := fun (t : State) (w : Who) => match w with | .ring _ => t.ringError | .ringPart => t.ringError | _ => t.ackWho w .poisoned
  match h.msg with
  | .memRd tag _ len =>
    { s with ep := { s.ep with tags := s.ep.tags.map (fun (t : IoTag) =>
        if t.tag == tag && t.ans.isNone then { t with ans := some (some (List.replicate len 0, true)) } else t) } }
  | .d2hReq addr op _ =>
    match s.hcReqs.find? (fun r => s.hostName r.addr == addr && r.op == op) with
    | some r =>
      let s : State := { s with hcReqs := s.hcReqs.erase r }
      if op.reads then s.hcServed { r with age := none } .e zero64 true else s.ackWho r.who .poisoned
    | none => lost s h.who
  | _ => lost s h.who

/-- A held entry leaves in its turn; what waits for a posted write is told. -/
def State.heldSent (s : State) (h : Held) : State :=
  let s := s.hostSend h.msg
  match h.who, h.msg with
  | .ring n, _ => s.ringDone n
  | .ringPart, _ => s
  | .record q i, _ => s.recordDone q i
  | w, .memWr _ _ => s.ackWho w .ok
  | _, _ => s

/-- The poisoned entries of the buffer take their effect. -/
def State.dropBad (s : State) : State :=
  let l := s.ep.hold.filter (·.bad)
  (l.foldl State.heldBad { s with ep := { s.ep with hold := s.ep.hold.filter (fun h => !h.bad) } }).noteHeld

/-- The held entries that take their effect now, and those that stay: in D3hot and without Bus Master Enable a CXL.io request does not leave (R299, R302), and in a release,
which sends the entries in their order, what stands behind it does not either (R323). -/
def State.holdSplit (s : State) : List Held × List Held :=
  let stays := fun (h : Held) => s.ioBarred && h.msg.isIo && !h.bad
  if s.ep.cont = .releasing then s.ep.hold.span (fun h => !stays h) else s.ep.hold.partition (fun h => !stays h)

/-- The entries of the buffer that can leave take their effect in order. After a poisoned entry of a batch of the fault ring the rest of the
batch counts for nothing (R282). -/
def State.drainOnce (s : State) : State :=
  let l := s.holdSplit
  (l.1.foldl (fun (r : State × Bool) h =>
    let h := if r.2 then h.noRing else h
    (if h.bad then r.1.heldBad h else r.1.heldSent h, r.2 || (h.bad && h.ofRing))) (({ s with ep := { s.ep with hold := l.2 } } : State), false)).1

/-- Held entries leave in order when traffic flows again; an endpoint that is releasing is normal when the buffer is empty (R318,
R323). -/
def State.drainHold (s : State) : State :=
  if s.ep.cont = .frozen || s.ep.retrain then s
  else
    let s := s.drainOnce
    let s := if s.ep.cont = .normal || !s.ep.hold.isEmpty then s else s.setCont .normal
    s.drainOnce.noteHeld.settle

/-- Host lines in the L2 are dropped without messages; each dirty sector is logged (R320). -/
def State.loseHostLines (s : State) : State :=
  let one := fun (t : State) (pa : Nat) =>
    match t.l2Sec pa with
    | some x =>
      let a := pa % 2 ^ 46
      (if x.st = .m then t.unitErr 0x17 1 1 (sliceOf a) pa 0x8000 none else t).l2Inval pa
    | none => t
  let s := (s.l2.filter (fun e => e.2.valid && e.2.host)).foldl (fun t e => one (one t (e.2.line * 128)) (e.2.line * 128 + 64)) s
  let lost := s.rbuf.filter (fun e => s.lkind e.1 == .host)
  lost.foldl (fun t e => if e.2.st = .m then t.unitErr 0x17 1 1 (sliceOf (e.1 % 2 ^ 46)) e.1 0x8000 none else t)
    { s with rbuf := s.rbuf.filter (fun e => !(lost.contains e)) }

/-- CXL.cache requests that the host had not answered go to the hold buffer again. -/
def State.holdAgain (s : State) : State :=
  s.hcReqs.foldl (fun t r =>
    if t.ep.hold.any (fun h => match h.msg with | .d2hReq a op _ => a == t.hostName r.addr && op == r.op | _ => false) then t
    else t.hostOut r.who (.d2hReq (t.hostName r.addr) r.op r.data)) s

/-- An event of Table 10.8 with its cause bit: the endpoint freezes (R319, R320). -/
def State.contEvent (s : State) (cause : FRef) : State :=
  let s := s.setFldB cause true
  if s.ep.cont = .frozen then s
  else
    let s := ((s.setCont .frozen).bump Fld.EP_CONT_CNT_COUNT 1).setFld Fld.EP_CONT_HELD_POISONED 0
    (s.voidCmds 7 (fun _ _ => true)).loseHostLines.holdAgain.noteHeld.purgeStart none

/-- LINK_DOWN: loss of link, failure of module 0, hot reset or link disable. -/
def execLinkDown (s : State) : Out :=
  .next (s.whenRuns (fun s =>
    if s.ep.linkUp then
      (({ s with inWait := [], ep := { s.ep with linkUp := false, modules := 0, retrain := false } } : State).cfgStatus 0x104 5).contEvent
        Fld.EP_CONT_STATUS_LINK_DOWN
    else s))

/-- UNCORR: an uncorrectable link error. Which of them it was, and so which AER status bit stands, the command does not say. -/
def execUncorr (s : State) : Out :=
  .next (s.whenRuns (fun s =>
    if s.ep.linkUp then
      let (s, n) := s.takeFree
      let bit := [4, 13, 17, 18, 22].getD ((Config.freeByte n).toNat % 5) 4
      (s.cfgStatus 0x104 bit).contEvent Fld.EP_CONT_STATUS_UNCORR
    else s))

/-- IDE_FAIL: a stream fails its integrity check, and stays Insecure until it is keyed again (R325). The command does not say
which stream failed. -/
def execIdeFail (s : State) : Out :=
  .next (s.whenRuns (fun s =>
    if s.ep.linkUp && s.ep.ideSec ≠ 0 then
      let (s, n) := s.takeFree
      let k := if s.ep.ideSec = 3 then (Config.freeByte n).toNat % 2 else if s.ep.ideSec = 2 then 1 else 0
      let m := ~~~(1#2 <<< k)
      (({ s with ep := { s.ep with ideSec := s.ep.ideSec &&& m, ideKeys := s.ep.ideKeys &&& m } } : State).cfgStatus 0x104 28).contEvent
        Fld.EP_CONT_STATUS_IDE_FAIL
    else s))

/-- VIRAL: the host has signalled Viral. -/
def execViral (s : State) : Out :=
  .next (s.whenRuns (fun s => if s.ep.linkUp then (s.cfgStatus 0x164 30).contEvent Fld.EP_CONT_STATUS_VIRAL else s))

/-- The modules on which the link trains, of those that work: all four, or module 0 with one other, or module 0 alone (Table 01.7).
Which other one is the model's choice, the lowest that works (DESIGN CHOICE, log entry 118). -/
def trainSet (works : BitVec 4) : BitVec 4 :=
  if works = 15 then 15
  else match [1, 2, 3].find? (fun k => works.getLsbD k) with
    | some k => 1 ||| (1 <<< k)
    | none => 1

/-- The modules that no fence takes out. -/
def State.modulesIn (s : State) : BitVec 4 := BitVec.ofNat 4 (clearBits 4 (s.fence 0x23 1))

/-- LINK_UP: the link trains, in Vestibule on module 0 alone, and again after a loss (R27, R322). `modules`: those that work. -/
def execLinkUp (modules : BitVec 4) (s : State) : Out :=
  .next (s.whenRuns (fun s =>
    if s.ep.linkUp || !modules.getLsbD 0 then s
    else
      { s with ep := { s.ep with
          linkUp := true, modules := if s.aon.dev = .vestibule then 1 else trainSet (modules &&& s.modulesIn), failed := ~~~modules } }))

/-- A module retrain begins, on the largest count of working modules that includes module 0: traffic pauses, and for the promise it
counts as containment (R318). -/
def State.retrainStart (s : State) : State :=
  let s : State := { s with ep := { s.ep with retrain := true, modules := trainSet (s.modulesIn &&& ~~~s.ep.failed) } }
  (s.bump Fld.EP_RETRAIN_CNT_COUNT 1).voidCmds 7 (fun _ _ => true)

/-- MODULE_RETRAIN: a module other than 0 has failed. -/
def execModuleRetrain (m : Fin 4) (s : State) : Out :=
  .next (s.whenRuns (fun s =>
    if s.ep.linkUp && m ≠ 0 && s.ep.modules.getLsbD m then
      ({ s with ep := { s.ep with failed := s.ep.failed ||| (1#4 <<< m.val) } } : State).retrainStart
    else s))

/-- HOLD_LIMIT: the oldest held entry has been held for EP_HOLD_LIMIT; the time of a retrain does not count. -/
def execHoldLimit (s : State) : Out :=
  .next (s.whenRuns (fun s =>
    if s.ep.cont = .normal then s else ((s.poisonHeld (fun _ => true)).dropBad.settle)))

/-- A write of EP_CONT_RELEASE with its key while frozen: refused, or the held entries leave or are poisoned (R322, R323). -/
def State.contRelease (s : State) (discard : Bool) : State :=
  if !s.ep.linkUp || bits (s.reg Reg.EP_CONT_STATUS) 3 0 ≠ 0 || !s.purges.isEmpty || s.ideBad then
    s.setFldB Fld.EP_CONT_STATUS_REL_REFUSED true
  else
    let s := s.setCont .releasing
    let s := if discard then (List.range s.ep.hold.length).foldl (fun t _ => t.poisonHeld (fun _ => true)) s else s
    s.drainHold

/-! ### Doorbells (R304, R337, R338, R344) -/

/-- Does an inbound CXL.io request take effect now: the link is up, and nothing that came before it is waited for (R306, R318)? -/
def State.ioHere (s : State) : Bool := s.runs && s.ep.linkUp && !s.linkBusy 1

/-- An inbound CXL.io request that `f` serves in its turn. -/
def State.ioIn (s : State) (c : Instr) (f : State → State) : State := if s.ioHere then f s else s.keepIn c

/-- Unsupported Request and Completer Abort, with what they leave in the Status, Device Status and AER registers (R299, R300; log entry
12). -/
def State.sendUr (s : State) : State := (((s.hostSend .cplUr).cfgStatus 0x78 19).cfgStatus 0x104 20)
def State.sendCa (s : State) : State := (((s.hostSend .cplAbort).cfgStatus 0x04 27).cfgStatus 0x104 15)

/-- A posted write that is an Unsupported Request. -/
def State.postedUr (s : State) : State := (s.cfgStatus 0x78 19).cfgStatus 0x104 20

/-- An inbound posted write that containment refuses (R304). -/
def State.refused (s : State) : State := s.bump Fld.EP_REFUSED_CNT_COUNT 1

/-- A BAR2 write in Service: `f` where it is served. In Vestibule it is discarded; in D3hot and without Memory Space Enable it is an
Unsupported Request, which a posted write leaves in the registers alone. -/
def State.bar2 (s : State) (c : Instr) (f : State → State) : State :=
  s.ioIn c (fun s =>
    if !s.memEnable || s.inD3 then s.postedUr
    else if s.ep.cont = .frozen then s.refused
    else s.whenService f)

/-- DOORBELL: while IDE is required and a stream is not Secure, it is discarded and counted (R455). -/
def execDoorbell (q : Fin 4096) (v : W64) (s : State) : Out :=
  .next (s.bar2 (.doorbell q v) (fun s => if s.ideBad then s.dbBad else s.ring q (v.toNat % 2 ^ 32)))

/-- CQ_CONS: CONS of a completion queue. -/
def execCqCons (q : Fin 4096) (v : W64) (s : State) : Out := .next (s.bar2 (.cqCons q v) (fun s => s.setCons q (v.toNat % 2 ^ 32)))

/-! ### The Gallery aperture (R305) -/

/-- May the host have the `n` bytes at offset `o` of the aperture? -/
def State.bar4Ok (s : State) (o n : Nat) : Bool := o + n ≤ s.tier0W * 256

/-- The canonical addresses of the bytes of an aperture access. -/
def bar4Bytes (o n : Nat) : List Nat := (List.range n).map (fun i => canon (galleryBase + o + i))

/-- BAR4_READ: served from the array (R183); a poisoned sector gives a poisoned completion. -/
def execBar4Read (off : BitVec 31) (size : AccSize) (s : State) : Out :=
  .next (s.ioIn (.bar4Read off size) (fun s =>
    let l := bar4Bytes off.toNat size.bytes
    if s.inD3 || !s.memEnable then s.sendUr
    else if s.ep.cont = .frozen then s.refused.sendCa
    else if !s.inService then s.sendUr
    else if !s.bar4Ok off.toNat size.bytes then s.refused.sendCa
    else if l.any s.hostDenied then ((s.refused).bump Fld.SEC_HOST_DENY_CNT_COUNT 1).sendCa
    else s.hostSend (.cpl (l.map s.byteAt) (l.any s.arrPoison))))

/-- A write through the home agent of bytes at canonical addresses, granule by granule; the Bool says that the home has taken each of them
(R233). -/
def State.homeWrite (s : State) (l : List (Nat × Byte)) : State × Bool :=
  ((l.map (fun b => b.1 / 64 * 64)).eraseDups).foldl (fun (r : State × Bool) g =>
    let t := r.1
    let bs := (l.filter (fun b => b.1 / 64 * 64 == g)).map (fun b => (b.1 % 64, b.2))
    let mask : W64 := bs.foldl (fun m b => m ||| (1#64 <<< b.1)) 0
    let t := if t.compat g then t.homeTake g else t
    let (t, ok) := t.homeAdmit ⟨g, .local_, .wrp, false, false, mask, patchBytes zero64 bs, false⟩
    (t, r.2 && ok)) (s, true)

/-- BAR4_WRITE: coherent, through the home agent. One that finds no entry of the conflict queue waits with what follows it (R233, R306). -/
def execBar4Write (off : BitVec 31) (size : AccSize) (v : W64) (s : State) : Out :=
  .next (s.ioIn (.bar4Write off size v) (fun s =>
    let l := bar4Bytes off.toNat size.bytes
    if s.inD3 || !s.memEnable then s.postedUr
    else if s.ep.cont = .frozen then s.refused
    else if !s.inService then s.postedUr
    else if !s.bar4Ok off.toNat size.bytes then s.refused
    else if l.any s.hostDenied then (s.refused).bump Fld.SEC_HOST_DENY_CNT_COUNT 1
    else
      match s.homeWrite (l.zip (natLe size.bytes v.toNat)) with
      | (t, true) => t.settle
      | (_, false) => s.keepIn (.bar4Write off size v)))

/-! ### Interrupts (R315, R316) -/

/-- Words of the MSI-X table; every vector is masked at reset (log entry 12). -/
def msixReset (k : Nat) : W32 := if k % 4 = 3 then 1 else 0

def State.msixWord (s : State) (k : Nat) : W32 := SMap.get msixReset s.ep.msix k
def State.setMsix (s : State) (k : Nat) (v : W32) : State := { s with ep := { s.ep with msix := SMap.set msixReset s.ep.msix k v } }

/-- The delivery mode: 0 polled, 1 MSI, 2 MSI-X. -/
def State.intMode (s : State) : Nat :=
  if (s.cfgW 0xB0).getLsbD 31 then 2 else if (s.cfgW 0x50).getLsbD 16 then 1 else 0

/-- MSI vectors enabled, as a power of two (Multiple Message Enable). -/
def State.msiN (s : State) : Nat := min (bits (s.cfgW 0x50).toNat 22 20) 5

/-- Is vector `v` masked in the delivery mode? -/
def State.vecMasked (s : State) (v : Nat) : Bool :=
  if s.intMode = 2 then (s.cfgW 0xB0).getLsbD 30 || (s.msixWord (4 * v + 3)).getLsbD 0
  else (s.cfgW 0x60).getLsbD (v % 2 ^ s.msiN)

/-- Can no message be sent now (EP_INT_MODE.BLOCKED)? In polled mode there is none to send, and BLOCKED reads 0 as it does at reset
(DEDUCED, log entry 120). -/
def State.intBlocked (s : State) : Bool := s.intMode != 0 && (!s.busMaster || s.inD3 || s.ep.cont != .normal)

/-- The message of vector `v`. -/
def State.vecMsg (s : State) (v : Nat) : HostMsg :=
  if s.intMode = 2 then
    .msi v (BitVec.ofNat 64 ((s.msixWord (4 * v)).toNat + (s.msixWord (4 * v + 1)).toNat * 2 ^ 32)) (s.msixWord (4 * v + 2))
  else
    let n := s.msiN
    .msi v (BitVec.ofNat 64 ((s.cfgW 0x54).toNat + (s.cfgW 0x58).toNat * 2 ^ 32))
      (BitVec.ofNat 32 ((s.cfgW 0x5C).toNat / 2 ^ n * 2 ^ n + v % 2 ^ n))

/-- VECTOR_DELIVERY: a pending vector that the mode can deliver sends its message. -/
def execVectorDelivery (v : Fin 2048) (s : State) : Out :=
  .next (s.whenRuns (fun s =>
    let f := Fld.EP_INT_PEND_PEND (v.val / 32)
    if (s.fld f).testBit (v.val % 32) && s.intMode ≠ 0 && !s.intBlocked && !s.vecMasked v && s.hostFlows && s.ep.linkUp then
      (s.setFldBit f (v.val % 32) false).hostSend (s.vecMsg v)
    else s))

/-! ### Outbound CXL.io reads (R317) -/

/-- A read has its answer: bytes with poison, or an error; its tag is free. An answer for which nobody waits any more ends it. -/
def State.ioAnswer (s : State) (t : IoTag) (r : Option (List Byte × Bool)) : State :=
  if s.ioAlive t.owner then
    { s with ep := { s.ep with tags := s.ep.tags.map (fun x => if x == t then { x with ans := some r } else x) } }
  else { s with ep := { s.ep with tags := s.ep.tags.erase t } }

/-- The outstanding read with a tag that has left for the host. -/
def State.ioSent (s : State) (tag : Nat) : Option IoTag :=
  if s.ep.hold.any (fun h => match h.msg with | .memRd t _ _ => t == tag && !h.bad | _ => false) then none
  else s.ep.tags.find? (fun t => t.tag == tag && t.ans.isNone)

/-! ### IDE (R325) -/

/-- IDE_KM: within a secured session a stream's key is programmed, or with `secure` the stream is made Secure, which extends H7
by the session's transcript hash (Table 15.5). -/
def execIdeKm (stream : Fin 2) (secure : Bool) (transcript : BitVec 384) (s : State) : Out :=
  .next (s.ioIn (.ideKm stream secure transcript) (fun s =>
    let b : BitVec 2 := 1#2 <<< stream.val
    if s.rot.sess.isEmpty then s
    else if !secure then { s with ep := { s.ep with ideKeys := s.ep.ideKeys ||| b } }
    else if s.ep.ideKeys &&& b = 0 then s
    else ({ s with ep := { s.ep with ideSec := s.ep.ideSec ||| b } } : State).hmExtend 7 0x0031 0 (natBe 48 transcript.toNat)))

end Sys2Proof.Machine
end

