-- ==== Sys2Proof/Machine/Flights.lean ====
section
/-! DEFINITION. Landing entries as every unit sees them: cancelling, jobs and their members, the end of a Clasp transaction that
is bound to a Landing (R398 to R401, R422, R426, R428). -/
namespace Sys2Proof.Machine

/-! ### The state of a Clasp transaction -/

def ClaspSt.code : ClaspSt → Nat
  | .idle => 0 | .opn => 1 | .pending => 2

/-- SET_CLASP_STATE shows the transaction. -/
def State.showClasp (s : State) : State :=
  ((s.setFld Fld.SET_CLASP_STATE_STATE s.clasp.st.code).setFldB Fld.SET_CLASP_STATE_OWNER (s.clasp.owner == .firmware)).setFld
    Fld.SET_CLASP_STATE_RECORDS (min s.clasp.staged.length 4095)

/-- A transaction ends: LAST_ID becomes its ID, and its staging set and staging copies are gone (R427, R428). -/
def State.claspOver (s : State) : State :=
  let id := s.clasp.id
  let busy := s.clasp.busy
  let s := ({ s with clasp := { Clasp.empty with busy := busy } } : State).showClasp
  (s.setFld Fld.SET_CLASP_STATE_LAST_ID id).setFld Fld.SET_PART_STATE_HELD 0

/-- Roll a transaction back (R428). -/
def State.claspRollback (s : State) : State :=
  if s.clasp.st = .idle then s else ((s.hmExtend 4 0x13 s.clasp.id zeros48).bump Fld.SET_ROLLBACK_CNT_COUNT 1).claspOver

/-- The outcome of a command of the transaction, or of its end without one. -/
def State.claspDone (s : State) (result reason detail : Nat) : State :=
  ((((s.setFldB Fld.SET_CLASP_CMD_GO false).setFldB Fld.SET_CLASP_STATUS_DONE true).setFld Fld.SET_CLASP_STATUS_RESULT result).setFld
    Fld.SET_CLASP_STATUS_REASON reason).setFld Fld.SET_CLASP_STATUS_DETAIL detail

/-! ### Entries (R399 to R401) -/

/-- ARMED entries, by partition and index. -/
def State.armed (s : State) : List (Nat × Nat) :=
  (s.flights.filter (fun e => e.2.st == .armed)).map (fun e => (e.1 / 256, e.1 % 256))

/-- Cancel an ARMED entry: its bound actions end with outcome 1 (R400), and a commit bound to it is rolled back (R426). -/
def State.landCancel (s : State) (p i : Nat) : State :=
  let s := s.setFlight p i { s.flight p i with st := .cancelled }
  let s := ((s.bump Fld.NWL_CANCEL_CNT_COUNT 1).lwaitEnd p i 1).landingCancel p i
  if s.clasp.st = .pending && s.clasp.land = some (p, i) then s.claspRollback.claspDone 3 0 0 else s

/-- Cancel the ARMED entries that `f` selects. -/
def State.cancelWhere (s : State) (f : Landing → Bool) : State :=
  (s.armed.filter (fun e => f (s.flight e.1 e.2))).foldl (fun t e => t.landCancel e.1 e.2) s

/-- Pairs of bytes of a list, as numbers. -/
def u16s : Nat → List Byte → List Nat
  | 0, _ => []
  | n + 1, l => if l.length < 2 then [] else at' l 0 2 :: u16s n (l.drop 2)

/-- The members of a job (key 0x0805). -/
def State.jobOf (s : State) (j : Nat) : List Nat := u16s 1024 (s.srec 0x0805 j)

/-- Is a chip lost to this one: cut off, or LEFT (R401)? -/
def State.lostChip (s : State) (c : Nat) : Bool := c != s.chip && ((s.routePort c).isNone || s.left.contains c)

/-- A member of a job is lost: every ARMED entry of the job is cancelled (R401). -/
def State.jobsLost (s : State) : State :=
  s.cancelWhere (fun e => e.job != 0 && (s.jobOf e.job).any s.lostChip)

/-- JOB_CANCEL of a job from JSEQ `q` on (R401). -/
def State.jobCancel (s : State) (j q : Nat) : State :=
  s.cancelWhere (fun e => e.job == j && j != 0 && !(precedes 32 e.jseq.toNat q))

/-- Send a message with 64 bytes of data to every other member of a job. -/
def State.sendJob (s : State) (j opc : Nat) (data : List Byte) : State :=
  ((s.jobOf j).filter (· != s.chip)).foldl (fun t c => t.send (mkMsg opc c t.chip 0 0 0 (patch zero64 0 data))) s

end Sys2Proof.Machine
end

