-- ==== Sys2Proof/Machine/Ports.lean ====
section
/-! DEFINITION. Stairway ports: bring-up, flits and retry, virtual channels, containment, notices of trays, and Newel with its
servo (R379 to R397, R454). -/
namespace Sys2Proof.Machine

/-! ### States (R382, R389) -/

/-- A port enters a state, which its status register shows. -/
def State.portTo (s : State) (p : Nat) (st : PortSt) : State :=
  (s.modPort p (fun q => { q with st := st })).setFld (Fld.STW_PORT_STATUS_STATE p) st.code

/-- A link begins again: what the last one held is gone, its keys with it (R454). -/
def Port.fresh (q : Port) : Port := { Port.empty with st := q.st, nTray := q.nTray, tx := q.tx }

/-- Chips that this chip has traffic with: span members, and targets of buffered stores and windows. -/
def State.portUsers (s : State) (p : Nat) : List Nat :=
  let stores := s.cores.flatMap (fun e => (e.2.sq.filterMap (fun x => s.peerOf x.tgt)) ++ (e.2.mb.filterMap (fun x => s.peerOf x.tgt)))
  let l := (List.range 64).filterMap s.spanChip ++ stores ++ s.winOut.map (·.chip)
  (l.eraseDups).filter (fun c => c != s.chip && s.routePort c == some p)

/-- Buffered stores of a core to a chip. -/
def State.storesTo (s : State) (c chip : Nat) : List Nat :=
  let k := s.core c
  ((k.sq.filter (fun e => s.peerOf e.tgt == some chip)).map (·.id)) ++ ((k.mb.filter (fun e => s.peerOf e.tgt == some chip)).map (·.id))

/-- The chip `c` is out of reach over the port that its route used: its member is silent, copies of its lines are dropped, and
writes that wait for it end, buffered stores where something waits for them (R187, R261, R262, R389). -/
def State.loseChip (s : State) (c : Nat) : State :=
  let writes := s.preqs.filter (fun r => r.gran / 2 ^ 46 == c && (r.op == .wrf || r.op == .wrp))
  let s := match s.spanOf c with
    | some k =>
      let s := ({ s with joined := s.joined.filter (· != k) } : State)
      let s := if s.spanState k = 1 then s.setSpanState k 2 else s
      (s.purgeStart (some k)).dropHomed c k
    | none => s
  let s := s.coreNums.foldl (fun t n => (t.storesTo n c).foldl (fun t id => if t.peerWaited n id then t.dropStore n id else t) t) s
  writes.foldl (fun t r => match r.who with | .store _ _ => t | .merge _ _ => t | w => t.ackWho w .bad) s

/-- The upstream port fails: HOLDOVER at the last rate (R394). -/
def State.holdover (s : State) (p : Nat) : State :=
  let st := s.fld Fld.NWL_STATUS_STATE
  if (st = 1 || st = 2) && s.fld Fld.NWL_STATUS_UPPORT = p then
    ({ s with servo := { s.servo with good := 0, pend := none } } : State).setFld Fld.NWL_STATUS_STATE 3
  else s

/-- A port stops carrying traffic: its queues are dropped, and what followed its routes is lost (R389). -/
def State.portDown (s : State) (p : Nat) (st : PortSt) : State :=
  let was := (s.port p).st
  let users := s.portUsers p
  let s := (s.modPort p Port.fresh).portTo p st
  if was = .up then (users.foldl State.loseChip s).jobsLost.holdover p else s

/-- Does a port have a link, or train for one? -/
def PortSt.live : PortSt → Bool
  | .train => true | .ident => true | .key => true | .up => true | _ => false

/-- A port enters CONTAINED, from any other state, with a cause, numbered from LOSS 0 to KEY 8 (Table 13.1, R389). -/
def State.containPort (s : State) (p cause : Nat) : State :=
  if (s.port p).st = .contained then s
  else ((s.setFldBit (Fld.STW_PORT_STATUS_CAUSE p) cause true).bump Fld.STW_CONTAIN_CNT_COUNT 1).portDown p .contained

/-- Is port `p` enabled by the Setting and not fenced (R382, R487)? -/
def State.portOn (s : State) (p : Nat) : Bool := (s.fld Fld.STW_CFG_PORTS).testBit p && !(s.fence 0x24 1).testBit p

/-- Ports take up what the Setting enables: DOWN and DISABLED ports that are enabled train, others are DISABLED (Table 13.1). -/
def State.portsFollow (s : State) : State :=
  (List.range 8).foldl (fun t p =>
    let st := (t.port p).st
    if t.portOn p then (if st = .down || st = .disabled then (t.modPort p Port.fresh).portTo p .train else t)
    else if st = .disabled then t else t.portDown p .disabled) s

/-! ### Bring-up (R382, R383, R454) -/

/-- TRAINING_COMPLETE: TRAIN to IDENT. -/
def execTrainingComplete (p : Fin 8) (s : State) : Out :=
  .next (s.whenRuns (fun s =>
    if (s.port p).st = .train && s.aon.serdesOk then (s.modPort p Port.fresh).portTo p .ident else s))

/-- PORT_STATE_TIMEOUT: the time limit of TRAIN, IDENT or KEY. -/
def execPortStateTimeout (p : Fin 8) (s : State) : Out :=
  .next (s.whenRuns (fun s =>
    match (s.port p).st with
    | .train => s.containPort p 0
    | .ident => s.containPort p 4
    | .key => s.containPort p 8
    | _ => s))

/-- The pseudo-random key of a link: from Z, which the link agreement key gives with the neighbour link key of record 0x0904, and the
stamps of the first IDENT flits with ACKED, that of the lower chip number first (R454). -/
def State.linkPrk (s : State) (p : Nat) : List Byte :=
  let q := s.port p
  let own := natLe 8 (q.ownN.getD 0).toNat
  let peer := natLe 8 (q.peerN.getD 0).toNat
  hkdfExtract (if s.chip < s.fld (Fld.STW_PORT_STATUS_NCHIP p) then own ++ peer else peer ++ own) (Config.linkZ (s.srec 0x0904 p))

/-- The info of the keys of port `p`'s sending direction, without the epoch: "PL14 stw", the Stairwell, sender chip and port, receiver
chip (R454). -/
def State.linkInfo (s : State) (p : Nat) : List Byte :=
  [0x50, 0x4C, 0x31, 0x34, 0x20, 0x73, 0x74, 0x77] ++ natLe 4 (s.snat 0x0102 0) ++ natLe 2 s.chip ++ natLe 1 p ++ natLe 2 (s.fld (Fld.STW_PORT_STATUS_NCHIP p))

/-- Both sides have sent and received ACKED: the port enters KEY, and the keys of epoch 1 are derived. -/
def State.identEnd (s : State) (p : Nat) : State :=
  let q := s.port p
  if q.st = .ident && q.matched && q.sentAck && q.rxAck then
    (s.setPort p { q with epoch := 1, prk := s.linkPrk p, info := s.linkInfo p }).portTo p .key
  else s

/-- The IDENT flit that port `p` sends (Tables 13.2 and 13.3): TYPE 3, the payload with 256 credits for each virtual channel, and the
CRC-32 in the first bytes of the tag. -/
def State.identFlit (s : State) (p : Nat) (acked : Bool) : List Byte :=
  let b := natLe 2 3 ++ natLe 4 (s.snat 0x0102 0) ++ natLe 2 s.chip ++ natLe 1 (p + if acked then 128 else 0) ++ natLe 2 (s.fld Fld.STW_CFG_TRAY) ++
    natLe 2 0x0102 ++ (List.replicate 6 (natLe 2 256)).flatten ++ natLe 8 s.aon.newel.toNat ++ List.replicate 211 0
  b ++ natLe 4 (crc32 b).toNat ++ List.replicate 8 0

/-- IDENT_SEND: an IDENT flit leaves, with ACKED once a match has come. -/
def execIdentSend (p : Fin 8) (s : State) : Out :=
  .next (s.whenRuns (fun s =>
    let q := s.port p
    if q.st = .ident then
      (s.setPort p { q with
        tx := q.tx ++ [s.identFlit p q.matched], sentAck := q.matched,
        ownN := if q.matched && q.ownN.isNone then some s.aon.newel else q.ownN }).identEnd p
    else s))

/-! #### Newel (R393 to R397) -/

/-- Root candidates (key 0x0803). -/
def State.roots (s : State) : List Nat := (u16s 4 (s.srec 0x0803 0)).filter (· != 0xFFFF)

/-- The root: the first candidate that is neither cut off nor LEFT. -/
def State.root (s : State) : Option Nat := s.roots.find? (fun c => c == s.chip || !s.lostChip c)

/-- The upstream port of a chip that is not the root. -/
def State.upPort (s : State) : Option Nat :=
  match s.root with
  | some r => if r = s.chip then none else s.routePort r
  | none => none

/-- NWL_STATUS shows root, upstream port and depth. A root that does not follow PTP, and a chip whose Setting names no root, follow no
upstream: they are free-running, at the rate of refclk_host (R393). -/
def State.showRoot (s : State) : State :=
  let me := s.root == some s.chip
  let s := s.setFldB Fld.NWL_STATUS_ROOT me
  let ptp := me && s.fldB Fld.ETH_CFG_PTP_EN && s.fldB Fld.NWL_STATUS_PTP
  let s := if ptp then s else s.setFldB Fld.NWL_STATUS_PTP false
  let s : State := if s.roots.isEmpty || (me && !ptp) then
    { s.setFld Fld.NWL_STATUS_STATE 0 with servo := { s.servo with rate := 0 } } else s
  match s.upPort, s.root with
  | some p, some r => (s.setFld Fld.NWL_STATUS_UPPORT p).setFld Fld.NWL_STATUS_DEPTH (s.hopsVia p r % 16)
  | _, _ => (s.setFld Fld.NWL_STATUS_DEPTH 0)

/-- An offset saturated to 16 bits (NWL_STATUS.OFFSET). -/
def sat16 (off : Int) : Nat := wrapInt 16 (max (-32768) (min 32767 off))

/-- Newel moves by an offset: a step beyond 1 µs where no Landing is armed, and the limit of 100 ppm where one is; else a rate within
±100 ppm that drives the offset to zero, which the servo leaves open (R394, R395). -/
def State.steer (s : State) (off : Int) : State :=
  let s := s.setFld Fld.NWL_STATUS_OFFSET (sat16 off)
  if off.natAbs > 1000 && s.armed.isEmpty then
    ({ s with aon := { s.aon with newel := BitVec.ofNat 64 (wrapInt 64 (s.aon.newel.toNat + off)) } } : State).setFldB Fld.NWL_STATUS_STEPPED true
  else
    let (s, n) := s.takeFree
    let ppm : Int := if off.natAbs > 1000 then 100 else (Config.freeByte n).toNat % 101
    { s with servo := { s.servo with rate := if off > 0 then ppm else if off < 0 then -ppm else s.servo.rate } }

/-- TIME_EXCHANGE: TIME_REQ goes upstream; its stamp T1 is taken as it leaves. -/
def execTimeExchange (s : State) : Out :=
  .next (s.whenRuns (fun s =>
    let s := s.showRoot
    match s.upPort with
    | some p =>
      let s : State := { s with servo := { s.servo with pend := some p } }
      s.putPort p (mkMsg 0x60 (s.fld (Fld.STW_PORT_STATUS_NCHIP p)) s.chip 0 0 0 zero64)
    | none => s))

/-- TIME_REQ: answered with T1 and the stamp T2 of its arrival; the answer takes its stamp T3 as it leaves. -/
def execTimeReq (p : Fin 8) (src : BitVec 10) (t1 : W64) (s : State) : Out :=
  .next (s.whenRuns (fun s =>
    if (s.port p).st = .up then
      s.putPort p (mkMsg 0x61 src.toNat s.chip 0 0 0 (natLe 8 t1.toNat ++ natLe 8 s.aon.newel.toNat ++ List.replicate 48 0))
    else s))

/-- An exchange gives an offset: the count of good ones and the state follow (R394). -/
def State.exchange (s : State) (off : Int) : State :=
  let st := s.fld Fld.NWL_STATUS_STATE
  let good := if off.natAbs ≤ 1 then min (s.servo.good + 1) 16 else 0
  let st' := if st = 2 then (if off.natAbs > 3 then 1 else 2) else if good ≥ 16 then 2 else 1
  let s := ({ s with servo := { s.servo with good := if st' = 1 && st = 2 then 0 else good, pend := none } } : State).setFld Fld.NWL_STATUS_STATE st'
  s.steer off

/-- The division of R394 truncates toward zero. -/
def half (x : Int) : Int := x.tdiv 2

/-- TIME_RSP: the answer to the exchange in progress. -/
def execTimeRsp (p : Fin 8) (t1 t2 t3 t4 : W64) (s : State) : Out :=
  .next (s.whenRuns (fun s =>
    if s.servo.pend = some p.val && (s.port p).t1 = some t1 && (s.port p).st = .up then
      let d := fun (a b : W64) => sext 64 (a - b).toNat
      let asym := sext 32 (s.snat 0x0804 p)
      s.exchange (half (d t2 t1 - d t4 t3) - asym)
    else s))

def State.modPtp (s : State) (f : PtpSlave → PtpSlave) : State := { s with servo := { s.servo with ptp := f s.servo.ptp } }

/-- A whole Sync, which left at `t1` and arrived at `t2`: the slave sends its Delay_Req, to the PTP multicast group over UDP/IPv6
(IEEE 1588-2019, Annex E; R397). -/
def State.ptpSynced (s : State) (port : Nat) (t1 t2 : W64) : State :=
  let n := s.servo.ptp.next
  let s := s.modPtp (fun c => { c with sync := none, pair := some (t1, t2), dreq := some (n, s.aon.newel), next := n + 1 })
  s.ethSend port [] ([0xFF, 0x0E] ++ List.replicate 12 0 ++ [0x01, 0x81]) 319 319 (Config.ptpDelayReq (at' (s.srec 0x0705 0) 2 1) n)

/-- PTP_MESSAGE: the root follows its grandmaster by the end-to-end delay mechanism, in the Setting's domain: a Sync gives t1 and t2, the
Delay_Req that follows it leaves at t3, and its answer carries t4 (R397). A message on a port without the role is dropped (R407). -/
def execPtpMessage (port : Fin 16) (offset : PtpMsg) (s : State) : Out :=
  .next (s.whenRuns (fun s =>
    let c := s.servo.ptp
    let now := s.aon.newel
    let mine := fun (d : Byte) => d.toNat == at' (s.srec 0x0705 0) 2 1
    if !(s.ethPort port).link then s
    else if !s.fldB Fld.ETH_CFG_PTP_EN || s.fld Fld.ETH_CFG_PTP_PORT ≠ port then s.ethDrop
    else if s.root ≠ some s.chip then s
    else
      match offset with
      | .sync d seq t1 =>
        if !mine d then s
        else
          match t1 with
          | some t1 => s.ptpSynced port t1 now
          | none => s.modPtp (fun c => { c with sync := some (seq, now) })
      | .followUp d seq t1 =>
        match c.sync with
        | some (n, t2) => if mine d && n = seq then s.ptpSynced port t1 t2 else s
        | none => s
      | .delayResp d seq t4 =>
        match c.dreq, c.pair with
        | some (n, t3), some (t1, t2) =>
          if mine d && n = seq then
            let diff := fun (a b : W64) => sext 64 (a - b).toNat
            ((s.modPtp (fun c => { c with dreq := none })).setFldB Fld.NWL_STATUS_PTP true).showRoot.steer (half (diff t4 t3 - diff t2 t1))
          else s
        | _, _ => s))

/-- A joining chip steps its Newel in IDENT (R392, R395): the port is on the route to the root, and no port of the route is UP. -/
def State.identTime (s : State) (p : Nat) (d : IdentPayload) : State :=
  match s.root, s.roots.find? (fun c => c != s.chip && !(s.left.contains c) && (s.route c).contains p) with
  | none, some _ =>
    let off := sext 64 (d.newel - d.arrival).toNat
    if off.natAbs > 1000 && s.armed.isEmpty then s.steer off else s
  | _, _ => s

/-- IDENT: a received IDENT flit is matched against the expected neighbour. -/
def execIdent (p : Fin 8) (d : IdentPayload) (s : State) : Out :=
  .next (s.whenRuns (fun s =>
    let q := s.port p
    if q.st ≠ .ident || !d.crcOk then s
    else
      let r := s.srec 0x0702 p
      let ok := d.stairwell.toNat == s.snat 0x0102 0 && r.length ≥ 3 && d.chip.toNat == at' r 0 2 && d.port.toNat == at' r 2 1 && d.major == 1
      let cr := if q.heard then q.credits else (d.credits.zipIdx.map (fun c => (c.2, c.1))).filter (fun c => c.2 != 0 && c.1 < 6)
      let s := s.setPort p { q with heard := true, credits := cr, nTray := some d.tray, matched := q.matched || ok, rxAck := q.rxAck || (ok && d.acked), peerN := if ok && d.acked && q.peerN.isNone then some d.newel else q.peerN }
      let s := (s.setFld (Fld.STW_PORT_STATUS_NCHIP p) d.chip.toNat).setFld (Fld.STW_PORT_STATUS_NPORT p) d.port.toNat
      (if ok then s.identTime p d else s).identEnd p))

/-- KEYSWITCH_SEND: in KEY a KEYSWITCH flit of padding leaves under epoch 1. -/
def execKeyswitchSend (p : Fin 8) (s : State) : Out :=
  .next (s.whenRuns (fun s => if (s.port p).st = .key then s.modPort p (fun q => q.emit s.aon.newel true []) else s))

/-- The port enters UP: H6 is extended by the neighbour's link key, and SILENT members within reach again get a JOIN (R390). -/
def State.portUp (s : State) (p : Nat) : State :=
  let s := (s.portTo p .up).hmExtend 6 0x0030 p (sha384 (s.srec 0x0904 p))
  let s := s.modPort p (fun q => q.pump s.aon.newel)
  (List.range 64).foldl (fun t k => t.sendJoin k) s

/-- A bad or unexpected flit with sequence number `seq` is discarded: NAK once with the SEQ expected, and then every flit until it
arrives; where it arrives and fails, NAK again (R388). -/
def State.flitBad (s : State) (p : Nat) (seq : BitVec 12) : State :=
  s.modPort p (fun q => if q.naking && seq != q.rxSeq then q else ({ q with naking := true } : Port).link s.aon.newel (.nak q.rxSeq))

/-- A flit that fails its check is discarded; a failure of its tag is counted (R384, R388). -/
def State.flitFail (s : State) (p : Nat) (seq : BitVec 12) (c : FlitCheck) : State :=
  (if c = .tag then s.bump Fld.STW_TAG_FAIL_CNT_COUNT 1 else s).flitBad p seq

/-- An ACK leaves with the last in-order SEQ. -/
def Port.sendAck (q : Port) (now : W64) : Port := ({ q with unacked := 0 } : Port).link now (.ack (q.rxSeq - 1))

/-- A flit is accepted in its order; after 64 the receiver sends an ACK. -/
def State.flitOk (s : State) (p : Nat) : State :=
  s.modPort p (fun q =>
    let q := { q with rxSeq := q.rxSeq + 1, naking := false, unacked := q.unacked + 1 }
    if q.unacked ≥ 64 then q.sendAck s.aon.newel else q)

/-- KEYSWITCH: in KEY one that authenticates under epoch 1 installs it and brings the port UP; in UP it switches the receiver's epoch. One
under an epoch that the receiver does not go to fails its tag (R385, R388, R454). -/
def execKeyswitch (p : Fin 8) (seq : BitVec 12) (epoch : W32) (authentic : FlitCheck) (s : State) : Out :=
  .next (s.whenRuns (fun s =>
    let q := s.port p
    if q.st ≠ .key && q.st ≠ .up then s
    else if authentic ≠ .good then s.flitFail p seq authentic
    else if (if q.st = .key then epoch ≠ 1 else epoch.toNat < q.rxEpoch.toNat) then s.flitFail p seq .tag
    else if seq ≠ q.rxSeq then s.flitBad p seq
    else
      let t := (s.setPort p { q with rxEpoch := epoch }).flitOk p
      if q.st = .key then t.portUp p else t))

/-- KEY_ROLLOVER: a new epoch is installed for sending, and its first flit is a KEYSWITCH (R385, R454). -/
def execKeyRollover (p : Fin 8) (s : State) : Out :=
  .next (s.whenRuns (fun s =>
    if (s.port p).st = .up then
      (s.modPort p (fun q => ({ q with epoch := q.epoch + 1 } : Port).emit s.aon.newel true [])).bump Fld.SEC_LINK_REKEY_CNT_COUNT 1
    else s))

/-- KEY_FLIT_LIMIT: 2^48 flits under one key. -/
def execKeyFlitLimit (p : Fin 8) (s : State) : Out :=
  .next (s.whenRuns (fun s => if (s.port p).st = .up then s.containPort p 8 else s))

/-! ### Flits and messages (R386 to R388) -/

/-- A message that arrived on port `p`: for this chip, forwarded with one hop less, or discarded (R381, R386). TIME messages are
taken by the commands that carry their stamps. -/
def State.arrive (s : State) (p : Nat) (m : Msg) : State :=
  let drop := fun (t : State) => (t.unitErr 0x18 1 5 p m.addr.toNat m.opc.toNat none).creditBack p m
  if !opcodeOk m.opc.toNat then drop s
  else if m.dst.toNat = s.chip then
    if m.opc = 0x60 || m.opc = 0x61 then s.creditBack p m else { s with inbox := s.inbox ++ [(p, m)] }
  else if m.hops = 0 then drop (s.bump Fld.STW_DISCARD_CNT_COUNT 1)
  else (s.send { m with hops := m.hops - 1 }).creditBack p m

/-- NORMAL_FLIT: checked in SEQ order, in KEY too; an UP port takes its routed messages (R382, R388). The link-local messages of a flit
are commands of their own. -/
def execNormalFlit (p : Fin 8) (seq : BitVec 12) (authentic : FlitCheck) (msgs : List Msg) (s : State) : Out :=
  .next (s.whenRuns (fun s =>
    let q := s.port p
    if q.st ≠ .key && q.st ≠ .up then s
    else if authentic ≠ .good then s.flitFail p seq authentic
    else if seq ≠ q.rxSeq then s.flitBad p seq
    else if q.st = .key then s.flitOk p
    else msgs.foldl (fun t m => t.arrive p m) (s.flitOk p)))

/-- How many flits of the replay buffer an acknowledged SEQ covers. -/
def Port.covered (q : Port) (seq : BitVec 12) : Nat :=
  match q.replay.findIdx? (fun f => f.seq == seq) with
  | some i => i + 1
  | none => 0

/-- ACK: flits up to a SEQ leave the replay buffer. -/
def execAck (p : Fin 8) (seq : BitVec 12) (s : State) : Out :=
  .next (s.whenRuns (fun s =>
    let q := s.port p
    if (q.st = .up || q.st = .key) && q.covered seq > 0 then
      s.setPort p (({ q with replay := q.replay.drop (q.covered seq), nakCnt := 0 } : Port).pump s.aon.newel)
    else s))

/-- NAK: flits from a SEQ on are replayed; the eighth in a row for one SEQ contains the port with cause REPLAY. -/
def execNak (p : Fin 8) (seq : BitVec 12) (s : State) : Out :=
  .next (s.whenRuns (fun s =>
    let q := s.port p
    if q.st ≠ .up && q.st ≠ .key then s
    else
      let n := if q.nakCnt > 0 && q.nakSeq = seq then q.nakCnt + 1 else 1
      if n ≥ 8 then s.containPort p 2
      else
        let rest := q.replay.drop (q.covered (seq - 1))
        (s.setPort p (({ q with nakSeq := seq, nakCnt := n, replay := rest } : Port).resend rest)).bump Fld.STW_REPLAY_CNT_COUNT 1))

/-- CREDIT: credits of a virtual channel return. -/
def execCredit (p : Fin 8) (vc : Fin 6) (count : W16) (s : State) : Out :=
  .next (s.whenRuns (fun s =>
    if (s.port p).st = .up then
      s.modPort p (fun q => ({ q with credits := SMap.set noCredit q.credits vc (SMap.get noCredit q.credits vc + count.toNat) } : Port).pump s.aon.newel)
    else s))

/-- ACK_TIMER: 500 ns have passed since a flit that is not acknowledged. -/
def execAckTimer (p : Fin 8) (s : State) : Out :=
  .next (s.whenRuns (fun s => if (s.port p).st = .up && (s.port p).unacked > 0 then s.modPort p (fun q => q.sendAck s.aon.newel) else s))

/-- SILENT: no valid flit for 2 µs. -/
def execSilent (p : Fin 8) (s : State) : Out :=
  .next (s.whenRuns (fun s => if (s.port p).st = .up then s.containPort p 1 else s))

/-- STALL: a virtual channel with waiting traffic has had no credit for 1 ms. -/
def execStall (p : Fin 8) (vc : Fin 6) (s : State) : Out :=
  .next (s.whenRuns (fun s =>
    if (s.port p).st = .up && (s.port p).queue.any (fun m => vcOf m.opc.toNat == vc.val) then s.containPort p 3 else s))

/-- LOSS: signal or FEC lock is lost for more than 1 µs, by a port that has it. -/
def execLoss (p : Fin 8) (s : State) : Out :=
  .next (s.whenRuns (fun s => if (s.port p).st.live && (s.port p).st ≠ .train then s.containPort p 0 else s))

/-- REFCLK_SERDES_LOSS: every Stairway and Ethernet port loses its link (R31), during a warm reset too, which leaves them UP. While the
fast clocks are off no port carries traffic, and only the loss itself is noted. -/
def execRefclkSerdesLoss (s : State) : Out :=
  .next (if !s.aon.vdd || s.aon.cold then s
  else
    let s : State := { s with aon := { s.aon with serdesOk := false } }
    if !s.aon.fast then s
    else
      let s := (List.range 8).foldl (fun t p => if (t.port p).st.live then t.containPort p 0 else t) s
      (List.range 16).foldl (fun t p =>
        (t.setEth p { t.ethPort p with link := false }).setFldB (Fld.ETH_PORT_STATUS_LINK p) false) s)

/-! ### Notices of trays (R391, R392) -/

/-- LEAVE goes to the neighbour of every UP port. -/
def State.floodLeave (s : State) (tray origin : Nat) (cause : Byte) : State :=
  (List.range 8).foldl (fun t p =>
    if (t.port p).st = .up then
      let m := mkMsg 0x65 (t.fld (Fld.STW_PORT_STATUS_NCHIP p)) t.chip 0 0 0
        (natLe 2 tray ++ natLe 2 origin ++ [cause] ++ List.replicate 59 0)
      t.putPort p m
    else t) s

/-- Mark a chip as LEFT. -/
def State.markLeft (s : State) (c : Nat) : State :=
  if s.left.contains c then s
  else
    let s : State := { s with left := s.left ++ [c] }
    match s.spanOf c with
    | some k => if c = s.chip then s else s.setSpanState k 3
    | none => s

/-- A tray leaves: the notice is flooded once, its chips are marked, the ports that face it are contained, and Landings of its
jobs cancelled. `gasp`: the port on which its LAST_GASP came. The chips that are known to lie in it are the origin and the
neighbours whose IDENT named it; a port faces the tray where its neighbour, or the one that the Setting expects, is one of these (R391,
Table 13.11; log entry 54). -/
def State.trayLeaves (s : State) (tray origin : Nat) (cause : Byte) (gasp : Option Nat) : State :=
  if s.leaves.contains (tray, origin) then
    (match gasp with | some p => s.containPort p 5 | none => s)
  else
    let s := ({ s with leaves := s.leaves ++ [(tray, origin)] } : State).bump Fld.STW_LEAVE_CNT_COUNT 1
    let s := s.floodLeave tray origin cause
    let own := tray == s.fld Fld.STW_CFG_TRAY
    let named := (List.range 8).filter (fun p => (s.port p).nTray == some (BitVec.ofNat 16 tray))
    let chips := named.map (fun p => s.fld (Fld.STW_PORT_STATUS_NCHIP p)) ++ [origin]
    let expects := fun (p : Nat) => let r := s.srec 0x0702 p; r.length ≥ 3 && chips.contains (at' r 0 2)
    let facing := (List.range 8).filter (fun p => own || ((named.contains p || expects p) && (s.port p).st != .down && (s.port p).st != .disabled))
    let s := match gasp with | some p => s.containPort p 5 | none => s
    let s := facing.foldl (fun t p => t.containPort p 6) s
    let s := if own then s else chips.foldl State.markLeft s
    s.jobsLost

/-- Take a message that came on port `p`. -/
def State.takeFrom (s : State) (p : Nat) (m : Msg) (opc : Nat) : Option State :=
  if s.inbox.any (fun e => e.1 == p && e.2 == m) then s.takeMsg m opc else none

/-- LAST_GASP: the neighbour's tray stops. -/
def execLastGasp (p : Fin 8) (m : Msg) (s : State) : Out :=
  .next (s.whenRuns (fun s =>
    match s.takeFrom p m 0x64 with
    | some s => s.trayLeaves (at' m.data 0 2) m.src.toNat (m.data.getD 2 0) (some p)
    | none => s))

/-- LEAVE: a notice not seen before. -/
def execLeave (p : Fin 8) (m : Msg) (s : State) : Out :=
  .next (s.whenRuns (fun s =>
    match s.takeFrom p m 0x65 with
    | some s => s.trayLeaves (at' m.data 0 2) (at' m.data 2 2) (m.data.getD 4 0) none
    | none => s))

/-- JOIN: a SILENT member is ACTIVE again, at the end of its walk (R390). -/
def execJoin (m : Msg) (s : State) : Out :=
  .next (s.serveMsg m 0x66 (fun s =>
    let k := at' m.data 0 1
    if s.spanChip k = some m.src.toNat && s.spanState k = 2 then
      some (({ s with joined := if s.joined.contains k then s.joined else s.joined ++ [k] } : State).joinEnd k)
    else some s))

/-- MAIL: handed to control-core firmware, which is not part of this model. -/
def execMail (m : Msg) (s : State) : Out := .next (s.serveMsg m 0x67 some)

/-- GO of STW_PORT_CMD: retrain, contain, disable or leave (R389 to R391). -/
def State.portGo (s : State) (p : Nat) : State :=
  let op := s.fld (Fld.STW_PORT_CMD_OP p)
  let s := s.setFldB (Fld.STW_PORT_CMD_GO p) false
  match op with
  | 0 =>
    if s.fld (Fld.STW_PORT_STATUS_CAUSE p) ≠ 0 || !s.purges.isEmpty then s.setFldB (Fld.STW_PORT_CMD_REFUSED p) true
    else if (s.port p).st = .contained then (s.modPort p Port.fresh).portTo p .train
    else s
  | 1 => s.containPort p 7
  | 2 => s.portDown p .disabled
  | _ => s.lastGasp

/-! ### Ethernet (R407, R408, R478) -/

/-- Ports that a mode forms in a half, by its row of Table 01.5; none where the Setting has no mode for it or the half is fenced. -/
def State.ethCount (s : State) (h : Nat) : Nat :=
  match s.srec 0x0703 h with
  | [] => 0
  | b :: _ =>
    if (s.fence 0x25 1).testBit h then 0
    else match b.toNat with | 0 => 1 | 1 => 2 | 2 => 4 | 3 => 8 | 4 => 8 | _ => 0

def State.ethExists (s : State) (p : Nat) : Bool := p % 8 < s.ethCount (p / 8)

/-- The ports of a half go down, and those that its mode forms exist. -/
def State.ethHalf (s : State) (h : Nat) : State :=
  (List.range 8).foldl (fun t i =>
    let p := 8 * h + i
    ((t.setEth p { t.ethPort p with link := false }).setFldB (Fld.ETH_PORT_STATUS_LINK p) false).setFldB
      (Fld.ETH_PORT_STATUS_EXISTS p) (t.ethExists p)) s

/-- ETHERNET_LINK_UP: a port that exists gains link. -/
def execEthernetLinkUp (port : Fin 16) (s : State) : Out :=
  .next (s.whenRuns (fun s =>
    if s.inService && s.ethExists port && s.aon.serdesOk then
      (s.setEth port { s.ethPort port with link := true }).setFldB (Fld.ETH_PORT_STATUS_LINK port) true
    else s))

/-- ETHERNET_LINK_DOWN: a port loses link. -/
def execEthernetLinkDown (port : Fin 16) (s : State) : Out :=
  .next (s.whenRuns (fun s =>
    (s.setEth port { s.ethPort port with link := false }).setFldB (Fld.ETH_PORT_STATUS_LINK port) false))

/-- The IPv6 address of a port (key 0x0704), the first byte first. -/
def State.ethAddr (s : State) (p : Nat) : List Byte := s.srec 0x0704 p

/-- The MAC address of a port (R407). -/
def ethMac (p : Nat) : List Byte := natBe 6 (Config.macBase.toNat + p)

/-- NEIGHBOR_SOLICITATION: answered for the port's own address, with its MAC address; else dropped. -/
def execNeighborSolicitation (port : Fin 16) (target src : BitVec 128) (s : State) : Out :=
  .next (s.whenRuns (fun s =>
    if !(s.ethPort port).link then s
    else if natBe 16 target.toNat ≠ s.ethAddr port then s.ethDrop
    else s.ethSend port [] (natBe 16 src.toNat) 0 0
      ([136, 0] ++ natBe 2 0 ++ natBe 4 0x60000000 ++ natBe 16 target.toNat ++ [2, 1] ++ ethMac port)))

/-- The bytes of an echo's frame beside those that it carries back: Ethernet header and check, IPv6 header, ICMPv6 type, code and
checksum; and the longest frame that the chip sends (R407). -/
def echoHead : Nat := 14 + 4 + 40 + 4
def maxFrame : Nat := 4226

/-- ECHO_REQUEST: answered with the same bytes; one whose answer would exceed the longest frame is dropped (R407; DEDUCED, log entry 57). -/
def execEchoRequest (port : Fin 16) (src : BitVec 128) (bytes : List Byte) (s : State) : Out :=
  .next (s.whenRuns (fun s =>
    if !(s.ethPort port).link then s
    else if bytes.length + echoHead > maxFrame then s.ethDrop
    else s.ethSend port [] (natBe 16 src.toNat) 0 0 ([129, 0] ++ natBe 2 0 ++ bytes)))

/-- FRAME_DROP: any other received frame. -/
def execFrameDrop (port : Fin 16) (s : State) : Out :=
  .next (s.whenRuns (fun s => if (s.ethPort port).link then s.ethDrop else s))

/-! ### Telemetry (R478) -/

/-- The hottest sensor and its temperature; the lowest number among equals. -/
def State.hottest (s : State) : Nat × Int :=
  (List.range 408).foldl (fun b n => let t := SMap.get zeroInt s.pwr.temps n; if t > b.2 then (n, t) else b) (0, SMap.get zeroInt s.pwr.temps 0)

/-- Awake tiles. -/
def State.awake (s : State) : List Nat := (List.range 256).filter (fun c => (s.core c).sleep == .active || (s.core c).sleep == .idle)

/-- The 64 bytes of Table 16.7. -/
def State.telemetry (s : State) : List Byte :=
  let w := s.pwr.sample
  let clk := s.awake.map s.coreClock
  let low := clk.foldl min (clk.headD 0)
  let mean := if clk.isEmpty then 0 else clk.sum / clk.length
  let flag := fun (b : Bool) (i : Nat) => if b then 2 ^ i else 0
  let flags := flag (s.fldB Fld.PWR_STATUS_BINDING) 0 + flag (s.fldB Fld.PWR_STATUS_FAST) 1 + flag (s.pwr.noFloor != 0) 2 + flag s.aon.fast 3
  natLe 8 s.aon.newel.toNat ++ natLe 8 (s.reg Reg.PWR_ENERGY_TOTAL) ++
    natLe 2 w.avg1ms ++ natLe 2 s.cap ++ natLe 2 w.compute ++ natLe 2 w.memory ++
    natLe 2 w.links ++ natLe 2 w.hbm ++ natLe 2 w.other ++ natLe 2 flags ++
    natLe 1 (wrapInt 8 s.hottest.2) ++ natLe 1 (s.topStep 0 256) ++ natLe 1 s.fabStep ++ natLe 1 s.galStep ++ natLe 2 s.hottest.1 ++ natLe 2 0 ++
    natLe 2 low ++ natLe 2 mean ++ natLe 2 s.fabClock ++ natLe 2 s.galClock ++
    ((List.range 8).flatMap (fun k => natLe 1 (if (s.fld Fld.L2C_CFG_HBM_MASK).testBit k then SMap.get zeroNat s.pwr.hbmT k else 0))) ++
    natLe 4 s.pwr.droops ++ natLe 4 0

/-- TELEMETRY: a period has passed, and a datagram goes to the endpoint entry, where it is valid for SRT. Its source port is left
open. -/
def execTelemetry (s : State) : Out :=
  .next (s.whenService (fun s =>
    let e := s.loadRun (s.fld Fld.ETH_EP_BASE_BASE + 64 * s.fld Fld.ETH_CFG_TELEM_EP) 64
    if s.fld Fld.PWR_TELEM_CTL_PERIOD = 0 || at' e 0 1 % 4 ≠ 3 then s
    else
      match s.epPort e with
      | none => s
      | some p =>
        let (s, n) := s.takeFree
        let s := s.ethSend p (epTag e) (epAddr e) (srtUdp e) ((Config.freeW32 n).toNat % 2 ^ 16)
          (srtHead 4 0 s.pwr.telemN Config.serial.toNat 0 64 0 ++ s.telemetry)
        s.modPwr (fun w => { w with telemN := (w.telemN + 1) % 2 ^ 32, droops := 0 })))

end Sys2Proof.Machine
end

