-- ==== Sys2Proof/Machine/Setting.lean ====
section
/-! DEFINITION. The form of a Setting image, the ranges and classes of its keys, and the mode rules (R413 to R417, R431, R439,
R457). -/
namespace Sys2Proof.Machine

/-! ### Keys (Tables 14.3 and 15.3) -/

/-- Field classes (Table 14.2). -/
inductive KCls where
  | structural | quiescent | staged | live
  deriving DecidableEq, Repr

/-- A key: how many values its INDEX takes (`none`: it has no index), its class, and the lengths of its value. -/
structure KeyRow where
  key : Nat
  idx : Option Nat
  cls : KCls
  /-- The value is `n` units of `unit` bytes, with `lo ≤ n ≤ hi`. -/
  unit : Nat
  lo   : Nat
  hi   : Nat
  deriving DecidableEq, Repr

def keyRows : List KeyRow := [
  ⟨0x0101, none, .structural, 2, 1, 1⟩, ⟨0x0102, none, .structural, 4, 1, 1⟩, ⟨0x0103, none, .structural, 2, 1, 1⟩,
  ⟨0x0104, none, .structural, 1, 1, 1⟩, ⟨0x0201, none, .structural, 1, 1, 1⟩, ⟨0x0202, none, .structural, 1, 1, 1⟩,
  ⟨0x0203, none, .structural, 2, 1, 1⟩, ⟨0x0204, none, .quiescent, 1, 1, 1⟩, ⟨0x0205, none, .structural, 8, 1, 1⟩,
  ⟨0x0206, none, .structural, 8, 1, 1⟩, ⟨0x0207, none, .structural, 8, 1, 1⟩, ⟨0x0208, none, .structural, 8, 1, 1⟩,
  ⟨0x0209, some 256, .structural, 8, 1, 1⟩, ⟨0x0301, some 16, .quiescent, 32, 1, 1⟩, ⟨0x0302, some 16, .quiescent, 16, 0, 16⟩,
  ⟨0x0303, some 16, .quiescent, 16, 1, 1⟩, ⟨0x0304, some 16, .staged, 2, 1, 1⟩, ⟨0x0305, some 16, .staged, 1, 1, 1⟩,
  ⟨0x0306, some 16, .quiescent, 1, 1, 1⟩, ⟨0x0307, some 16, .staged, 4, 1, 1⟩, ⟨0x0308, some 16, .staged, 1, 1, 1⟩,
  ⟨0x0309, some 16, .staged, 1, 1, 1⟩, ⟨0x030A, some 16, .quiescent, 4, 1, 1⟩, ⟨0x030B, some 16, .quiescent, 2, 1, 1⟩,
  ⟨0x030C, some 16, .quiescent, 18, 0, 16⟩, ⟨0x0401, some 16, .staged, 38, 1, 1⟩, ⟨0x0501, some 16, .staged, 8, 1, 1⟩,
  ⟨0x0502, none, .staged, 8, 1, 1⟩, ⟨0x0503, some 16, .structural, 8, 1, 1⟩, ⟨0x0601, none, .staged, 1, 1, 1⟩,
  ⟨0x0602, none, .live, 2, 1, 1⟩, ⟨0x0701, none, .staged, 1, 1, 1⟩, ⟨0x0702, some 8, .staged, 3, 1, 1⟩,
  ⟨0x0703, some 2, .staged, 1, 1, 1⟩, ⟨0x0704, some 16, .staged, 16, 1, 1⟩, ⟨0x0705, none, .staged, 3, 1, 1⟩,
  ⟨0x0706, none, .staged, 2, 1, 1⟩, ⟨0x0801, some 64, .staged, 2, 1, 1⟩, ⟨0x0802, some 1024, .staged, 4, 1, 1⟩,
  ⟨0x0803, none, .staged, 8, 1, 1⟩, ⟨0x0804, some 8, .staged, 4, 1, 1⟩, ⟨0x0805, some 65536, .staged, 2, 0, 1024⟩,
  ⟨0x0901, none, .structural, 2689, 1, 1⟩, ⟨0x0902, none, .structural, 1, 1, 1⟩, ⟨0x0903, none, .structural, 2, 1, 1⟩,
  ⟨0x0904, some 8, .structural, 97, 1, 1⟩, ⟨0x0905, none, .structural, 1, 1, 1⟩, ⟨0x0A01, none, .quiescent, 48, 1, 1⟩]

def keyRow (key : Nat) : Option KeyRow := keyRows.find? (fun r => r.key == key)

def SRec.cls (r : SRec) : KCls := match keyRow r.key with | some k => k.cls | none => .structural

/-- Keys that a full Setting shall carry: those of the Chip and Memory sections without an index (R416). -/
def requiredKeys : List Nat := (keyRows.filter (fun r => r.idx.isNone && (r.key / 256 == 1 || r.key / 256 == 2))).map (·.key)

/-! ### The form of an image (R413 to R416) -/

/-- What a step of Table 14.4 found wrong: the step, the reason of Table 14.9 and the detail. -/
structure SetErr where
  step   : Nat
  reason : Nat
  detail : Nat
  deriving DecidableEq, Repr

def allZero (l : List Byte) : Bool := l.all (· == 0)

/-- The records of a section's body; `none`: malformed. -/
def readRecs (ty : Nat) : Nat → List Byte → Option (List SRec)
  | 0, l => if l.isEmpty then some [] else none
  | n + 1, l =>
    if l.isEmpty then some []
    else if l.length < 8 then none
    else
      let key := at' l 0 2
      let idx := at' l 2 2
      let vlen := at' l 4 2
      let size := 8 + (vlen + 7) / 8 * 8
      match keyRow key with
      | none => none
      | some k =>
        if key / 256 ≠ ty || at' l 6 2 ≠ 0 || l.length < size || vlen % k.unit ≠ 0 || vlen / k.unit < k.lo || vlen / k.unit > k.hi ||
            (k.idx.isNone && idx != 0) || !allZero ((l.drop (8 + vlen)).take (size - 8 - vlen)) then none
        else
          match readRecs ty n (l.drop size) with
          | some r => some (⟨key, idx, (l.drop 8).take vlen⟩ :: r)
          | none => none

/-- `n` sections from section number `i` on: their records, each with its section's number, or the number of the section that is
malformed. -/
def readSecs' (n i : Nat) (l : List Byte) : Except Nat (List (Nat × SRec)) :=
  match n with
  | 0 => if l.isEmpty then .ok [] else .error (i - 1)
  | m + 1 =>
    let len := at' l 4 4
    if l.length < 8 || at' l 2 2 ≠ 1 || len % 8 ≠ 0 || len < 8 || l.length < len then .error i
    else
      match readRecs (at' l 0 2) (len / 8) ((l.take len).drop 8) with
      | none => .error i
      | some rs =>
        match readSecs' m (i + 1) (l.drop len) with
        | .ok r => .ok (rs.map (fun x => (i, x)) ++ r)
        | .error e => .error e

/-- The section of the first record whose key and index have come before. -/
def firstDup : List (Nat × SRec) → List (Nat × SRec) → Option Nat
  | _, [] => none
  | seen, x :: r =>
    if seen.any (fun y => y.2.key == x.2.key && y.2.idx == x.2.idx) then some x.1 else firstDup (x :: seen) r

/-- Step 2 of Table 14.4: header, sections and records. -/
def readImage (kind : Nat) (b : List Byte) : Except SetErr (List (Nat × SRec)) :=
  let bad := fun (d : Nat) => (.error ⟨2, 1, d⟩ : Except SetErr (List (Nat × SRec)))
  let sig := at' b 0x48 4
  let serial := at' b 0x10 8
  if b.length < 96 || b.length > 4194304 || at' b 0 4 ≠ 0x54454C50 || at' b 4 2 ≠ 1 || at' b 6 1 ≠ kind || at' b 7 1 ≠ 0 ||
      at' b 8 4 ≠ b.length || at' b 0x0E 1 ≠ 1 || at' b 0x0F 1 > 2 || (serial ≠ 0 && serial ≠ Config.serial.toNat) ||
      sig % 8 ≠ 0 || sig < 96 || sig + 4723 ≠ b.length || !allZero ((b.drop 0x4C).take 20) ||
      (kind == 1 && !allZero ((b.drop 0x18).take 48)) then bad 0
  else
    match readSecs' (at' b 0x0C 2) 0 ((b.take sig).drop 96) with
    | .error i => bad i
    | .ok l =>
      match firstDup [] l with
      | some i => bad i
      | none => if kind == 1 && requiredKeys.any (fun k => !(l.any (fun x => x.2.key == k))) then bad 0 else .ok l

/-- Step 3: the authority of `recs` is the current owner's, and both of its signatures verify (R414, R438, R439). -/
def State.authentic (s : State) (recs : List SRec) (b : List Byte) : Bool :=
  let key := recVal recs 0x0901 0
  let sig := at' b 0x48 4
  match s.aon.owners.getLast? with
  | none => false
  | some d =>
    key.length == 2689 && sha384 key == d && Config.ecdsaOk (key.take 97) (b.take sig) ((b.drop sig).take 96) &&
      Config.mldsaOk (key.drop 97) (b.take sig) ((b.drop (sig + 96)).take 4627)

/-! ### Ranges (step 4, Table 14.3) -/

def stackBytes (code : Nat) : Nat :=
  (match code % 4 with | 0 => 48 | 1 => 64 | 2 => 96 | _ => 128) * 0x40000000

/-- Installed HBM that a set of records names. -/
def recHbm (l : List SRec) : Nat := popBits 8 (leNat (recVal l 0x0201 0)) * stackBytes (leNat (recVal l 0x0202 0))

/-- Is a range of memory aligned, in HBM or in one alias of the Gallery? `cap`: the end of HBM. -/
def memRangeOk (cap : Nat) (r : Nat × Nat) : Bool :=
  r.1 % 0x10000 == 0 && r.2 % 0x10000 == 0 &&
    (r.1 + r.2 ≤ cap || (galleryBase ≤ r.1 && r.1 + r.2 ≤ galleryLin) || (galleryLin ≤ r.1 && r.1 + r.2 ≤ 0x10100000000))

/-- Is a value within the range that Table 14.3 gives its key? -/
def valueOk (cap : Nat) (r : SRec) : Bool :=
  let v := leNat r.val
  let idxOk := match keyRow r.key with | some k => (match k.idx with | some n => decide (r.idx < n) | none => true) | none => false
  let base := fun (al : Nat) => v % al == 0 && decide (v < 2 ^ 46)
  let tiers := decide (at' r.val 0 2 ≤ 32768) && decide (at' r.val 2 4 ≤ 1048576) && decide (at' r.val 6 2 ≤ 16384)
  idxOk &&
    (match r.key with
    | 0x0101 => v ≤ 1023
    | 0x0104 => v ≤ 63
    | 0x0201 => v == 0xFF || popBits 8 v == 4 || popBits 8 v == 2
    | 0x0202 => v ≤ 7
    | 0x0203 => v == 6400 || v == 8000 || v == 10000
    | 0x0204 => v ≤ 4
    | 0x0205 => base 0x100000
    | 0x0206 => base 0x10000
    | 0x0207 | 0x0208 | 0x0209 | 0x0503 => base 0x1000
    | 0x0302 => (pairsOf 16 0 r.val).all (memRangeOk cap)
    | 0x0303 => at' r.val 0 8 % 0x40000000 == 0 && at' r.val 8 8 % 0x40000000 == 0 && decide (at' r.val 0 8 + at' r.val 8 8 ≤ 2 ^ 44)
    | 0x0305 => v ≤ 15
    | 0x0306 => v ≤ 1
    | 0x0308 => v ≤ 2
    | 0x0309 => v ≤ 15
    | 0x030B => v ≤ 256
    | 0x030C => (peerRanges 16 r.val).all (fun e => decide (e.1 ≤ 1023) && memRangeOk galleryBase (e.2.1, e.2.2))
    | 0x0401 => decide (at' r.val 32 1 ≤ 15) && decide (at' r.val 33 2 ≤ 2048) && decide (at' r.val 35 2 ≤ 1500) && decide (at' r.val 37 1 ≤ 1)
    | 0x0501 | 0x0502 => tiers
    | 0x0601 => v < 64
    | 0x0602 => 500 ≤ v && decide (v ≤ 1500)
    | 0x0702 => decide (at' r.val 0 2 ≤ 1023) && decide (at' r.val 2 1 ≤ 7)
    | 0x0703 => v ≤ 4
    | 0x0705 => decide (at' r.val 0 1 ≤ 1) && decide (at' r.val 1 1 ≤ 15)
    | 0x0706 => v ≤ 4095
    | 0x0801 => v ≤ 1023 || v == 0xFFFF
    | 0x0802 => decide (at' r.val 0 1 < 8) && (r.val.drop 1).all (fun b => decide (b.toNat < 8) || b == 0xFF)
    | 0x0803 => (u16s 4 r.val).all (fun c => decide (c ≤ 1023) || c == 0xFFFF)
    | 0x0805 => (u16s 1024 r.val).all (fun c => decide (c ≤ 1023))
    | 0x0902 => v ≤ 2
    | 0x0905 => v ≤ 1
    | _ => true)

/-- The section of the first record out of range. -/
def firstRange (cap : Nat) (l : List (Nat × SRec)) : Option Nat := (l.find? (fun x => !valueOk cap x.2)).map (·.1)

/-! ### Gallery ranges by the bytes they name (R194) -/

/-- The offsets of Gallery bank `b` that the range names, from the first to the one after the last. -/
def bankSpan (r : Nat × Nat) (b : Nat) : Nat × Nat :=
  if r.1 < galleryLin then
    let u := (r.1 - galleryBase) / 0x10000
    let v := (r.1 + r.2 - galleryBase) / 0x10000
    let h := b / 128
    (512 * ((u + 1 - h) / 2), 512 * ((v + 1 - h) / 2))
  else
    let lo := r.1 - galleryLin
    let hi := r.1 + r.2 - galleryLin
    (max lo (b * 0x800000) - b * 0x800000, min hi ((b + 1) * 0x800000) - b * 0x800000)

def banks256 : List Nat := List.range 256

/-- Do two ranges of memory share a byte? -/
def rangesMeet (r q : Nat × Nat) : Bool :=
  if r.2 = 0 || q.2 = 0 then false
  else if isHbm r.1 || isHbm q.1 then decide (r.1 < q.1 + q.2) && decide (q.1 < r.1 + r.2)
  else banks256.any (fun b => let x := bankSpan r b; let y := bankSpan q b; decide (max x.1 y.1 < min x.2 y.2))

/-- Does a Gallery range reach into the part of the Gallery from bank offset `w` on (rule 12)? -/
def rangeAbove (w : Nat) (r : Nat × Nat) : Bool :=
  r.2 != 0 && !isHbm r.1 && banks256.any (fun b => let x := bankSpan r b; decide (x.1 < x.2) && decide (w < x.2))

/-! ### Mode rules (Tables 14.6, 15.9 and 17.5) -/

/-- Does `f` hold for a pair of different elements? -/
def somePair {α : Type} (f : α → α → Bool) : List α → Bool
  | [] => false
  | x :: r => r.any (f x) || somePair f r

/-- The state with a set of records as its Setting, for reading. -/
def State.withRecs (s : State) (l : List SRec) : State := { s with setting := l }

def mscBytes (code : Nat) : Nat := match code with | 0 => 0 | 1 => 0x8000000 | 2 => 0x10000000 | 3 => 0x20000000 | _ => 0x40000000

/-- Is rule `n` broken by the Setting of `t`? -/
def State.ruleBad (t : State) (n : Nat) : Bool :=
  let ps := t.partsOf
  let nat := t.snat
  let ranges := fun p => pairsOf 16 0 (t.srec 0x0302 p)
  let host := fun p => (at' (t.srec 0x0303 p) 0 8, at' (t.srec 0x0303 p) 8 8)
  let cut := fun (r q : Nat × Nat) => r.2 != 0 && q.2 != 0 && decide (r.1 < q.1 + q.2) && decide (q.1 < r.1 + r.2)
  let msc := mscBytes (nat 0x0204 0)
  let ports := nat 0x0701 0
  let sealed := nat 0x0903 0
  let resv := fun p => at' (t.srec 0x0401 p) 0 32
  let gal := fun k i n => if isGallery (nat k i) && !(t.srec k i).isEmpty then n else 0
  let idxs := fun k => (t.setting.filter (fun r => r.key == k)).map (·.idx)
  match n with
  | 1 => somePair (fun p q =>
      (nat 0x0301 p &&& nat 0x0301 q) != 0 || (ranges p).any (fun r => (ranges q).any (rangesMeet r)) || cut (host p) (host q) ||
        (nat 0x030A p &&& nat 0x030A q) != 0) ps
  | 2 => ps.any (fun p => nat 0x0301 p == 0 || decide (popBits 16 (nat 0x0304 p) < 2))
  | 3 => ps.any (fun p => resv p != 0 && ((resv p &&& nat 0x0301 p) != resv p || nat 0x0308 p == 2))
  | 4 => ps.any (fun p => let w := at' (t.srec 0x0401 p) 32 1; decide (w > nat 0x0305 p) || decide (w > popBits 16 (nat 0x0304 p) - 1))
  | 5 => ps.any (fun p => decide (16 * at' (t.srec 0x0401 p) 33 2 > at' (t.srec 0x0501 p) 0 2))
  | 6 =>
    let t0 := (ps.map (fun p => at' (t.srec 0x0501 p) 0 2)).sum + at' (t.srec 0x0502 0) 0 2
    let t1 := (ps.map (fun p => at' (t.srec 0x0501 p) 2 4)).sum + at' (t.srec 0x0502 0) 2 4
    let frames := 0x98000 * ((idxs 0x0209).filter (fun c => nat 0x0209 c != 0)).length
    let tables := gal 0x0205 0 0x100000 + gal 0x0206 0 0x10000 + gal 0x0207 0 0x40000 + ((idxs 0x0503).map (fun p => gal 0x0503 p 0x80000)).sum
    decide (0x10000 * t0 + frames + tables > 0x80000000 - msc) || decide (t1 * 0x100000 > recHbm t.setting)
  | 7 => decide ((ps.map (fun p => at' (t.srec 0x0401 p) 35 2)).sum > 1500)
  | 9 => ps.any (fun p => at' (t.srec 0x0401 p) 37 1 == 1 && resv p == 0)
  | 10 => ps.any (fun p => nat 0x0306 p == 1 && nat 0x0208 0 == 0)
  | 12 => msc != 0 && ps.any (fun p => (ranges p).any (rangeAbove (0x800000 - msc / 256)))
  | 13 =>
    (idxs 0x0802).any (fun c => (t.srec 0x0802 c).any (fun b => b != 0xFF && !(ports.testBit b.toNat))) ||
      (List.range 8).any (fun p => ports.testBit p && (t.srec 0x0702 p).isEmpty)
  | 14 =>
    let own := t.srec 0x0801 (nat 0x0104 0)
    !own.isEmpty && leNat own != nat 0x0101 0 && leNat own != 0xFFFF
  | 15 =>
    let v := t.srec 0x0705 0
    at' v 0 1 == 1 && (at' (t.srec 0x0803 0) 0 2 != nat 0x0101 0 || (t.srec 0x0803 0).isEmpty || !t.ethExists (at' v 1 1))
  | 16 => decide ((idxs 0x0805).length > 64) || (idxs 0x0805).any (fun j => !(t.jobOf j).contains (nat 0x0101 0))
  | 17 =>
    let v := nat 0x0601 0
    !(t.srec 0x0601 0).isEmpty && [0, 1, 2].any (fun c => !([bits v 1 0, bits v 3 2, bits v 5 4].contains c))
  | 19 => ps.any (fun p => sealed.testBit p && (nat 0x0309 p).testBit 0)
  | 20 => ps.any (fun p => sealed.testBit p && nat 0x0306 p == 1)
  | 21 => sealed != 0 && nat 0x0902 0 == 2
  | 22 => (List.range 8).any (fun p => ports.testBit p && (t.srec 0x0904 p).isEmpty)
  | 23 => ps.any (fun p =>
      (nat 0x0301 p &&& t.fence 0 32) != 0 || (nat 0x030A p &&& t.fence 0x26 4) != 0 || (nat 0x0304 p &&& t.fence 0x21 2) != 0)
  | 24 =>
    let f := t.fence 0x24 1
    let v := t.srec 0x0705 0
    let half := fun p => (t.fence 0x25 1).testBit (p / 8)
    -- the endpoint entry that telemetry goes to, as the table of the Setting holds it (log entry 82)
    let e := if (t.srec 0x0706 0).isEmpty then [] else t.loadRun (nat 0x0207 0 + 64 * (nat 0x0706 0 % 4096)) 64
    (ports &&& f) != 0 || (idxs 0x0702).any (fun p => f.testBit p) ||
      (idxs 0x0802).any (fun c => (t.srec 0x0802 c).any (fun b => b != 0xFF && f.testBit b.toNat)) ||
      (at' v 0 1 == 1 && half (at' v 1 1)) || (at' e 0 1 % 4 == 3 && (List.range 16).any (fun p => (at' e 4 2).testBit p && half p))
  | _ => false

/-- The lowest rule that a set of records breaks. -/
def State.ruleBroken (s : State) (l : List SRec) : Option Nat := (List.range 25).find? (fun n => (s.withRecs l).ruleBad n)

end Sys2Proof.Machine
end

