-- ==== Sys2Proof/Machine/Loads.lean ====
section
/-! DEFINITION. What a Setting in force shows and does, the load of a Setting, and the fetch of images from host memory (R411 to
R421, R448, R452, R459, R487). -/
namespace Sys2Proof.Machine

/-! ### Registers that show the Setting -/

/-- The RO fields that show the Setting in force, with their values (Table 14.3). -/
def State.settingFields (s : State) : List (FRef × Nat) :=
  let nat := s.snat
  let n := popBits 8 (nat 0x0201 0)
  let ptp := s.srec 0x0705 0
  let perPart := fun (p : Nat) =>
    let r := s.srec 0x0401 p
    let q := s.srec 0x0501 p
    let cores := at' r 0 32
    [(Fld.L2C_PART_WAYS_LOCK_MAX p, nat 0x0305 p), (Fld.L2C_PART_WAYS_MASK p, nat 0x0304 p),
      (Fld.SQ_PART_RES_VALID p, if cores = 0 then 0 else 1), (Fld.SQ_PART_RES_FLOOR p, at' r 35 2), (Fld.SQ_PART_RES_WAYS p, at' r 32 1),
      (Fld.SQ_PART_RES_GALLERY p, at' r 33 2), (Fld.SQ_PART_RES_BORROW p, at' r 37 1), (Fld.SQ_PART_RES_CORES p, popBits 256 cores),
      (Fld.TIER_QUOTA_T0 p, at' q 0 2), (Fld.TIER_QUOTA_T1 p, at' q 2 4), (Fld.TIER_QUOTA_T2 p, at' q 6 2),
      (Fld.TIER_VA_ROOT_BASE p, nat 0x0503 p), (Fld.NWL_FLIGHT_HOST p, bits (nat 0x0309 p) 3 3), (Fld.NWL_FLIGHT_N p, nat 0x030B p)]
  [(Fld.XLT_CFG_CHIP, nat 0x0101 0), (Fld.XLT_CTX_BASE_BASE, nat 0x0205 0), (Fld.XLT_WIN_BASE_BASE, nat 0x0206 0),
    (Fld.ETH_EP_BASE_BASE, nat 0x0207 0), (Fld.HOME_BIAS_BASE_BASE, nat 0x0208 0), (Fld.L2C_CFG_MSC_SIZE, nat 0x0204 0),
    (Fld.L2C_CFG_HBM_N, if n = 4 then 1 else if n = 2 then 2 else 0), (Fld.L2C_CFG_STACK_CAP, nat 0x0202 0 % 4),
    (Fld.L2C_CFG_HBM_MASK, nat 0x0201 0), (Fld.HOME_CFG_SPAN_N, ((List.range 64).filterMap s.spanChip).length),
    (Fld.HOME_CFG_SPAN_IDX, nat 0x0104 0), (Fld.HOME_MODE_COMPAT, ((s.partsOf.filter (fun p => nat 0x0306 p == 1)).map (2 ^ ·)).sum),
    (Fld.TIER_POOL_SIZE, at' (s.srec 0x0502 0) 0 2 + at' (s.srec 0x0502 0) 2 4 * 2 ^ 16 + at' (s.srec 0x0502 0) 6 2 * 2 ^ 37),
    (Fld.STW_CFG_PORTS, nat 0x0701 0), (Fld.STW_CFG_TRAY, nat 0x0103 0), (Fld.ETH_CFG_TELEM_EP, nat 0x0706 0),
    (Fld.ETH_CFG_PTP_EN, at' ptp 0 1), (Fld.ETH_CFG_PTP_PORT, at' ptp 1 1), (Fld.ETH_CFG_MODE0, nat 0x0703 0),
    (Fld.ETH_CFG_MODE1, nat 0x0703 1), (Fld.SEC_STATUS_DEBUG, nat 0x0902 0), (Fld.SEC_SEAL_IDE_REQ, nat 0x0905 0),
    (Fld.SEC_SEAL_SEALED, nat 0x0903 0)] ++ parts16.flatMap perPart ++
    (List.range 256).map (fun c => (Fld.CORE_SAVE_BASE_BASE c, if nat 0x0209 c = 0 then 0 else nat 0x0101 0 * 2 ^ 46 + nat 0x0209 c))

/-- Lines of this chip's own memory in the L2 go by the new chip number. -/
def State.rechip (s : State) (old : Nat) : State :=
  { s with l2 := s.l2.map (fun (e : Nat × L2Line) =>
      (e.1, if e.2.valid && e.2.line / 2 ^ 39 == old then { e.2 with line := s.chip * 2 ^ 39 + e.2.line % 2 ^ 39 } else e.2)) }

/-- A set of records becomes the Setting in force, and the registers show it. -/
def State.putSetting (s : State) (l : List SRec) : State :=
  let old := s.chip
  let s := s.withRecs l
  (s.settingFields.foldl (fun (t : State) (f : FRef × Nat) => t.setFld f.1 f.2) s).rechip old

/-! ### Memory at a load or a change of the Gallery split -/

/-- A line leaves the L2 without a write-back, its L1 copies with it. -/
def State.forgetLine (s : State) (k : Nat) : State :=
  let l := s.l2At k
  (s.l1Inval l.rows l.line none).setL2 k L2Line.empty

/-- Is the line of this chip's Gallery? -/
def State.galLine (s : State) (l : L2Line) : Bool := !l.host && l.line / 2 ^ 39 == s.chip && isGallery (l.line * 128 % 2 ^ 46)

/-- Is the line of this chip's HBM? -/
def State.hbmLine (s : State) (l : L2Line) : Bool := !l.host && l.line / 2 ^ 39 == s.chip && isHbm (l.line * 128 % 2 ^ 46)

/-- Forget the lines of Gallery memory that `f` selects, by canonical local address, with their bytes and poison. -/
def State.forgetGallery (s : State) (f : Nat → Bool) : State :=
  let keys := (s.l2.filter (fun e => e.2.valid && s.galLine e.2 && f (e.2.line * 128 % 2 ^ 46))).map (·.1)
  let s := keys.foldl State.forgetLine s
  { s with mem := s.mem.filter (fun e => isHbm e.1 || !f e.1), gpoison := s.gpoison.filter (fun e => !f (e.1 * 64)) }

/-- Bytes outside tier 0 are lost, so that those that join it later read as zero (R427). -/
def State.trimGallery (s : State) : State := s.forgetGallery (fun a => !s.holdsMem a)

/-- HBM bytes that `f` selects are read under a new key (R452): nothing that was written to them is left, in the stacks, the L2 or the
memory-side cache, nor poison. -/
def State.rekeyHbm (s : State) (f : Nat → Bool) : State :=
  let keys := (s.l2.filter (fun e => e.2.valid && s.hbmLine e.2 && f (e.2.line * 128 % 2 ^ 46))).map (·.1)
  let s := keys.foldl State.forgetLine s
  let s : State := { s with
    hbmGen := s.hbmGen + 1, mem := s.mem.filter (fun e => !(isHbm e.1 && f e.1)), msc := s.msc.filter (fun e => !f (e.2.line * 128)) }
  let s : State := { s with hpoison := s.hpoison.filter (fun e => !f (e.1 * 64)) }
  (List.range 8).foldl (fun (t : State) k => t.setFld (Fld.L2C_HBM_POISON_USED k) (t.poisonUsed k)) s

/-- The memory-side cache is cleaned and invalidated. -/
def State.flushMsc (s : State) : State :=
  let s := s.msc.foldl (fun (t : State) (e : Nat × MscLine) => t.mscClean e.2) s
  { s with msc := [] }

/-- Step 7 of a load: lines that are not of tier 0 are written back and invalidated, those of the memory-side cache too, and
every lock is released (R420). -/
def State.flushL2 (s : State) : State :=
  let keys := (s.l2.filter (fun e => e.2.valid && !s.galLine e.2)).map (·.1)
  let s := (keys.foldl (fun (t : State) k => t.evictWay k) s).flushMsc
  { s with l2 := s.l2.filterMap (fun (e : Nat × L2Line) => if e.2.valid then some (e.1, { e.2 with lock := none, rows := 0 }) else none) }

/-! ### Keys -/

/-- New key pairs of partition `p` with an EPOCH (R448). -/
def State.newPairs (s : State) (p epoch : Nat) : State :=
  let k := s.keys p
  s.setKeys p { k with defd := true, epoch := epoch, keyGen := k.keyGen + 1 }

/-- The keys of a load: new memory and spill keys, new pairs of the defined partitions with EPOCH 1, and empty slots (R448, R450,
R452). -/
def State.loadKeys (s : State) : State :=
  let s : State := { s with rot := { s.rot with memGen := s.rot.memGen + 1 } }
  parts16.foldl (fun (t : State) p =>
    let t := t.setKeys p { (t.keys p) with defd := false, epoch := 0, spill := 0, slots := [] }
    if t.definedPart p then t.newPairs p 1 else t) s

/-- Every partition key, spill key and slot is destroyed, and tier 0 is zero-filled (R459). -/
def State.destroyKeys (s : State) : State :=
  let s : State := { s with rot := { s.rot with memGen := s.rot.memGen + 1 } }
  let s := parts16.foldl (fun (t : State) p => t.setKeys p { (t.keys p) with defd := false, spill := 0, slots := [] }) s
  (s.forgetGallery (fun _ => true)).rekeyHbm (fun a => (s.partOfAddr a).isSome)

/-- The chip is unlocked for debug until cold reset, by a token or by the debug policy (R459). -/
def State.unlock (s : State) (token : List Byte) : State :=
  (s.destroyKeys.hmExtend 5 0x20 0 (sha384 token)).setFldB Fld.SEC_STATUS_UNLOCKED true

/-! ### Partitions -/

/-- Has everything of partition `p` ended (R418): no team resident or preempted, no command that runs, no transfer, and no
buffered store? -/
def State.partIdle (s : State) (p : Nat) : Bool :=
  s.cores.all (fun (e : Nat × Core) =>
    e.2.teamList.all (fun t => t.2.part != p) && e.2.sq.all (fun x => x.part != p) && e.2.mb.all (fun x => x.part != p)) &&
  s.sqs.all (fun (e : Nat × Sq) => e.2.part != p || e.2.cmds.all (fun c => c.st != .running)) &&
  s.chanXf.all (fun (e : Nat × Option Xfer) => match e.2 with | some x => (s.sq x.team).part != p | none => true)

/-- Is partition `p` stopped, or not defined (R417, R418)? -/
def State.stopped (s : State) (p : Nat) : Bool :=
  !s.definedPart p || (!(s.fld Fld.SET_PART_RUN_RUN).testBit p && s.partIdle p)

def State.allStopped (s : State) : Bool := parts16.all s.stopped

/-- PARTITION_STOPPED: the partition shows STOPPED. -/
def execPartitionStopped (part : Fin 16) (s : State) : Out :=
  .next (s.whenRuns (fun s => if s.stopped part then s.setFldBit Fld.SET_PART_STATE_STOPPED part true else s))

/-- The merging-buffer entries of the partitions that `p` selects close (Table 06.5). -/
def State.closeParts (s : State) (p : Nat → Bool) : State :=
  if s.cores.all (fun e => e.2.mb.all (fun x => x.closed || !(p x.part))) then s
  else { s with cores := s.cores.map (fun e => (e.1, { e.2 with mb := e.2.mb.map (fun x => { x with closed := x.closed || p x.part }) })) }

/-- A defined partition whose RUN is 1 does not show STOPPED. -/
def State.showStopped (s : State) : State :=
  let v := s.fld Fld.SET_PART_RUN_RUN
  s.setFld Fld.SET_PART_STATE_STOPPED
    (((parts16.filter (fun p => (s.fld Fld.SET_PART_STATE_STOPPED).testBit p && (!s.definedPart p || !v.testBit p))).map (2 ^ ·)).sum)

/-- A write of SET_PART_RUN: a bit that is set lets the partition run, one that is cleared requests its stop. -/
def State.runGo (s : State) (v : Nat) : State :=
  ((s.setFld Fld.SET_PART_RUN_RUN v).closeParts (fun p => !v.testBit p)).showStopped

/-! ### Images from host memory (R419, R424) -/

/-- Take up the answer to the read that a fetch has outstanding, and make the next one. -/
def State.pullMore (s : State) (n : Nat) : State :=
  match s.pull n with
  | none => s
  | some f =>
    let ask := fun (s : State) (f : Pull) =>
      if f.bad || f.buf.length ≥ f.len then s
      else
        let a := f.addr + f.buf.length
        let k := min (f.len - f.buf.length) (s.maxRead - a % s.maxRead)
        let used := s.ep.tags.filter (fun t => t.ans.isNone)
        if s.ioBarred || used.length ≥ s.tagLimit then s
        else
          let i := ((List.range 1024).find? (fun i => !(used.any (fun t => t.tag == i)))).getD 0
          ({ s with ep := { s.ep with tags := s.ep.tags ++ [⟨i, a, k, .raw n, none⟩] } } : State).hostOut .nobody (.memRd i a k)
    match s.ep.tags.find? (fun t => t.owner == .raw n) with
    | none => ask s f
    | some t =>
      match t.ans with
      | none => s
      | some r =>
        let s : State := { s with ep := { s.ep with tags := s.ep.tags.erase t } }
        let g : Pull := match r with
          | some (b, false) => { f with buf := f.buf ++ b }
          | _ => { f with bad := true }
        ask (s.setPull n (some g)) g

/-- Begin to fetch `len` bytes at a host physical address. -/
def State.pullStart (s : State) (n addr len : Nat) : State := (s.setPull n (some ⟨addr, len, [], false⟩)).pullMore n

/-- What a fetch has come to: bytes, an error, or not yet (outer `none`). -/
def State.pulled (s : State) (n : Nat) : Option (Option (List Byte)) :=
  match s.pull n with
  | none => some none
  | some f => if f.bad then some none else if f.buf.length ≥ f.len then some (some f.buf) else none

/-- The fetch is over. -/
def State.pullEnd (s : State) (n : Nat) : State := s.setPull n none

/-! ### The load (R419 to R421) -/

/-- The end of SET_LOAD_CMD with its outcome. -/
def State.loadOver (s : State) (result : Nat) (e : SetErr) : State :=
  (((((s.setFldB Fld.SET_LOAD_CMD_GO false).setFldB Fld.SET_LOAD_STATUS_DONE true).setFld Fld.SET_LOAD_STATUS_RESULT result).setFld
    Fld.SET_LOAD_STATUS_STEP e.step).setFld Fld.SET_LOAD_STATUS_REASON e.reason).setFld Fld.SET_LOAD_STATUS_DETAIL e.detail

/-- A write has set GO of SET_LOAD_CMD: the load is accepted, or refused with RESULT 0b010 (R420, Table 14.8). -/
def State.loadGo (s : State) : State :=
  if s.clasp.st = .idle && (s.aon.dev = .vestibule || s.allStopped) then
    let s := s.setFld Fld.SET_STATUS_STATE 1
    if s.fldB Fld.SET_LOAD_CMD_SRC then s else s.pullStart 0 (s.fld Fld.SET_LOAD_ADDR_ADDR) (s.fld Fld.SET_LOAD_CMD_LEN)
  else (s.bump Fld.SET_REFUSE_CNT_COUNT 1).loadOver 2 ⟨0, 0, 0⟩

/-- Nothing is left of the queues, contexts, streams, images, certifications and Landings (R421), nor of the coherence of before. -/
def State.dropUnits (s : State) : State :=
  { s with
    dir := [], txns := [], conflict := [], preqs := [], inHold := [], delayed := [], rbuf := [], lateInv := [], biConf := [],
    flip := none, purges := [], ctxs := [], tlbs := [], stlb := [], walks := [], frecs := [], wins := [], winOld := [], winOut := [],
    sqs := [], cqs := [], certs := [], turns := [], chanXf := [], imgs := [], streams := [], pages := [], moves := [], brings := [], advised := [], fetches := [],
    flights := [], notes := [], slots := [], jobWork := [], inbox := [], left := [], leaves := [], joined := [] }

/-- The register regions of the minimum set: those that BAR0 serves in Vestibule (Table 10.4). -/
def inMinimum (o : Nat) : Bool := o < 0x40000 || (0x80000 ≤ o && o < 0x90000) || (0xD0000 ≤ o && o < 0xE0000)

/-- The units outside the minimum set are held in reset, or come out of it (R421, R481): the registers of their regions take their reset values, the fault queue is empty and the servo is at its start. -/
def State.unitsFresh (s : State) : State :=
  { s.ringForget with
    regs := s.regs.filter (fun e => inMinimum e.1), fseq := 0, servo := Servo.empty, pwr := { s.pwr with slipClk := [] } }

/-- Every Stairway port is DOWN as after cold reset, its keys destroyed. -/
def State.portsDrop (s : State) : State := (List.range 8).foldl (fun t p => (t.modPort p Port.fresh).portTo p .down) s

/-- The cores of a chip whose Setting has just loaded: those of a partition that are not fenced are in Nap, the others Off, and
everything else of them is as after reset (R421, R463, R487). -/
def State.loadCores (s : State) : State :=
  (List.range 256).foldl (fun (t : State) c =>
    let on := (t.corePart c).isSome && !(t.fence 0 32).testBit c
    t.setCore c { Core.empty with nextId := (t.core c).nextId, sleep := if on then .nap else .off }) s

/-- What the entries of the CDAT depend on: without a Setting there are none; else the installed capacity and the tier-0 size (Table
10.6). -/
def State.cdatOf (s : State) : Option (Nat × Nat) := if s.aon.dev = .vestibule then none else some (s.hbmCap, s.tier0W)

/-- Each change of the entries increments the CDAT's sequence number (R311). `old`: the state before. -/
def State.cdatNote (s old : State) : State :=
  if s.cdatOf = old.cdatOf then s else { s with ep := { s.ep with cdatSeq := s.ep.cdatSeq + 1 } }

/-- A load has failed: the chip is in Vestibule with no Setting in force, and every unit outside the minimum set is held in reset
(R420, R481). -/
def State.loadFail (s : State) (e : SetErr) : State :=
  let old := s
  let s := (((s.pullEnd 0).dropUnits.unitsFresh.putSetting []).portsDrop.loadCores.ethHalf 0).ethHalf 1
  let s : State := { s with aon := { s.aon with dev := .vestibule }, hbmSt := stacksFor s.hbmSt 0, effDig := zeros48, loadDig := zeros48 }
  let s := s.cdatNote old
  (((s.setFld Fld.SET_STATUS_STATE 0).runGo 0).setFld Fld.SET_PART_STATE_STOPPED 0xFFFF).loadOver 1 e

/-- Records of partition `p`, as they are measured by event 0x0040. -/
def partBytes (l : List SRec) (p : Nat) : List Byte :=
  let mine := l.filter (fun r => r.idx == p && (match keyRow r.key with | some k => k.idx == some 16 && r.key != 0x0704 | none => false))
  ((keyRows.filterMap (fun k => mine.find? (fun r => r.key == k.key))).map (fun r =>
    natLe 2 r.key ++ natLe 2 r.idx ++ natLe 2 r.val.length ++ [0, 0] ++ r.val ++
      List.replicate ((8 - r.val.length % 8) % 8) 0)).flatten

/-- The Hallmark at a load: H8 to H23 and their log entries are cleared, and the image and the partitions are measured (R441). -/
def State.loadMeasure (s : State) (img : List Byte) : State :=
  let log := s.rot.log.filter (fun e => e.reg < 8)
  let freed := decide (log.length < s.rot.log.length)
  let s : State := { s with rot := { s.rot with hm := s.rot.hm.filter (fun e => e.1 < 8), log := log } }
  let s := if freed then s.setFldB Fld.SEC_STATUS_LOG_OVF false else s
  s.partsOf.foldl (fun (t : State) p => t.hmExtend (8 + p) 0x40 0 (sha384 (partBytes t.setting p))) (s.hmExtend 3 0x10 0 (sha384 img))

/-- Priority order and cap, where the Setting names them. -/
def State.putPower (s : State) (l : List SRec) : State :=
  let s := if (recVal l 0x0601 0).isEmpty then s else s.setReg Reg.PWR_PRIO (leNat (recVal l 0x0601 0))
  if (recVal l 0x0602 0).isEmpty then s else (s.setFld Fld.PWR_CAP_CAP (leNat (recVal l 0x0602 0))).powerVoid

/-- Fenced ways are never powered (R487). -/
def State.fenceWays (s : State) : State :=
  let f := s.fence 0x21 2
  let keys := (s.l2.filter (fun e => e.2.valid && f.testBit (e.1 % 16))).map (·.1)
  let s := keys.foldl (fun (t : State) k => t.evictWay k) s
  let p := s.fld Fld.L2C_WAY_STATE_POWERED
  s.setFld Fld.L2C_WAY_STATE_POWERED (p - (p &&& f))

/-- States of the span members: this chip and the others of the Setting are ACTIVE (R390). -/
def State.spanFresh (s : State) : State :=
  (List.range 64).foldl (fun (t : State) k => t.setSpanState k (if (t.spanChip k).isSome then 1 else 0)) s

/-- Step 7: the Setting comes into force. -/
def State.loadApply (s : State) (img : List Byte) (l : List SRec) : State :=
  let old := s
  let first := s.aon.dev = .vestibule
  let s := (s.pullEnd 0).voidCmds 1 (fun _ _ => true)
  let s := s.flushL2
  let s := if s.flip.isSome then s.flipEnd 1 else s
  let s := (((s.dropUnits.unitsFresh.putSetting l).putPower l).trimGallery.rekeyHbm (fun _ => true)).spanFresh
  let s := if s.snat 0x0902 0 = 2 && !s.fldB Fld.SEC_STATUS_UNLOCKED then s.unlock [] else s
  let s : State := { s with hbmSt := stacksFor s.hbmSt (s.fld Fld.L2C_CFG_HBM_MASK) }
  let s := (s.loadKeys.loadCores.fenceWays.showPurge).loadMeasure img
  let s : State := { s with
    -- a Fatal error of a write-back has halted the chip (R491)
    aon := if s.aon.dev = .stopped || s.aon.dev = .frozen then s.aon else { s.aon with dev := .service }
    effDig := sha384 img, loadDig := sha384 img }
  let s := s.cdatNote old
  let s := ((s.setFld Fld.SET_STATUS_STATE 2).runGo 0).setFld Fld.SET_PART_STATE_STOPPED 0xFFFF
  -- as after a load from Vestibule, the ports train anew (R421)
  let s := ((s.portsDrop.ethHalf 0).ethHalf 1).portsFollow.showRoot
  let s := if first && s.ep.linkUp then s.retrainStart else s
  ((s.writeInv).bump Fld.SET_LOAD_CNT_COUNT 1).loadOver 0 ⟨0, 0, 0⟩

/-- Does the memory section name what the Setting in force names? -/
def sameMemory (a b : List SRec) : Bool :=
  let m := fun (l : List SRec) => l.filter (fun r => r.key / 256 == 2)
  (m a).all (fun r => (m b).contains r) && (m b).all (fun r => (m a).contains r)

/-- Steps 2 to 7 of Table 14.4 on an image. `stackOk`: stacks that train; `stackType`: what they report. -/
def State.loadImage (s : State) (img : List Byte) (stackOk stackType : Nat) : State :=
  match readImage 1 img with
  | .error e => s.loadFail e
  | .ok l =>
    let recs := l.map (·.2)
    if !s.authentic recs img then s.loadFail ⟨3, 2, 0⟩
    else
      match firstRange (recHbm recs) l with
      | some d => s.loadFail ⟨4, 4, d⟩
      | none =>
        match s.ruleBroken recs with
        | some r => s.loadFail ⟨5, 5, r⟩
        | none =>
          let mask := leNat (recVal recs 0x0201 0)
          if !sameMemory recs s.setting && ((mask &&& stackOk) != mask || stackType != leNat (recVal recs 0x0202 0)) then
            s.loadFail ⟨6, 6, 0⟩
          else s.loadApply img recs

/-- SETTING_LOAD_DONE: the load's steps end. A load waits for an install that runs (R460). -/
def execSettingLoadDone (stackOk : BitVec 8) (stackType : BitVec 3) (s : State) : Out :=
  .next (s.whenRuns (fun s =>
    let installs := [0, 1].any (fun c => s.fldB (Fld.SEC_CMD_GO c) && s.fld (Fld.SEC_CMD_OP c) == 2)
    if !s.fldB Fld.SET_LOAD_CMD_GO || installs then s
    else
      let go := fun (s : State) (img : List Byte) => ({ s with store := img } : State).loadImage img stackOk.toNat stackType.toNat
      if s.fldB Fld.SET_LOAD_CMD_SRC then (if s.store.isEmpty then s.loadFail ⟨1, 0x0D, 0⟩ else go s s.store)
      else if s.fld Fld.SET_LOAD_ADDR_ADDR % 4096 ≠ 0 then s.loadFail ⟨1, 0x0D, 0⟩
      else if s.fld Fld.SET_LOAD_CMD_LEN > 4194304 then s.loadFail ⟨2, 1, 0⟩
      else
        match s.pulled 0 with
        | none => s.pullMore 0
        | some none => s.loadFail ⟨1, 0x0D, 0⟩
        | some (some img) => go s img))

end Sys2Proof.Machine
end

