-- ==== Sys2Proof/Machine/Clasp.lean ====
section
/-! DEFINITION. Clasp transactions: staging, the checks of a commit, its application and its consequences, and the end of CXL.io
reads, which may complete a staging (R422 to R434). -/
namespace Sys2Proof.Machine

/-! ### Staging (R424) -/

/-- A refused stage or commit. -/
def State.claspRefuse (s : State) (reason detail : Nat) : State :=
  (s.bump Fld.SET_REFUSE_CNT_COUNT 1).claspDone 2 reason detail

/-- Staged records with later ones in the place of earlier ones of the same key and index. -/
def mergeRecs (old new_ : List SRec) : List SRec :=
  old.filter (fun r => !(new_.any (fun x => x.key == r.key && x.idx == r.idx))) ++ new_

/-- Take up a delta: steps 1 to 4 of Table 14.4, its BASE, and the class of its records. -/
def State.stageEnd (s : State) (d : Option (List Byte)) : State :=
  let s := s.pullEnd 1
  match d with
  | none => s.claspRefuse 0x0D 0
  | some b =>
    match readImage 2 b with
    | .error e => s.claspRefuse e.reason 0
    | .ok l =>
      let recs := l.map (·.2)
      let set := mergeRecs s.clasp.staged recs
      if !s.authentic s.setting b then s.claspRefuse 2 0
      else if (firstRange s.hbmCap l).isSome then s.claspRefuse 4 0
      else if (b.drop 0x18).take 48 != s.effDig then s.claspRefuse 3 0
      else if recs.any (fun r => r.cls == .structural) then s.claspRefuse 7 0
      else if set.length > 4096 then s.claspRefuse 0x0B 0
      else
        let h := sha384 b
        let s := s.hmExtend 4 0x11 s.clasp.id h
        (({ s with clasp := { s.clasp with staged := set, deltas := s.clasp.deltas ++ [h] } } : State).showClasp).claspDone 0 0 0

/-- Is a STAGE in progress? -/
def State.staging (s : State) : Bool :=
  s.clasp.st == .opn && s.fldB Fld.SET_CLASP_CMD_GO && s.fld Fld.SET_CLASP_CMD_OP == 1

/-- Go on with a STAGE: its delta is read, and taken up once it has come whole. -/
def State.stagePoll (s : State) : State :=
  if !s.staging then s
  else
    match s.clasp.owner with
    | .host =>
      match s.pulled 1 with
      | some d => s.stageEnd d
      | none =>
        let s := s.pullMore 1
        match s.pulled 1 with
        | some d => s.stageEnd d
        | none => s
    | .firmware =>
      let a := s.fld Fld.SET_CLASP_ADDR_ADDR
      let n := s.fld Fld.SET_CLASP_LEN_LEN
      if !s.unitOk a n then s.stageEnd none
      else
        match s.unitRead 0 a n with
        | (s, some (some (b, false))) => s.stageEnd (some b)
        | (s, some _) => s.stageEnd none
        | (s, none) => s

/-! ### The checks of a commit (R425, R426) -/

/-- Partitions that own a Quiescent record. -/
def quiesOwners (r : SRec) : List Nat :=
  if r.cls != .quiescent then [] else if r.key == 0x0204 || r.key == 0x0A01 then parts16 else [r.idx]

/-- The partitions that own Quiescent fields of the staging set. -/
def State.claspOwners (s : State) : List Nat := parts16.filter (fun p => s.clasp.staged.any (fun r => (quiesOwners r).contains p))

/-- Why a commit is refused: reason and detail. -/
def State.claspBad (s : State) : Option (Nat × Nat) :=
  -- a staging copy of PWR_PRIO stands for its key (rule 17)
  let prio := s.clasp.rwt.filter (fun e => e.1 == Reg.PWR_PRIO)
  let prio := prio.map (fun e => (⟨0x0601, 0, natLe 1 (((BitVec.ofNat 64 (s.reg e.1)) &&& ~~~e.2.2) ||| (e.2.1 &&& e.2.2)).toNat⟩ : SRec))
  let new_ := mergeRecs (mergeRecs s.setting prio) s.clasp.staged
  let gone := fun (key p : Nat) => s.snat key p - (s.snat key p &&& leNat (recVal new_ key p))
  match s.ruleBroken new_ with
  | some r => some (5, r)
  | none =>
    if s.claspOwners.any (fun p => !s.stopped p) then some (8, 0)
    else if parts16.any (fun p => s.l2.any (fun e => e.2.lock == some p && (gone 0x0304 p).testBit (e.1 % 16))) then some (9, 0)
    else if s.imgs.any (fun e => match e.2 with | some i => (gone 0x0307 i.part).testBit i.wfmt | none => false) then some (0x0A, 0)
    else none

/-! ### Applying a commit (R427) -/

/-- Number of the byte-wide RWT fields written, as the staging record lists them: the bytes of each register that hold a written
field. -/
def rwtBytes (c : Clasp) : List Byte :=
  let one := fun (e : Nat × (W64 × W64)) =>
    ((List.range 8).filter (fun i => bits e.2.2.toNat (8 * i + 7) (8 * i) != 0)).map (fun i => BitVec.ofNat 8 (bits e.2.1.toNat (8 * i + 7) (8 * i)))
  let b := natLe 2 c.id ++ c.rwt.flatMap one
  b ++ List.replicate (8 - b.length) 0

/-- The staging copies of RWT fields become active. -/
def State.putRwt (s : State) : State :=
  s.clasp.rwt.foldl (fun (t : State) (e : Nat × (W64 × W64)) =>
    t.setReg e.1 (((BitVec.ofNat 64 (t.reg e.1)) &&& ~~~e.2.2) ||| (e.2.1 &&& e.2.2)).toNat) s

/-- Does the key of partition `p` differ between two Settings? -/
def keyMoved (a b : List SRec) (keys : List Nat) (p : Nat) : Bool := keys.any (fun k => recVal a k p != recVal b k p)

/-- The owner of a local address in a Setting. -/
def ownerIn (l : List SRec) (a : Nat) : Option Nat :=
  (parts16.filter (recDefined l)).find? (fun p => (pairsOf 16 0 (recVal l 0x0302 p)).any (fun r => covers r.1 r.2 a))

/-- A LEFT chip that staged records name is taken back (R391). -/
def State.readmit (s : State) (l : List SRec) : State :=
  let named := l.flatMap (fun r =>
    match r.key with
    | 0x0801 => [leNat r.val]
    | 0x0802 => [r.idx]
    | 0x0805 => u16s 1024 r.val
    | _ => [])
  let back := s.left.filter named.contains
  let s : State := { s with left := s.left.filter (fun c => !named.contains c), leaves := s.leaves.filter (fun e => !back.contains e.2) }
  back.foldl (fun (t : State) c => match t.spanOf c with | some k => t.setSpanState k 1 | none => t) s

/-- Span states follow the members that a commit changes. -/
def State.spanFollow (s : State) (old : List SRec) : State :=
  (List.range 64).foldl (fun (t : State) k =>
    if (s.withRecs old).spanChip k == t.spanChip k then t else t.setSpanState k (if (t.spanChip k).isSome then 1 else 0)) s

/-- The commit is applied: every unit switches at one instant, and the consequences of the new values begin. -/
def State.claspApply (s : State) : State :=
  let before := s
  let old := s.setting
  let staged := s.clasp.staged
  let new_ := mergeRecs old staged
  let any := fun (k : Nat) => staged.any (fun r => r.key == k)
  let changed := parts16.filter (fun p => staged.any (fun r => r.idx == p && !(partBytes [r] p).isEmpty))
  let split := recVal old 0x0204 0 != recVal new_ 0x0204 0
  let fences := any 0x0A01
  let eff := sha384 (s.effDig ++ s.clasp.deltas.flatten ++ rwtBytes s.clasp)
  let id := s.clasp.id
  -- certifications and promises of a partition whose reservation or MASK changes, or of all when the Gallery split does (R352)
  let hit := fun (p : Nat) => split || keyMoved old new_ [0x0304, 0x0401] p
  let s := (s.voidCmds 1 (fun q _ => hit (s.sq q).part)).dropCerts (fun _ c => hit c.part)
  let s := if split then s.flushMsc else s
  let s := (s.putSetting new_).putRwt
  let s := if any 0x0601 then s.setReg Reg.PWR_PRIO (s.snat 0x0601 0) else s
  let s := if split then s.trimGallery else s
  let s := s.cdatNote before
  -- memory that changes its owner: the Gallery is zero-filled as it leaves a partition (R427; log entry 87), HBM is read under the new
  -- owner's key, the chip's among them (R452)
  let moved := fun (a : Nat) => (ownerIn old a).isSome && ownerIn old a != ownerIn new_ a
  let s := if any 0x0302 then (s.forgetGallery moved).rekeyHbm (fun a => ownerIn old a != ownerIn new_ a) else s
  let s := (parts16.filter (fun p => s.definedPart p && keyMoved old new_ [0x0301, 0x0302] p)).foldl
    (fun (t : State) p => t.newPairs p ((t.keys p).epoch + 1)) s
  -- cores that enter or leave a partition, or are fenced
  let s := if any 0x0301 || fences then
      (List.range 256).foldl (fun (t : State) c =>
        let on := (t.corePart c).isSome && !(t.fence 0 32).testBit c
        let was := ((t.withRecs old).corePart c).isSome && !((t.withRecs old).fence 0 32).testBit c
        if on == was then t else t.modCore c (fun k => { k with sleep := if on then .nap else .off, waking := false })) s
    else s
  let s := ((s.spanFollow old).readmit staged).jobsLost.showStopped
  let s := if fences then s.fenceWays else s
  -- the halves of the Ethernet lanes are independent (R25)
  let s := [0, 1].foldl (fun (t : State) h =>
    if keyMoved old new_ [0x0703] h || ((t.withRecs old).fence 0x25 1).testBit h != (t.fence 0x25 1).testBit h then t.ethHalf h else t) s
  let s := if any 0x0701 || fences then s.portsFollow else s
  let s := if any 0x0802 || any 0x0803 then s.showRoot else s
  let s := if any 0x0602 then (s.setFld Fld.PWR_CAP_CAP (s.snat 0x0602 0)).powerVoid else s
  let s := changed.foldl (fun (t : State) p => t.hmExtend (8 + p) 0x40 0 (sha384 (partBytes t.setting p))) (s.hmExtend 4 0x12 id eff)
  let s : State := { s with effDig := eff }
  let s := (s.bump Fld.SET_COMMIT_CNT_COUNT 1).claspOver
  let s : State := { s with clasp := { s.clasp with busy := true } }
  if fences then s.writeInv else s

/-! ### Commands (R422 to R429) -/

/-- Does a command other than BEGIN name the open transaction and come from its owner? -/
def State.claspMine (s : State) (a : Agent) : Bool :=
  s.clasp.st != .idle && s.clasp.id == s.fld Fld.SET_CLASP_CMD_ID && s.clasp.owner == a

/-- A write of agent `a` has set GO of SET_CLASP_CMD. -/
def State.claspGo (s : State) (a : Agent) : State :=
  let id := s.fld Fld.SET_CLASP_CMD_ID
  match s.fld Fld.SET_CLASP_CMD_OP with
  | 0 =>
    if !precedes 16 (s.fld Fld.SET_CLASP_STATE_LAST_ID) id then s.claspDone 2 3 0
    else if s.clasp.st ≠ .idle || s.fldB Fld.SET_LOAD_CMD_GO then s.claspDone 2 0 0
    else (({ s with clasp := { Clasp.empty with st := .opn, id := id, owner := a, busy := s.clasp.busy } } : State).showClasp).claspDone 0 0 0
  | op =>
    if !s.claspMine a then (if op = 4 then s.claspDone 2 3 0 else s.claspRefuse 3 0)
    else if s.clasp.st = .pending then (if op = 4 then s.claspDone 2 0 0 else s.claspRefuse 0 0)
    else
      match op with
      | 1 =>
        let addr := s.fld Fld.SET_CLASP_ADDR_ADDR
        let len := s.fld Fld.SET_CLASP_LEN_LEN
        if addr % 8 ≠ 0 || len > 1048576 || len = 0 then s.claspDone 1 0 0
        else
          match a with
          | .host => s.pullStart 1 addr len
          | .firmware => s.stagePoll
      | 2 =>
        match s.claspBad with
        | some r => s.claspRefuse r.1 r.2
        | none => s.claspApply
      | 3 =>
        match s.claspBad with
        | some r => s.claspRefuse r.1 r.2
        | none =>
          let p := s.fld Fld.SET_CLASP_CMD_PARTITION
          let i := s.fld Fld.SET_CLASP_CMD_LIDX
          let e := s.flight p i
          if e.st ≠ .armed || e.time.toNat < s.aon.newel.toNat + 1000000 then s.claspRefuse 0x0C 0
          else
            let s : State := { s with clasp := { s.clasp with st := .pending, land := some (p, i) } }
            ((s.setFld Fld.SET_PART_STATE_HELD ((s.claspOwners.map (2 ^ ·)).sum)).showClasp).claspDone 0 0 0
      | _ => s.claspRollback.claspDone 0 0 0

/-- CLASP_TIMEOUT: an OPEN transaction has had no accepted command for SET_CLASP_TIMEOUT. A command that has arrived is taken
first (R434). -/
def execClaspTimeout (s : State) : Out :=
  .next (s.whenRuns (fun s =>
    if s.clasp.st = .opn && s.fld Fld.SET_CLASP_TIMEOUT_LIMIT ≠ 0 && !s.fldB Fld.SET_CLASP_CMD_GO then s.claspRollback.claspDone 4 0 0
    else s))

/-- COMMIT_DONE: the consequences of a commit and its zero fill are over. -/
def execCommitDone (s : State) : Out :=
  .next (s.whenRuns (fun s =>
    if s.clasp.busy then
      let s : State := { s with clasp := { s.clasp with busy := false } }
      -- a commit that a Landing applied ends without a command: a command in progress keeps its GO
      if s.fldB Fld.SET_CLASP_CMD_GO && s.fld Fld.SET_CLASP_CMD_OP != 2 then
        ((s.claspDone 0 0 0)).setFldB Fld.SET_CLASP_CMD_GO true
      else s.claspDone 0 0 0
    else s))

/-! ### The end of CXL.io reads (R317) -/

/-- Images that are being fetched go on. -/
def State.pullAll (s : State) : State := ((((s.pullMore 0).pullMore 1).pullMore 2).pullMore 3).stagePoll

/-- CXL_IO_COMPLETION: a completion returns. One that is no Successful Completion is a Completer Abort or an Unsupported Request, which the
command does not say: a free value takes Received Target Abort or Received Master Abort (R299; log entry 12). -/
def execCxlIoCompletion (tag : Nat) (bytes : List Byte) (ok : Bool) (s : State) : Out :=
  .next (s.ioIn (.cxlIoCompletion tag bytes ok) (fun s =>
    match s.ioSent tag with
    | some t =>
      let s := if ok then s else (let (s, n) := s.takeFree; s.cfgStatus 0x04 (28 + (Config.freeByte n).toNat % 2))
      (s.ioAnswer t (if ok && bytes.length ≥ t.len then some (bytes.take t.len, false) else none)).pullAll
    | none => s))

/-- COMPLETION_TIMEOUT: logged under AER and counted; the requester gets an error response. -/
def execCompletionTimeout (tag : Nat) (s : State) : Out :=
  .next (s.whenRuns (fun s =>
    match s.ioSent tag with
    | some t => (((s.cfgStatus 0x104 14).bump Fld.EP_CPL_TIMEOUT_CNT_COUNT 1).ioAnswer t none).pullAll
    | none => s))

end Sys2Proof.Machine
end

