-- ==== Sys2Proof/Machine/Landings.lean ====
section
/-! DEFINITION. Landings: arming, firing, cancelling and reading entries, Slip, and the Gallery slot (R398 to R406). -/
namespace Sys2Proof.Machine

/-! ### Entries as words (Table 13.6) -/

def LSt.code : LSt → Nat
  | .empty => 0 | .armed => 1 | .fired => 2 | .cancelled => 3

def Landing.word (e : Landing) (w : Nat) : Nat :=
  match w with
  | 0 => e.time.toNat
  | 1 => e.jseq.toNat + e.job * 2 ^ 32 + e.slot * 2 ^ 48
  | 2 => e.period + e.work * 2 ^ 32
  | _ => e.slip + (e.gen + 256 * e.st.code + (if e.late then 2048 else 0)) * 2 ^ 32

/-- NWL_LAND_DATA of a set takes the words of an entry. -/
def State.landShow (s : State) (k p i : Nat) : State :=
  (List.range 4).foldl (fun (t : State) w => t.setReg (Reg.NWL_LAND_DATA k w) ((t.flight p i).word w)) s

def State.landData (s : State) (k w : Nat) : Nat := s.reg (Reg.NWL_LAND_DATA k w)

/-! ### Slip (R403 to R406) -/

/-- ARMED entries of job `j`, by partition and index, those with the earliest TIME first. -/
def State.jobEntries (s : State) (j : Nat) : List (Nat × Nat) :=
  sortBy (fun (a b : Nat × Nat) => decide ((s.flight a.1 a.2).time.toNat ≤ (s.flight b.1 b.2).time.toNat))
    (s.armed.filter (fun e => (s.flight e.1 e.2).job == j))

/-- The largest D among the kept notices of a job that bear on an entry with sequence number `q` (R404). -/
def State.slipFor (s : State) (j q : Nat) : Nat :=
  (s.notes.filter (fun n => n.job == j && !precedes 32 q n.s.toNat)).foldl (fun m n => max m n.d) 0

/-- Keep a notice: the eight most recent of its job stay. -/
def keepNote (l : List SlipNote) (n : SlipNote) : List SlipNote :=
  let mine := l.filter (fun x => x.job == n.job)
  (if mine.length ≥ 8 then (match mine with | x :: _ => l.erase x | [] => l) else l) ++ [n]

/-- Move an entry's TIME by a slip of `d`. -/
def Landing.slipTo (e : Landing) (d : Nat) : Landing :=
  { e with slip := max e.slip d, time := e.time0 + BitVec.ofNat 64 (max e.slip d) }

/-- Apply slip (J, s, D); the increase of the next entry's SLIP is counted. -/
def State.slipApply (s : State) (j q d : Nat) : State :=
  let l := s.jobEntries j
  let next := l.head?
  let before := match next with | some e => (s.flight e.1 e.2).slip | none => 0
  let s := (l.filter (fun e => !precedes 32 (s.flight e.1 e.2).jseq.toNat q)).foldl
    (fun (t : State) e => t.setFlight e.1 e.2 ((t.flight e.1 e.2).slipTo d)) s
  let after := match next with | some e => (s.flight e.1 e.2).slip | none => 0
  ({ s with notes := keepNote s.notes ⟨j, BitVec.ofNat 32 q, d⟩ } : State).bump Fld.NWL_SLIP_NS_CNT_COUNT (after - before)

/-- Has this chip fired the Landing of job `j` with sequence number `q`, as the entries that the Flight holds tell? -/
def State.hasFired (s : State) (j q : Nat) : Bool :=
  s.flights.any (fun (x : Nat × Landing) =>
    let e := x.2
    e.job == j &&
      ((e.st == .fired && e.jseq.toNat == q) ||
        (e.st != .fired && precedes 32 q e.jseq.toNat && decide (distance 32 q e.jseq.toNat ≤ e.fires))))

/-- SLIP: a notice from another member of a job. -/
def execSlip (m : Msg) (s : State) : Out :=
  .next (s.whenRuns (fun s =>
    match s.takeMsg m 0x62 with
    | none => s
    | some s =>
      let j := at' m.data 0 2
      let q := at' m.data 4 4
      let s := s.bump Fld.NWL_SLIP_RCVD_CNT_COUNT 1
      -- JOB 0 names local Landings, which have no Slip (Table 13.6)
      if j = 0 then s
      else
        let s := if s.hasFired j q then s.bump Fld.NWL_SLIP_MISS_CNT_COUNT 1 else s
        s.slipApply j q (at' m.data 8 4)))

/-- The clock to which job `j` lowers the cores of partition `p`; 2,000 lowers nothing (R406). -/
def State.setSlipClk (s : State) (p j f : Nat) : State := s.modPwr (fun w => { w with slipClk := SMap.set maxCore w.slipClk (65536 * p + j) f })

/-- SLIP_PREDICTION: every 1 µs, for the next ARMED entry of a job with WORK not zero, from the nominal work done since the last
firing and the lowest clock among the partition's awake cores (R403). Its operands are what the governor has read of these two: a prediction
from other values does not happen (log entry 91). A prediction that lowers no clock lifts what an earlier one has lowered (R406). -/
def execSlipPrediction (part : Fin 16) (job : W16) (work : Nat) (clockMHz : Nat) (s : State) : Out :=
  .next (s.whenService (fun s =>
    let j := job.toNat
    match (s.jobEntries j).find? (fun e => e.1 == part.val && (s.flight e.1 e.2).work != 0) with
    | none => s.setSlipClk part j 2000
    | some i =>
      let done := (SMap.get noWork s.jobWork (65536 * part + j)).getD 0
      if j = 0 || clockMHz = 0 || clockMHz ≠ s.partClock part || work ≠ done / 2000 then s
      else
        let e := s.flight i.1 i.2
        let now : Int := s.aon.newel.toNat
        -- WORK − P in MHz × ns
        let left : Int := (e.work * 2000 : Int) - done
        let ready := now + left.tdiv clockMHz
        let margin : Int := 16 * s.fld Fld.NWL_SLIP_CFG_MARGIN
        let s :=
          if ready - e.time.toNat > 16 * s.fld Fld.NWL_SLIP_CFG_THRESH then
            let d := ((ready + margin - e.time0.toNat).toNat + 15) / 16 * 16 % 2 ^ 32
            let note := natLe 2 j ++ [0, 0] ++ natLe 4 e.jseq.toNat ++ natLe 4 d ++ natLe 2 s.chip
            ((s.slipApply j e.jseq.toNat d).sendJob j 0x62 note).bump Fld.NWL_SLIP_SENT_CNT_COUNT 1
          else s
        -- ECO (R406)
        let e := s.flight i.1 i.2
        let span := (e.time.toNat : Int) - margin - now
        s.setSlipClk part j (if !s.fldB Fld.NWL_SLIP_CFG_ECO || e.slip = 0 || span ≤ 0 then 2000
          else min 2000 (max 1000 (ceilDiv (ceilDiv left.toNat span.toNat) 25 * 25)))))

/-! ### Firing (R399, R402) -/

def noOpen (_ : Nat) : W64 := 0

/-- Has a partition an open Gallery slot, in which its Class 0 accesses take the second place of R219? -/
def State.slotOpen (s : State) (p : Nat) : Bool := decide (s.aon.newel.toNat < (SMap.get noOpen s.slots p).toNat)

/-- A Landing of job `j` has fired: its work is counted anew, and the clock that it has lowered in partition `p` returns (R403, R406). -/
def State.newRound (s : State) (p j : Nat) : State :=
  let k := 65536 * p + j
  let l := SMap.set noWork (s.jobWork.map (fun x => if x.1 % 65536 = j then (x.1, some 0) else x)) k (some 0)
  ({ s with jobWork := l } : State).setSlipClk p j 2000

/-- The Landing entry fires: every action bound to it launches. -/
def State.landFire (s : State) (p i : Nat) : State :=
  let e := s.flight p i
  let e : Landing := { e with late := decide (e.time.toNat < s.aon.newel.toNat), firedAt := s.aon.newel, gen := (e.gen + 1) % 256, fires := e.fires + 1 }
  let e : Landing := if e.period = 0 then { e with st := .fired } else
    { e with time0 := e.time0 + BitVec.ofNat 64 e.period, time := e.time + BitVec.ofNat 64 e.period, jseq := e.jseq + 1 }
  let s := (s.setFlight p i e).bump Fld.NWL_FIRE_CNT_COUNT 1
  let s := if e.job = 0 then s else s.newRound p e.job
  let s : State := if e.slot = 0 then s else
    { s with slots := SMap.set noOpen s.slots p (BitVec.ofNat 64 (max (SMap.get noOpen s.slots p).toNat (s.aon.newel.toNat + 16 * e.slot))) }
  let s := if s.clasp.st = .pending && s.clasp.land = some (p, i) then s.claspApply else s
  (s.lwaitEnd p i 0).landingStart p i

/-- LANDING_FIRE: Newel reaches the TIME of an ARMED entry; entries with an earlier TIME fire before it. -/
def execLandingFire (part : Fin 16) (idx : Fin 256) (s : State) : Out :=
  .next (s.whenService (fun s =>
    let e := s.flight part idx
    let now := s.aon.newel.toNat
    let first := s.armed.all (fun x => decide (e.time.toNat ≤ (s.flight x.1 x.2).time.toNat))
    if e.st ≠ .armed || !(e.time.toNat ≤ now || first) then s
    else
      let s := s.workOn (e.time.toNat - now)
      let s : State := { s with aon := { s.aon with newel := BitVec.ofNat 64 (max now e.time.toNat) } }
      s.landFire part idx))

/-- Has the TIME of an ARMED entry come? A cancel that meets it in the same cycle is refused: the entry fires (Table 13.11, R434). -/
def State.due (s : State) (p i : Nat) : Bool := (s.flight p i).st == .armed && decide ((s.flight p i).time.toNat ≤ s.aon.newel.toNat)

/-- JOB_CANCEL: ARMED entries of the job from its JSEQ on are cancelled (R401), but those whose time has come, which fire. -/
def execJobCancel (m : Msg) (s : State) : Out :=
  .next (s.whenRuns (fun s =>
    match s.takeMsg m 0x63 with
    | none => s
    | some s =>
      let j := at' m.data 0 2
      let q := at' m.data 4 4
      let s := if j = 0 then s else
        (s.armed.filter (fun e => (s.flight e.1 e.2).job == j && !(precedes 32 (s.flight e.1 e.2).jseq.toNat q) && s.due e.1 e.2)).foldl
          (fun (t : State) e => if t.due e.1 e.2 then t.landFire e.1 e.2 else t) s
      s.jobCancel j q))

/-! ### Commands (R400, R412) -/

/-- The outcome of a command of set `k`. -/
def State.landEnd (s : State) (k r : Nat) : State :=
  ((s.setFldB (Fld.NWL_LAND_CMD_GO k) false).setFldB (Fld.NWL_LAND_STATUS_DONE k) true).setFld (Fld.NWL_LAND_STATUS_RESULT k) r

/-- Has the entry in the data words a reserved field set, or WORK above PERIOD? -/
def State.landBad (s : State) (k : Nat) : Bool :=
  let period := bits (s.landData k 2) 31 0
  bits (s.landData k 3) 63 44 != 0 || (period != 0 && decide (bits (s.landData k 2) 63 32 > period))

/-- Arm an entry from the data words. An entry whose TIME has passed fires at once. -/
def State.landArm (s : State) (k p i : Nat) : State :=
  let w := s.landData k
  let job := bits (w 1) 47 32
  let q := bits (w 1) 31 0
  let slip := if job = 0 then 0 else s.slipFor job q
  let e : Landing := { time0 := BitVec.ofNat 64 (w 0), time := BitVec.ofNat 64 (w 0 + slip), jseq := BitVec.ofNat 32 q, job := job,
                       slot := bits (w 1) 63 48, period := bits (w 2) 31 0, work := bits (w 2) 63 32, slip := slip, gen := 0,
                       st := .armed, late := false, firedAt := 0, fires := 0 }
  let s := s.setFlight p i e
  -- the job's work is counted from here where none of its Landings has fired (R403)
  let s : State := if job = 0 || (SMap.get noWork s.jobWork (65536 * p + job)).isSome then s else
    { s with jobWork := SMap.set noWork s.jobWork (65536 * p + job) (some 0) }
  if e.time.toNat ≤ s.aon.newel.toNat then s.landFire p i else s

/-- A write has set GO of NWL_LAND_CMD of set `k`. -/
def State.landGo (s : State) (k : Nat) : State :=
  let p := s.fld (Fld.NWL_LAND_SEL_PARTITION k)
  let i := s.fld (Fld.NWL_LAND_SEL_INDEX k)
  let e := s.flight p i
  if k = 1 && !s.fldB (Fld.NWL_FLIGHT_HOST p) then s.landEnd k 2
  else if i ≥ s.fld (Fld.NWL_FLIGHT_N p) then s.landEnd k 1
  else
    let r : State × Nat := match s.fld (Fld.NWL_LAND_CMD_OP k) with
      | 0 => if e.st = .armed then (s, 3) else if s.landBad k then (s, 1) else (s.landArm k p i, 0)
      | 1 => if s.due p i then (s.landFire p i, 3) else if e.st = .armed then (s.landCancel p i, 0) else if e.st = .empty && s.landBad k then (s, 1) else (s, 3)
      | 2 =>
        if s.due p i then (s.landFire p i, 3)
        else if e.st = .armed then
          let t := s.landCancel p i
          (if e.job = 0 then t else t.sendJob e.job 0x63 (natLe 2 e.job ++ [0, 0] ++ natLe 4 e.jseq.toNat), 0)
        else if e.st = .empty && s.landBad k then (s, 1) else (s, 3)
      | 3 =>
        if e.st = .armed then (s, 3)
        else if e.st = .empty && s.landBad k then (s, 1)
        else (s.setFlight p i Landing.empty, 0)
      | _ => (s, 0)
    (r.1.landShow k p i).landEnd k r.2

end Sys2Proof.Machine
end

