-- ==== Sys2Proof/Machine/Security.lean ====
section
/-! DEFINITION. The commands of the security channels: firmware, owners, model keys and debug unlock (R438, R442, R448 to R450, R459,
R460). -/
namespace Sys2Proof.Machine

/-- SEC_CMD's end with its outcome. -/
def State.secEnd (s : State) (c r : Nat) : State :=
  (((s.pullEnd (2 + c)).setFldB (Fld.SEC_CMD_GO c) false).setFldB (Fld.SEC_CMD_STATUS_DONE c) true).setFld (Fld.SEC_CMD_STATUS_RESULT c) r

def State.secOp (s : State) (c : Nat) : Nat := s.fld (Fld.SEC_CMD_OP c)
def State.secPart (s : State) (c : Nat) : Nat := s.fld (Fld.SEC_CMD_PARTITION c)

/-- How many bytes the command reads at its address; zero: none. -/
def State.secLen (s : State) (c : Nat) : Nat :=
  match s.secOp c with
  | 0 | 2 | 6 | 7 => s.fld (Fld.SEC_CMD_LEN_LEN c)
  | 5 => 48
  | _ => 0

/-- Is LEN one that the command's OP takes? -/
def State.secLenOk (s : State) (c : Nat) : Bool :=
  let n := s.fld (Fld.SEC_CMD_LEN_LEN c)
  match s.secOp c with
  | 0 => n != 0 && decide (n ≤ 4194304)
  | 2 => n == 1760
  | 6 => n == 7460
  | 7 => n == 7412
  | _ => true

/-- The fuse state that H2 measures: the owner slots, the fused SVN and the debug policy fuses (Table 15.5). -/
def State.fuseBytes (s : State) : List Byte :=
  (List.range 4).flatMap (fun i => s.aon.owners.getD i zeros48) ++ natLe 1 s.aon.fuseSvn ++ [Config.policyFuses]

/-- H2 is extended by the fuse state. -/
def State.fuseEvent (s : State) : State := s.hmExtend 2 0x0003 0 (sha384 s.fuseBytes)

/-- Do the authority's keys have digest `d`, and do both of its signatures over `msg` verify (R438, R459)? -/
def signedBy (d keys msg sigs : List Byte) : Bool :=
  sha384 keys == d && Config.ecdsaOk (keys.take 97) msg (sigs.take 96) && Config.mldsaOk (keys.drop 97) msg ((sigs.drop 96).take 4627)

/-! ### Firmware (R442) -/

/-- An image is refused: where no firmware runs, the control cores stay held. -/
def State.fwRefuse (s : State) : State := { s with rot := { s.rot with refused := s.rot.fw.isNone } }

/-- What the alias keys are derived from: H0 and H1, as firmware first started (R437; log entry 135). -/
def State.aliasOf (s : State) : List Byte := s.rot.alias_.getD (s.hm 0 ++ s.hm 1)

/-- OP load-firmware on an image. -/
def State.fwLoad (s : State) (img : List Byte) : State × Nat :=
  if !(Config.ecdsaOk Config.fwKeyEc img [] && Config.mldsaOk Config.fwKeyMl img []) then (s.fwRefuse, 4)
  else
    let svn := Config.fwSvn img
    if svn < s.aon.fuseSvn then (s.fwRefuse, 2)
    else
      let s := ((s.setFldB Fld.SEC_STATUS_FW_OK true).setFld Fld.SEC_FW_SVN_RUNNING svn).hmExtend 1 0x0002 0 (sha384 img)
      ({ s with rot := { s.rot with fw := some (img, svn), refused := false, alias_ := some s.aliasOf } }, 0)

/-- OP raise-SVN. -/
def State.svnRaise (s : State) : State × Nat :=
  match s.rot.fw with
  | none => (s, 2)
  | some f => ({ s with aon := { s.aon with fuseSvn := max s.aon.fuseSvn (min f.2 64) } }, 0)

/-! ### Model keys (R449, R450) -/

/-- Is a field of the blob's form wrong: MAGIC, VER, MODE, a reserved field, or a part that its MODE leaves out? -/
def blobBad (b : List Byte) : Bool :=
  let mode := at' b 6 1
  b.length != 1760 || at' b 0 4 != 0x574B4C50 || at' b 4 2 != 1 || mode == 0 || decide (mode > 3) || at' b 0x15 3 != 0 ||
    at' b 0x24 4 != 0 || (!mode.testBit 0 && !allZero ((b.drop 0x28).take 1568)) ||
    (!mode.testBit 1 && !allZero ((b.drop 0x648).take 97)) || at' b 0x6A9 7 != 0

/-- The key-encryption key of a blob for the private keys of generation `g` (R449). -/
def kek (g : Nat) (b : List Byte) : List Byte :=
  let mode := at' b 6 1
  let ikm := (if mode.testBit 0 then natLe 32 (Config.ssKem g ((b.drop 0x28).take 1568)).toNat else []) ++
    (if mode.testBit 1 then natBe 48 (Config.ssEcdh g ((b.drop 0x648).take 97)).toNat else [])
  hkdfExpand (hkdfExtract ((b.drop 0x18).take 12) ikm) (b.take 0x18)

/-- OP install on a blob, for partition `p` and slot `k`. -/
def State.keyInstall (s : State) (p k : Nat) (b : List Byte) : State × Nat :=
  let ks := s.keys p
  if blobBad b then (s, 1)
  else if at' b 8 8 ≠ Config.serial.toNat || at' b 0x14 1 ≠ p || at' b 7 1 ≠ k || !s.definedPart p || !ks.defd ||
      at' b 0x10 4 ≠ ks.epoch || !(SMap.get noSlot ks.slots k).isEmpty then (s, 2)
  else
    match Config.gcmOpen (kek (16 * ks.keyGen + p) b) ((b.drop 0x18).take 12) (b.take 0x28) ((b.drop 0x6B0).take 48) with
    | none => (s.bump Fld.SEC_UNWRAP_FAIL_CNT_COUNT 1, 4)
    | some key =>
      let s := s.setKeys p { ks with slots := SMap.set noSlot ks.slots k ((key ++ List.replicate 32 0).take 32) }
      (s.hmExtend (8 + p) 0x0043 k (sha384 b), 0)

/-- OP erase. -/
def State.keyErase (s : State) (p k : Nat) : State × Nat :=
  if !s.definedPart p then (s, 2)
  else
    let ks := s.keys p
    ((s.setKeys p { ks with slots := SMap.set noSlot ks.slots k [] }).hmExtend (8 + p) 0x0044 k zeros48, 0)

/-- The public keys of partition `p` in their generation. -/
def State.pubKeys (s : State) (p : Nat) : List Byte :=
  let g := (s.keys p).keyGen
  natLe 1568 (Config.kemPub g p).toNat ++ natBe 97 (Config.ecdhPub g p).toNat

/-- OP rekey: new key pairs under the next EPOCH. -/
def State.rekey (s : State) (p : Nat) : State × Nat :=
  if !s.definedPart p then (s, 2)
  else
    let s := s.newPairs p (((s.keys p).epoch + 1) % 2 ^ 32)
    (s.hmExtend (8 + p) 0x0045 0 (sha384 (s.pubKeys p)), 0)

/-! ### Owners (R438) and debug (R459) -/

/-- OP claim with a digest. -/
def State.ownClaim (s : State) (d : List Byte) : State × Nat :=
  if s.aon.dev ≠ .vestibule || !s.aon.owners.isEmpty then (s, 2)
  else (({ s with aon := { s.aon with owners := [d] } } : State).fuseEvent, 0)

/-- OP transfer with a token. -/
def State.ownTransfer (s : State) (t : List Byte) : State × Nat :=
  match s.aon.owners.getLast? with
  | none => (s, 2)
  | some d =>
    let new_ := t.take 48
    let msg := natLe 8 Config.serial.toNat ++ new_ ++ natLe 1 (s.aon.owners.length - 1)
    if s.aon.owners.length ≥ 4 then (s, 2)
    else if !signedBy d ((t.drop 48).take 2689) msg (t.drop 2737) then (s, 4)
    else (({ s with aon := { s.aon with owners := s.aon.owners ++ [new_] } } : State).fuseEvent, 0)

/-- The bytes of "unlock". -/
def unlockWord : List Byte := [0x75, 0x6E, 0x6C, 0x6F, 0x63, 0x6B]

/-- OP unlock with a token. -/
def State.debugOpen (s : State) (t : List Byte) : State × Nat :=
  let msg := natLe 8 Config.serial.toNat ++ natLe 8 (Config.debugNonce s.aon.nonceCtr).toNat ++ unlockWord
  let r : State × Nat := match s.aon.owners.getLast? with
    | none => (s, 2)
    | some d =>
      if s.fld Fld.SEC_STATUS_DEBUG ≠ 1 || !s.allStopped then (s, 2)
      else if !signedBy d (t.take 2689) msg (t.drop 2689) then (s, 4)
      else (s.unlock t, 0)
  ({ r.1 with aon := { r.1.aon with nonceCtr := r.1.aon.nonceCtr + 1 } }, r.2)

/-! ### The channels -/

/-- The bytes that the command reads: `some none`: they cannot be read; `none`: not yet. -/
def State.secSource (s : State) (c : Nat) : State × Option (Option (List Byte)) :=
  let n := s.secLen c
  if n = 0 then (s, some (some []))
  else if c = 1 then
    match s.pulled 3 with
    | some r => (s, some r)
    | none => (s.pullMore 3, none)
  else
    let a := s.fld (Fld.SEC_CMD_ADDR_ADDR c)
    if !s.unitOk a n then (s, some none)
    else
      match s.unitRead 0 a n with
      | (s, some (some (b, false))) => (s, some (some b))
      | (s, some _) => (s, some none)
      | (s, none) => (s, none)

/-- The command's effect once its bytes are there. -/
def State.secRun (s : State) (c : Nat) (b : List Byte) : State × Nat :=
  match s.secOp c with
  | 0 => s.fwLoad b
  | 1 => s.svnRaise
  | 2 => s.keyInstall (s.secPart c) (s.fld (Fld.SEC_CMD_SLOT c)) b
  | 3 => s.keyErase (s.secPart c) (s.fld (Fld.SEC_CMD_SLOT c))
  | 4 => s.rekey (s.secPart c)
  | 5 => s.ownClaim b
  | 6 => s.ownTransfer b
  | _ => s.debugOpen b

/-- A write has set GO of SEC_CMD of channel `c`: an erase ends at once, and the host's images begin to be read. -/
def State.secGo (s : State) (c : Nat) : State :=
  if s.secOp c = 3 then
    let r := s.secRun c []
    r.1.secEnd c r.2
  else if c = 1 && s.secLenOk c && s.secLen c != 0 then s.pullStart 3 (s.fld (Fld.SEC_CMD_ADDR_ADDR c)) (s.secLen c)
  else s

/-- The command ends with an argument error; an unlock was attempted all the same, and draws the next nonce (R459). -/
def State.secFail (s : State) (c : Nat) : State :=
  let s : State := if s.secOp c = 7 then { s with aon := { s.aon with nonceCtr := s.aon.nonceCtr + 1 } } else s
  s.secEnd c 1

/-- SECURITY_COMMAND_DONE: the command of the channel ends. An install waits for a rekey of its partition on the other channel
(R460). -/
def execSecurityCommandDone (ch : Fin 2) (s : State) : Out :=
  .next (s.whenRuns (fun s =>
    let c := ch.val
    let o := 1 - c
    if !s.fldB (Fld.SEC_CMD_GO c) then s
    else if s.secOp c = 2 && s.fldB (Fld.SEC_CMD_GO o) && s.secOp o = 4 && s.secPart o = s.secPart c then s
    else if !s.secLenOk c then s.secFail c
    else
      match s.secSource c with
      | (s, none) => s
      | (s, some none) => s.secFail c
      | (s, some (some b)) =>
        let r := s.secRun c b
        r.1.secEnd c r.2))

end Sys2Proof.Machine
end

