-- ==== Sys2Proof/Machine/Evidence.lean ====
section
/-! DEFINITION. The root of trust as an SPDM responder, its quote and its log, the other DOE protocols, and the sideband endpoint
(R28, R308, R311, R444 to R447, R498). -/
namespace Sys2Proof.Machine

/-! ### Transports -/

/-- Does the root of trust answer on a transport? Configuration requests reach the DOE mailbox in every power state (R302). -/
def State.answers (s : State) : Transport → Bool
  | .doe => s.ioHere
  | .mctpSmbus => s.aon.vdd && !s.aon.cold && !s.aon.warm && (s.aon.dev == .vestibule || s.aon.dev == .service)
  | .mctpCxl => s.ioHere && !s.inD3 && s.ep.cont == .normal

/-- The data objects that carry a message through the mailbox: a longer one goes in parts that fill the largest object with its header
(R308, and CHUNK of Table 15.6). -/
def doeParts (m : List Byte) : List (List Byte) :=
  let n := 4 * (doeMax - 2)
  if m.length ≤ n then [m] else (List.range ((m.length + n - 1) / n)).map (fun i => (m.drop (n * i)).take n)

/-- Send a message on a transport. -/
def State.reply (s : State) (t : Transport) (m : List Byte) : State :=
  match t with
  | .mctpSmbus => { s with rot := { s.rot with smbTx := s.rot.smbTx ++ [m] } }
  | .mctpCxl => s.hostSend (.doe m)
  | .doe => (doeParts m).foldl (fun t p => t.hostSend (.doe p)) s

/-- A request that `f` answers where the root of trust answers on its transport; one that the host sends waits for its turn (R306,
R318). -/
def State.spdmIn (s : State) (t : Transport) (c : Instr) (f : State → State) : State :=
  if s.answers t then f s else if t != .mctpSmbus && s.linkBusy 1 then s.keepIn c else s

def tCode : Transport → Nat
  | .doe => 0 | .mctpSmbus => 1 | .mctpCxl => 2

def notYet (_ : Nat) : Bool := false

/-- Have algorithms been negotiated on a transport? -/
def State.negotiated (s : State) (t : Transport) : Bool := SMap.get notYet s.rot.neg (tCode t)

def State.setNeg (s : State) (t : Transport) (b : Bool) : State :=
  { s with rot := { s.rot with neg := SMap.set notYet s.rot.neg (tCode t) b } }

/-- A response: its code, then its content (the framing that SPDM 1.3 gives is left out). -/
def spdm (code : Nat) (content : List Byte) : List Byte := BitVec.ofNat 8 code :: content

/-- A response whose content SPDM 1.3 alone defines. -/
def spdmOf (code : Nat) (args : List Byte) : List Byte := spdm code (Config.spdmBody code args)

/-- The ERROR response. -/
def spdmErr (e : Nat) : List Byte := spdm 0x7F [BitVec.ofNat 8 e, 0]

def errInvalid : List Byte := spdmErr 0x01
def errUnexpected : List Byte := spdmErr 0x04
def errSessions : List Byte := spdmErr 0x0A
def errSession : List Byte := spdmErr 0x02

/-- An answer on a transport that is there, after negotiation. -/
def State.spdmAsk (s : State) (t : Transport) (c : Instr) (f : State → State) : State :=
  s.spdmIn t c (fun s => if !s.negotiated t then s.reply t errUnexpected else f s)

/-! ### Requests of SPDM (R444, R445) -/

/-- GET_VERSION: a new connection begins. -/
def execGetVersion (t : Transport) (s : State) : Out :=
  .next (s.spdmIn t (.getVersion t) (fun s => (s.setNeg t false).reply t (spdm 0x04 [0x00, 0x12, 0x00, 0x13])))

/-- The capabilities of Table 15.6 in the flags of SPDM 1.3: CERT, CHAL, MEAS with signature, ENCRYPT, MAC, KEY_EX, HBEAT, KEY_UPD and CHUNK
(bits 1, 2, 4, 6, 7, 9, 13, 14 and 17: PRESUMED, log entry 94). -/
def spdmCaps : Nat := 0x262D6

/-- The algorithms of Table 15.6 as SPDM 1.3 selects them: DMTF measurements, SHA-384 for measurements, ECDSA P-384, SHA-384, secp384r1,
AES-256-GCM (PRESUMED, log entry 94). -/
def spdmAlgs : List Byte := natLe 1 1 ++ natLe 4 4 ++ natLe 4 0x80 ++ natLe 4 2 ++ natLe 2 0x10 ++ natLe 2 2

/-- GET_CAPABILITIES: the capabilities of Table 15.6. -/
def execGetCapabilities (t : Transport) (s : State) : Out :=
  .next (s.spdmIn t (.getCapabilities t) (fun s => s.reply t (spdm 0x61 (natLe 4 spdmCaps ++ Config.spdmBody 0x61 []))))

/-- NEGOTIATE_ALGORITHMS: accepted when the requester offers the algorithms of Table 15.6. -/
def execNegotiateAlgorithms (t : Transport) (acceptable : Bool) (s : State) : Out :=
  .next (s.spdmIn t (.negotiateAlgorithms t acceptable) (fun s =>
    if acceptable then (s.setNeg t true).reply t (spdm 0x63 (spdmAlgs ++ Config.spdmBody 0x63 [])) else s.reply t errInvalid))

/-- GET_CERTIFICATE: a part of the chain of slot 0. -/
def execGetCertificate (t : Transport) (slot : Fin 8) (offset length : W16) (s : State) : Out :=
  .next (s.spdmAsk t (.getCertificate t slot offset length) (fun s =>
    let chain := Config.certChain s.aliasOf
    let b := (chain.drop offset.toNat).take length.toNat
    if slot.val ≠ 0 || offset.toNat ≥ chain.length then s.reply t errInvalid
    else s.reply t (spdm 0x02 (natLe 2 b.length ++ natLe 2 (chain.length - offset.toNat - b.length) ++ b))))

/-- CHALLENGE. -/
def execChallenge (t : Transport) (slot : Fin 8) (nonce : BitVec 256) (s : State) : Out :=
  .next (s.spdmAsk t (.challenge t slot nonce) (fun s =>
    if slot.val ≠ 0 then s.reply t errInvalid
    else s.reply t (spdmOf 0x03 (natBe 32 nonce.toNat ++ (List.range 24).flatMap s.hm))))

/-- The type of the measurement of register `n`. -/
def measType (n : Nat) : Nat := match n with | 0 => 0 | 1 => 1 | 2 => 2 | 5 => 5 | _ => 3

/-- A measurement block: index, type and digest of register `n`. -/
def State.measOf (s : State) (n : Nat) : List Byte := natLe 1 (n + 1) ++ natLe 1 (measType n) ++ natLe 2 48 ++ s.hm n

/-- GET_MEASUREMENTS: index n + 1 returns Hn; 0xFF returns all; index 0 asks for their number. -/
def execGetMeasurements (t : Transport) (index : Byte) (nonce : BitVec 256) (s : State) : Out :=
  .next (s.spdmAsk t (.getMeasurements t index nonce) (fun s =>
    let i := index.toNat
    if i = 0 then s.reply t (spdm 0x60 [24])
    else if i ≤ 24 || i = 255 then
      let m := if i = 255 then (List.range 24).flatMap s.measOf else s.measOf (i - 1)
      s.reply t (spdm 0x60 (m ++ Config.spdmBody 0x60 (natBe 32 nonce.toNat ++ m)))
    else s.reply t errInvalid))

/-- KEY_EXCHANGE: a session opens, of at most four. -/
def execKeyExchange (t : Transport) (slot : Fin 8) (s : State) : Out :=
  .next (s.spdmAsk t (.keyExchange t slot) (fun s =>
    if slot.val ≠ 0 then s.reply t errInvalid
    else if s.rot.sess.length ≥ 4 then s.reply t errSessions
    else
      let id := BitVec.ofNat 32 s.rot.nextSess
      let s : State := { s with rot := { s.rot with sess := s.rot.sess ++ [⟨id, t, 0, 0⟩], nextSess := s.rot.nextSess + 1 } }
      (s.bump Fld.SEC_SESSION_CNT_COUNT 1).reply t (spdm 0x64 (natLe 4 id.toNat ++ Config.spdmBody 0x64 (natLe 4 id.toNat)))))

/-- Is the session open on the transport? -/
def State.sessOn (s : State) (t : Transport) (id : W32) : Bool := s.rot.sess.any (fun x => x.id == id && x.transport == t)

/-- A response within a session leaves as a secured message (ENCRYPT and MAC of Table 15.6). -/
def State.replyIn (s : State) (t : Transport) (id : W32) (m : List Byte) : State :=
  match s.rot.sess.find? (fun x => x.id == id && x.transport == t) with
  | some x =>
    let s : State := { s with rot := { s.rot with sess := s.rot.sess.map (fun y => if y.id == id then { y with sent := y.sent + 1 } else y) } }
    s.reply t (natLe 4 id.toNat ++ Config.secured id.toNat x.keyGen x.sent m)
  | none => s.reply t errSession

/-- HEARTBEAT. -/
def execHeartbeat (t : Transport) (session : W32) (s : State) : Out :=
  .next (s.spdmAsk t (.heartbeat t session) (fun s => s.replyIn t session (spdmOf 0x68 (natLe 4 session.toNat))))

/-- KEY_UPDATE: the session goes on under its next keys. -/
def execKeyUpdate (t : Transport) (session : W32) (s : State) : Out :=
  .next (s.spdmAsk t (.keyUpdate t session) (fun s =>
    if s.sessOn t session then
      let s : State := { s with rot := { s.rot with
        sess := s.rot.sess.map (fun x => if x.id == session then { x with keyGen := x.keyGen + 1, sent := 0 } else x) } }
      s.replyIn t session (spdmOf 0x69 (natLe 4 session.toNat))
    else s.reply t errSession))

/-! ### Vendor-defined requests (R446) -/

/-- Bytes 0x000 to 0xB77 of a quote (Table 15.7). -/
def State.quoteBody (s : State) (nonce : BitVec 256) (part : Nat) : List Byte :=
  let k := s.keys part
  let mine := part < 16 && s.definedPart part && k.defd
  let flags := (if s.fldB Fld.SEC_STATUS_LOG_OVF then 1 else 0) + (if s.fldB Fld.SEC_STATUS_UNLOCKED then 2 else 0)
  natLe 4 0x51484C50 ++ natLe 2 1 ++ natLe 1 part ++ natLe 1 flags ++ natLe 8 Config.serial.toNat ++ natLe 8 s.aon.newel.toNat ++
    natBe 32 nonce.toNat ++ s.effDig ++ (List.range 24).flatMap s.hm ++
    (if mine then natLe 4 k.epoch ++ natLe 4 0 ++ s.pubKeys part ++ List.replicate 7 0 else List.replicate 1680 0)

/-- A quote with both alias signatures. -/
def State.quote (s : State) (nonce : BitVec 256) (part : Nat) : List Byte :=
  let b := s.quoteBody nonce part
  b ++ natBe 96 (Config.aliasEc s.aliasOf b).toNat ++ natLe 4627 (Config.aliasMl s.aliasOf b).toNat

/-- GET_QUOTE. -/
def execGetQuote (t : Transport) (nonce : BitVec 256) (part : Byte) (s : State) : Out :=
  .next (s.spdmIn t (.getQuote t nonce part) (fun s => s.reply t (spdm 0x7E (s.quote nonce part.toNat))))

/-- GET_LOG: up to 128 entries from a sequence number on. -/
def execGetLog (t : Transport) (first : W32) (count : Nat) (s : State) : Out :=
  .next (s.spdmIn t (.getLog t first count) (fun s =>
  if count > 128 then s.reply t errInvalid
  else
    let l := (s.rot.log.filter (fun e => !precedes 32 e.seq first.toNat)).take count
    s.reply t (spdm 0x7E (l.flatMap (fun e => natLe 4 e.seq ++ hevBytes e)))))

/-- GET_PQ_CHAIN: the ML-DSA-87 chain. -/
def execGetPqChain (t : Transport) (s : State) : Out :=
  .next (s.spdmIn t (.getPqChain t) (fun s => s.reply t (spdm 0x7E (Config.pqChain s.aliasOf))))

/-! ### DOE discovery and CDAT (R308, R311) -/

/-- DOE_DISCOVERY: the protocol with an index, and the next index. -/
def execDoeDiscovery (index : Byte) (s : State) : Out :=
  .next (s.ioIn (.doeDiscovery index) (fun s => s.hostSend (.doe (doeFound index.toNat))))

/-- CDAT_TABLE_ACCESS: the entry with a handle, the header for handle 0, and the next handle. -/
def execCdatTableAccess (entry : W16) (s : State) : Out :=
  .next (s.ioIn (.cdatTableAccess entry) (fun s => s.hostSend (.doe (s.cdatFound entry.toNat))))

/-! ### The sideband endpoint (R28, R447, R498) -/

/-- Does the sideband answer? It runs in the always-on domain (Table 17.1). -/
def State.sideband (s : State) : Bool := s.aon.vdd && !s.aon.cold

def State.smbSend (s : State) (m : List Byte) : State := { s with rot := { s.rot with smbTx := s.rot.smbTx ++ [m] } }

/-- SET_ENDPOINT_ID: the bus owner's MCTP control request; 0x00 and 0xFF are no endpoint IDs. -/
def execSetEndpointId (eid : Byte) (s : State) : Out :=
  .next (if !s.sideband then s
  else if eid = 0 || eid = 255 then s.smbSend [0x02]
  else ({ s with aon := { s.aon with eid := eid } } : State).smbSend [0x00, 0x00, eid, 0x00])

/-- The SMBus target address (R28). -/
def State.smbAddress (s : State) : Byte := 0x60 + s.aon.smbAddr.setWidth 8

/-- ALERT_RESPONSE: while smb_alert_n is low the address is returned, and smb_alert_n is released. -/
def execAlertResponse (s : State) : Out :=
  .next (if s.sideband && s.aon.alert then ({ s with aon := { s.aon with alert := false } } : State).smbSend [s.smbAddress] else s)

end Sys2Proof.Machine
end

