-- ==== Sys2Proof/Machine/Views.lean ====
section
/-! DEFINITION. What the registers of BAR0 read as: registers whose value another part of the state decides, and the log windows
(R8, R13, R494, R497; the register tables that close the chapters). -/
namespace Sys2Proof.Machine

/-- A sum of fields: value and lowest bit. -/
def packFields (l : List (Nat × Nat)) : Nat := (l.map (fun f => f.1 * 2 ^ f.2)).sum

def flag01 (b : Bool) : Nat := if b then 1 else 0

/-- A mask of the numbers below `n` that `f` selects. -/
def maskBy (n : Nat) (f : Nat → Bool) : Nat := (((List.range n).filter f).map (2 ^ ·)).sum

/-- The code of a device state (Table 17.14). -/
def DevSt.code : DevSt → Nat
  | .vestibule => 0 | .service => 1 | .stopped => 2 | .frozen => 3

/-- EP_ registers. -/
def State.viewEp (s : State) (off : Nat) : Option Nat :=
  if off = Reg.EP_SERIAL then some Config.serial.toNat
  else if off = Reg.EP_STATE then some (packFields [(if s.ep.linkUp then s.ep.modules.toNat else 0, 8), (s.aon.dev.code, 0)])
  else if off = Reg.EP_INT_MODE then
    some (packFields [(flag01 s.intBlocked, 8), (if s.intMode = 1 then s.msiN else 0, 4), (s.intMode, 0)])
  else if off = Reg.EP_INT_SUMMARY then some (maskBy 64 (fun k => s.reg (Reg.EP_INT_PEND k) != 0))
  else none

/-- SET_ registers. -/
def State.viewSet (s : State) (off : Nat) : Option Nat :=
  if Reg.SET_DIGEST 0 ≤ off && off < Reg.SET_DIGEST 6 then some (at' s.effDig (off - Reg.SET_DIGEST 0) 8) else none

/-- Bit p of ERR_OPEN_PART. -/
def State.openPart (s : State) : Nat := maskBy 16 s.partErr

/-- ERR_STATUS. -/
def State.errStatus (s : State) : Nat :=
  packFields [(s.fld Fld.ERR_STATUS_LOST_OPEN, 31),
    (flag01 (s.errs.any (fun x => match x.2 with | some y => y.pinned | none => false)), 30), (s.openErrs.length, 20),
    (s.errSeq.toNat % 512, 0)]

/-- ERR_ registers. -/
def State.viewErr (s : State) (off : Nat) : Option Nat :=
  if off = Reg.ERR_STATUS then some s.errStatus
  else if off = Reg.ERR_OPEN_PART then some s.openPart
  else if off = Reg.ERR_VIOL_HEAD then some (s.vSeq.toNat % 64)
  else none

/-- A temperature as a signed byte. -/
def tempByte (t : Int) : Nat := wrapInt 8 t

def Sleep.code : Sleep → Nat
  | .active => 0 | .idle => 1 | .nap => 2 | .off => 3

/-- PWR_TILE_n. -/
def State.viewTile (s : State) (c : Nat) : Nat :=
  let k := (s.core c).sleep
  packFields [(k.code, 30), (s.thermStep c, 28), (flag01 (s.protected_ c), 27), (if k = .off then 0 else s.coreClock c, 8),
    (tempByte (SMap.get zeroInt s.pwr.temps c), 0)]

/-- PWR_ registers. -/
def State.viewPwr (s : State) (off : Nat) : Option Nat :=
  if off = Reg.PWR_STATUS then
    some (packFields [(flag01 s.aon.fast, 31), (flag01 (s.pwr.noFloor != 0), 30), (s.fld Fld.PWR_STATUS_FAST, 29),
      (s.fld Fld.PWR_STATUS_BINDING, 28), (s.granted, 0)])
  else if off = Reg.PWR_TEMP then some (packFields [(tempByte s.hottest.2, 24), (s.hottest.1, 0)])
  else if off = Reg.PWR_DOM_CLK then some (packFields [(s.fabStep, 30), (s.fabClock, 16), (s.galStep, 14), (s.galClock, 0)])
  else if Reg.PWR_TILE 0 ≤ off && off < Reg.PWR_TILE 256 then some (s.viewTile ((off - Reg.PWR_TILE 0) / 4))
  else none

/-- Bytes of the pages in use by tier, as TIER_QUOTA lays them out, each field rounded up to its unit. -/
def useWord (f : Nat → Nat) : Nat := packFields [(ceilDiv (f 2) 16384, 37), (ceilDiv (f 1) 16, 16), (f 0, 0)]

/-- SQ_ and TIER_ registers. -/
def State.viewQueues (s : State) (off : Nat) : Option Nat :=
  if Reg.SQ_C0_COND 0 ≤ off && off < Reg.SQ_C0_COND 16 then some (s.c0Cond ((off - Reg.SQ_C0_COND 0) / 4))
  else if off = Reg.SQ_QUAL_HDR then
    some (match s.cert (s.fld Fld.SQ_QUAL_SEL_IMAGE) with
      | some c => packFields [(1, 31), (c.points.length, 24), (c.part, 20), (c.cores, 0)]
      | none => 0)
  else if Reg.SQ_QUAL_PT 0 ≤ off && off < Reg.SQ_QUAL_PT 8 then
    some (match s.cert (s.fld Fld.SQ_QUAL_SEL_IMAGE) with
      | some c => let x := c.points.getD ((off - Reg.SQ_QUAL_PT 0) / 8) (0, 0); packFields [(x.1, 32), (x.2, 0)]
      | none => 0)
  else if Reg.TIER_USE 0 ≤ off && off < Reg.TIER_USE 16 then some (useWord (s.quotaUsed ((off - Reg.TIER_USE 0) / 8)))
  else if off = Reg.TIER_POOL_USE then some (useWord s.poolUsed)
  else none

/-- SEC_ registers. -/
def State.viewSec (s : State) (off : Nat) : Option Nat :=
  if off = Reg.SEC_STATUS then
    let own := s.aon.owners.length
    some (packFields [(s.rot.log.length, 16), (s.fld Fld.SEC_STATUS_LOG_OVF, 8), (s.fld Fld.SEC_STATUS_FW_OK, 7),
      (s.fld Fld.SEC_STATUS_UNLOCKED, 6), (s.fld Fld.SEC_STATUS_DEBUG, 4), (own - 1, 1), (flag01 (own != 0), 0)])
  else if off = Reg.SEC_FW_SVN then some (packFields [(s.fld Fld.SEC_FW_SVN_RUNNING, 8), (s.aon.fuseSvn, 0)])
  else if Reg.SEC_HM_DATA 0 ≤ off && off < Reg.SEC_HM_DATA 6 then
    some (at' (s.hm (s.fld Fld.SEC_HM_SEL_INDEX)) (off - Reg.SEC_HM_DATA 0) 8)
  else if Reg.SEC_EPOCH 0 ≤ off && off < Reg.SEC_EPOCH 16 then
    let p := (off - Reg.SEC_EPOCH 0) / 4
    some (if s.definedPart p then (s.keys p).epoch else 0)
  else if Reg.SEC_SLOTS 0 ≤ off && off < Reg.SEC_SLOTS 16 then
    let k := (s.keys ((off - Reg.SEC_SLOTS 0) / 8)).slots
    some (maskBy 64 (fun i => !(SMap.get noSlot k i).isEmpty))
  else if off = Reg.SEC_DEBUG_NONCE then some (Config.debugNonce s.aon.nonceCtr).toNat
  else none

def TeamSt.code : TeamSt → Nat
  | .placing => 0 | .running => 1 | .stopping => 2 | .saving => 3 | .preempted => 4 | .restoring => 5

/-- CORE_TEAM_STATE of a slot. -/
def Core.viewTeam (k : Core) (slot : Nat) : Nat :=
  match k.team slot with
  | none => 0
  | some t => packFields [(1, 31), (t.st.code, 28), (t.cls, 26), (k.ctxSlot t.tag, 24), (t.g, 16), (t.tag, 0)]

/-- CORE_ registers of core `c`, by the offset within its block. -/
def State.viewCore (s : State) (c o : Nat) : Option Nat :=
  let k := s.core c
  let live := k.teamList.filter (fun e => e.2.st != .preempted)
  if o = 0 then some (packFields [(8 * (c / 16 / 2) + c % 16 / 2, 16), (c / 16, 12), (c % 16, 8), (c, 0)])
  else if o = 4 then
    some (packFields [((s.corePart c).getD 0, 16), (flag01 live.isEmpty, 15), (flag01 k.holding, 14),
      ((k.ctxs.filter (·.isSome)).length, 8), (k.teamList.length, 0)])
  else if o = 8 then
    some (packFields [(k.freeRegs.length, 23), (k.freeLocs.length, 14), (k.freeGroups.length, 7), (16 - k.teamList.length, 2)])
  else if 0x100 ≤ o && o < 0x140 then some (k.viewTeam ((o - 0x100) / 4))
  else none

/-- The value of a register that another part of the state decides. -/
def State.view (s : State) (off : Nat) : Option Nat :=
  if off < 0x10000 || (0x80000 ≤ off && off < 0x90000) then s.viewEp off
  else if off < 0x20000 then s.viewSet off
  else if off < 0x30000 then s.viewErr off
  else if off < 0x40000 then s.viewPwr off
  else if off = Reg.NWL_TIME then some s.aon.newel.toNat
  else if off = Reg.HOME_DIR_USED then some (s.dir.filter (fun x => x.2.st != .free)).length
  else if 0x90000 ≤ off && off < 0xB0000 then s.viewQueues off
  else if Reg.STW_SPAN_STATE 0 ≤ off && off < Reg.STW_SPAN_STATE 4 then
    let k := 16 * ((off - Reg.STW_SPAN_STATE 0) / 4)
    -- a cut-off member shows 3 (R390)
    some (packFields ((List.range 16).map (fun i =>
      (match s.spanChip (k + i) with
        | some c => if s.lostChip c then 3 else s.spanState (k + i)
        | none => s.spanState (k + i), 2 * i))))
  else if off = Reg.ETH_MAC_BASE then some Config.macBase.toNat
  else if 0xD0000 ≤ off && off < 0xE0000 then s.viewSec off
  else if 0x100000 ≤ off && off < 0x200000 then s.viewCore ((off - 0x100000) / 0x1000) (off % 0x1000)
  else none

/-- The mask of the fields of a register that `f` selects. -/
def RRow.mask (r : RRow) (f : RField → Bool) : Nat := ((r.fs.filter f).map (fun x => (2 ^ (x.hi + 1) - 2 ^ x.lo))).sum

/-- What the register at `off`, of row `r`, reads as: reserved bits and WO fields read as zero (R13, Table 00.3). -/
def State.regVal (s : State) (r : RRow) (off : Nat) : Nat := ((s.view off).getD (s.reg off)) &&& r.mask (fun f => f.ty != .wo)

/-! ### The log windows (R494, R497) -/

def errLogBase : Nat := 0x24000
def violLogBase : Nat := 0x21000

def inErrLog (off : Nat) : Bool := errLogBase ≤ off && off < errLogBase + 32 * 512
def inViolLog (off : Nat) : Bool := violLogBase ≤ off && off < violLogBase + 32 * 64

/-- The 32 bytes of entry `i` of the error log, as they stand. -/
def State.errEntry (s : State) (i : Nat) : List Byte :=
  match SMap.get noErr s.errs i with
  | some e => errBytes e
  | none => List.replicate 32 0

def State.violEntry (s : State) (i : Nat) : List Byte :=
  match SMap.get noViol s.vlog i with
  | some e => violBytes e
  | none => List.replicate 32 0

/-! ### Words of BAR0 (R15 to R17, R312) -/

def msixBase : Nat := 0x88000
def pbaBase : Nat := 0x81000
def compBase : Nat := 0xE0000
def mirrorBase : Nat := 0x8000

def inMsix (off : Nat) : Bool := msixBase ≤ off && off < msixBase + 0x8000
def inPba (off : Nat) : Bool := pbaBase ≤ off && off < pbaBase + 0x100
def inComp (off : Nat) : Bool := compBase ≤ off && off < compBase + 0x10000
def inMirror (off : Nat) : Bool := mirrorBase ≤ off && off < mirrorBase + 0x8000

/-- The aligned 32-bit word at `off`, as a read would return it, without side effects; `none`: no chapter assigns it (R15). -/
def State.word (s : State) (off : Nat) : Option Nat :=
  if inMirror off then some (leNat ((List.range 4).map (fun i => s.invByte (off - mirrorBase + i))))
  else if inErrLog off then some (at' (s.errEntry ((off - errLogBase) / 32)) (off % 32) 4)
  else if inViolLog off then some (at' (s.violEntry ((off - violLogBase) / 32)) (off % 32) 4)
  else if inMsix off then some (s.msixWord ((off - msixBase) / 4)).toNat
  else if inPba off then some (s.reg (Reg.EP_INT_PEND ((off - pbaBase) / 4)))
  else if inComp off then some (s.compRead (off - compBase)).toNat
  else
    match findReg off with
    | some (r, o) => some (if o = off then s.regVal r o % 2 ^ 32 else s.regVal r o / 2 ^ 32)
    | none => none

end Sys2Proof.Machine
end

