-- ==== Sys2Proof/Machine/Resets.lean ====
section
/-! DEFINITION. Resets, the start of the fast clocks, the control signals and the watchdogs (R18, R35 to R38, R301, R475, R476,
R483, R485, R489, R500). -/
namespace Sys2Proof.Machine

/-! ### Cold reset (R18, R483) -/

/-- Key pairs are gone; the next ones are fresh. -/
def freshKeys (r : Rot) : SMap PKeys :=
  parts16.foldl (fun (m : SMap PKeys) p => SMap.set noKeys m p { PKeys.empty with keyGen := (SMap.get noKeys r.keys p).keyGen }) []

/-- cold_rst_n is low: everything takes its reset value but what fuses, the always-on latches and the Setting store hold and the
level of warm_rst_n. HBM keys and the debug nonce are drawn anew. A CXL Reset that is in progress shares `Aon.warm` with the pin, so that
it too still holds the chip in warm reset, until WARM_RESET_RELEASE (DESIGN CHOICE, log entry 123). -/
def State.coldReset (s : State) : State :=
  { State.reset with
    aon := { Aon.reset with
      warm := s.aon.warm, stopLatch := s.aon.stopLatch, fatalLatch := s.aon.fatalLatch, owners := s.aon.owners,
      fuseSvn := s.aon.fuseSvn, nonceCtr := s.aon.nonceCtr + 1 }
    store := s.store, freeCtr := s.freeCtr, hbmGen := s.hbmGen + 1, pending := s.pending,
    rot := { Rot.empty with memGen := s.rot.memGen + 1, keys := freshKeys s.rot } }

/-- COLD_RESET: cold_rst_n goes low; vdd_aon is up. -/
def execColdReset (s : State) : Out := .next s.coldReset

/-- The registers that show why the chip stopped last (Table 17.2). -/
def State.showLast (s : State) : State :=
  let a := s.aon
  let s := ((s.setFld Fld.PWR_STOP_CAUSE_COOLANT (a.stopLatch.toNat % 2)).setFld Fld.PWR_STOP_CAUSE_TRIP
    (a.stopLatch.toNat / 2 % 2)).setFld Fld.PWR_STOP_CAUSE_RAIL (a.stopLatch.toNat / 4)
  match a.fatalLatch with
  | some (code, ukind, unit) =>
    (((s.setFld Fld.ERR_LAST_FATAL_CODE code).setFld Fld.ERR_LAST_FATAL_UKIND ukind).setFld Fld.ERR_LAST_FATAL_UNIT unit).setFldB
      Fld.ERR_LAST_FATAL_VALID true
  | none => s

/-- COLD_RESET_RELEASE: the always-on domain runs, smb_addr is sampled, the latches move to their registers, and H0 and H2 are
extended (Table 17.2, R442). -/
def execColdResetRelease (smbAddr : BitVec 2) (s : State) : Out :=
  .next (if !s.aon.vdd || !s.aon.cold then s
  else
    let s := s.showLast
    let s : State := { s with aon := { s.aon with cold := false, smbAddr := smbAddr, stopLatch := 0, fatalLatch := none } }
    (s.hmExtend 0 0x0001 0 (natBe 48 Config.romDigest.toNat)).fuseEvent)

/-- FAST_CLOCKS_START: the chip is in Vestibule, and the Inventory is written with STATE 0. -/
def execFastClocksStart (s : State) : Out :=
  .next (if s.aon.vdd && !s.aon.cold && !s.aon.fast && s.aon.dev == .vestibule then
    ({ s with aon := { s.aon with fast := true } } : State).writeInv
  else s)

/-! ### Warm reset (R18, R301, R485) -/

/-- Buffered stores of the cores, and held entries that no core's store made. -/
def State.discards (s : State) : Nat :=
  (s.coreNums.map (fun c => (s.core c).sq.length + (s.core c).mb.length)).sum +
    (s.ep.hold.filter (fun h => !h.bad && (match h.who with | .store _ _ => false | .merge _ _ => false | _ => true))).length

/-- The jobs of ARMED entries. -/
def State.armedJobs (s : State) : List Nat := ((s.armed.map (fun e => (s.flight e.1 e.2).job)).filter (· != 0)).dedup

/-- JOB_CANCEL for a job, from its first ARMED entry on. -/
def State.leaveJob (s : State) (j : Nat) : State :=
  let qs := ((s.armed.map (fun e => s.flight e.1 e.2)).filter (fun e => e.job == j)).map (·.jseq)
  let first := qs.foldl (fun (m : W32) q => if precedes 32 q.toNat m.toNat then q else m) (qs.headD 0)
  s.sendJob j 0x63 (natLe 2 j ++ [0, 0] ++ natLe 4 first.toNat)

/-- The fields that a warm reset keeps, and reset values for the others (R18). -/
def State.warmRegs (s : State) : State :=
  { s with regs := s.regs.foldl (fun (m : SMap W64) (e : Nat × W64) =>
      match findReg e.1 with
      | some (r, _) =>
        let k := r.mask (·.keep)
        let d := (regDefault e.1).toNat
        SMap.set regDefault m e.1 (BitVec.ofNat 64 ((d - (d &&& k)) + (e.2.toNat &&& k)))
      | none => m) [] }

/-- Registers whose values the chapters keep in other words (Tables 07.10, 13.10, 14.8, 15.8, 16.8 and 17.3): ports, span states, the
state of the Setting, the root of trust and the running firmware, the priority order, and the use of the poison tables, which
survive with the HBM's contents and which L2C_HBM_POISON_s shows (R224). -/
def warmKept : List FRef :=
  (List.range 8).flatMap (fun p => [Fld.STW_PORT_STATUS_STATE p, Fld.STW_PORT_STATUS_NCHIP p, Fld.STW_PORT_STATUS_NPORT p]) ++
    (List.range 16).map Fld.ETH_PORT_STATUS_LINK ++ (List.range 4).map (fun i => ⟨Reg.STW_SPAN_STATE i, 31, 0⟩) ++
    [Fld.SET_STATUS_STATE, Fld.SEC_STATUS_LOG_OVF, Fld.SEC_STATUS_FW_OK, Fld.SEC_STATUS_UNLOCKED, Fld.SEC_FW_SVN_RUNNING,
      ⟨Reg.PWR_PRIO, 5, 0⟩] ++ (List.range 8).map Fld.L2C_HBM_POISON_USED

/-- Put back the fields of a list as they were. -/
def State.putBack (s old : State) (l : List FRef) : State := l.foldl (fun (t : State) f => t.setFld f (old.fld f)) s

/-- The cores hold nothing; sleep states are kept. -/
def State.warmCores (s : State) : State :=
  s.coreNums.foldl (fun (t : State) c =>
    let k := s.core c
    t.setCore c { Core.empty with sleep := k.sleep, nextId := k.nextId }) s

/-- Moves are abandoned; the pages of an image that was being registered are freed; and an image whose residency was changing is back in
the state that it was to leave (R358, R360, R377; DEDUCED, log entry 59). -/
def State.warmImages (s : State) : State :=
  let ofNone := fun (o : POwner) => match o with | .image i => (s.img i).isNone | .copy i => (s.img i).isNone | _ => false
  let s : State := { s with moves := [], brings := [], advised := [], fetches := [], pages := s.pages.filter (fun g => !ofNone g.owner) }
  s.imgs.foldl (fun (t : State) (e : Nat × Option Image) =>
    match e.2 with
    | some i =>
      if i.res = .changing then
        let t := if i.was = .gallery then t else t.freePages i.part (· == .copy e.1)
        (if i.was = .locked then t else t.unlockImg e.1 i.part).setImg e.1 (some { i with res := i.was })
      else t
    | none => t) s

/-- Every open transaction of the home ends as a timeout (R259), at once: one that its timeout has granted anew does not wait for its Done
(Table 08.9). -/
def State.warmHome (s : State) : State :=
  s.txns.foldl (fun (t : State) x =>
    match t.txns.find? (fun y => y.req.gran == x.req.gran) with
    | some y =>
      let t := t.homeTimeout y (fun _ => true)
      match t.txns.find? (fun z => z.req.gran == x.req.gran) with
      | some z => (t.grantEnd z).dropTxn z.req.gran
      | none => t
    | none => t) { s with conflict := [] }

/-- Is a CXL.cache request in the hold buffer? -/
def State.isHeld (s : State) (r : HcReq) : Bool :=
  s.ep.hold.any (fun h => match h.msg with | .d2hReq a op _ => a == s.hostName r.addr && op == r.op | _ => false)

/-- The governor at its start: ceilings at the maximum, floors granted; thermal steps are kept. -/
def Power.fresh (p : Power) : Power :=
  { Power.empty with
    steps := p.steps, temps := p.temps, hbmHot := p.hbmHot, hbmT := p.hbmT, droop := p.droop, droops := p.droops,
    telemN := p.telemN }

/-- The effects of a warm reset in Vestibule or Service (Table 17.3, and the warm-reset row of each chapter). -/
def State.warmReset (s : State) : State :=
  let secs := [0, 1].filter (fun c => s.fldB (Fld.SEC_CMD_GO c))
  let s := s.bump Fld.ERR_DISCARD_CNT_COUNT s.discards
  let s := s.armedJobs.foldl (fun (t : State) j => t.leaveJob j) s
  let s := if s.fldB Fld.SET_LOAD_CMD_GO then s.loadFail ⟨0, 0, 0⟩ else s
  let s : State := { s.claspRollback with clasp := Clasp.empty }
  let s := s.warmImages.warmCores.warmHome
  let s : State := { s with
    holdHost := ⟨none, none⟩, holdFw := ⟨none, none⟩, preqs := [], biConf := [], flip := none,
    -- the write of a discarded store goes with it (R186)
    hcReqs := (s.hcReqs.filter (fun r => !s.isHeld r && r.who.core?.isNone)).map (fun (r : HcReq) => { r with who := .nobody }),
    tlbs := [], stlb := [], walks := [], frecs := [], fseq := 0, xops := [], wins := [], winOld := [], winOut := [],
    sqs := [], cqs := [], certs := [], turns := [], chanXf := [], flights := [], notes := [], slots := [], jobWork := [], pulls := [],
    inWait := [],
    ep := { s.ep with hold := [], tags := [], cont := .normal, doe := ⟨[], [], false, false⟩ }, rot := { s.rot with sess := [], neg := [] },
    pwr := s.pwr.fresh
    -- Newel and its rate run on; NWL_STATUS, and with it the servo's count, takes its reset value
    servo := { s.servo with good := 0, pend := none } }
  let full := s
  let s := s.warmRegs.putBack full warmKept
  let s := s.settingFields.foldl (fun (t : State) (f : FRef × Nat) => t.setFld f.1 f.2) s
  let s := (s.setFld Fld.SET_PART_STATE_STOPPED 0xFFFF).showClasp.showPurge.fenceWays
  -- LAST_ID survives, and a security command in progress ends with RESULT 0b010
  let s := s.setFld Fld.SET_CLASP_STATE_LAST_ID (full.fld Fld.SET_CLASP_STATE_LAST_ID)
  secs.foldl (fun (t : State) c => t.secEnd c 2) s

/-- A warm reset begins: in Stopped and Frozen it is ignored (R38), and cold reset stands above it. -/
def State.warmAssert (s : State) : State :=
  if s.aon.vdd && !s.aon.cold && (s.aon.dev == .vestibule || s.aon.dev == .service) then s.warmReset else s

/-- WARM_RESET: warm_rst_n goes low. -/
def execWarmReset (s : State) : Out :=
  .next (if s.aon.vdd then ({ s.warmAssert with aon := { s.warmAssert.aon with warm := true } } : State) else s)

/-- WARM_RESET_RELEASE: warm_rst_n goes high; firmware restarts from its image, and a CXL Reset is reported as complete (R301). -/
def execWarmResetRelease (s : State) : Out :=
  .next (if !s.aon.vdd || !s.aon.warm then s
  else
    let s : State := { s with aon := { s.aon with warm := false } }
    if s.ep.linkUp then s.cfgStatus 0x168 17 else s)

/-- A CXL Reset has the effect of a warm reset (R301). -/
def State.cxlResetGo (s : State) : State :=
  if !s.runs || !s.ep.linkUp then s else ({ s.warmAssert with aon := { s.warmAssert.aon with warm := true } } : State)

/-- CXL_RESET: the host starts one through the CXL Device DVSEC. -/
def execCxlReset (s : State) : Out := .next (s.ioIn .cxlReset State.cxlResetGo)

/-! ### Control signals and supplies -/

/-- Is the always-on domain running? -/
def State.aonRuns (s : State) : Bool := s.aon.vdd && !s.aon.cold

/-- LOUPE_FREEZE_RISE: a rising edge freezes the chip, and is ignored while cold_rst_n is low (R35, R38). -/
def execLoupeFreezeRise (s : State) : Out := .next (if s.aonRuns then s.freezeChip else s)

/-- COOLANT_STOP: coolant_ok_n has been high for longer than its filter (R36). Before the fast clocks start it only holds them
off (Table 01.9). -/
def execCoolantStop (s : State) : Out :=
  .next (if !s.aonRuns || (!s.aon.fast && !(s.aon.dev == .stopped) && !(s.aon.dev == .frozen)) then s else s.stopFor 0 0)

/-- RAIL_FAULT: a rail has left its range (R34, R476). -/
def execRailFault (rail : Fin 5) (s : State) : Out := .next (if s.aonRuns then s.stopFor 2 rail else s)

/-- REFCLK_HOST_LOSS: the internal oscillator takes over and a Fatal error is recorded, which stops a chip that runs (R31, R491). In
Stopped and Frozen the error is entered in the log and in the latch, and nothing else changes (log entry 71). -/
def execRefclkHostLoss (s : State) : Out :=
  .next (if !s.aonRuns || s.aon.osc then s
  else
    let s : State := { s with aon := { s.aon with osc := true } }
    s.raiseErr ⟨0x33, 3, 8, 0, 0, 0, none⟩)

/-- VDD_AON_LOSS: everything but fuses is lost, the Setting store and the latches among it (R419, R476, R491). -/
def execVddAonLoss (s : State) : Out :=
  let t := s.coldReset
  .next { t with store := [], aon := { t.aon with vdd := false, warm := false, stopLatch := 0, fatalLatch := none } }

/-! ### Watchdogs (Table 17.8) -/

/-- WATCHDOG: firmware has not served the watchdog of a control core for 100 ms. Cores 1 to 7 run in Service (Table 17.1). -/
def execWatchdog (cc : Fin 8) (s : State) : Out :=
  .next (s.whenRuns (fun s =>
    if s.rot.fw.isNone || (cc.val ≠ 0 && (s.aon.dev == .vestibule || (s.fence 0x20 1).testBit cc)) then s
    else if cc.val = 0 then s.raiseErr ⟨0x37, 3, 7, 0, 0, 0, none⟩
    else s.raiseErr ⟨0x1B, 1, 7, cc, 0, 0, none⟩))

/-- CORE_STOP_TIMEOUT: a core did not stop issuing within 10 µs of a preemption, fault or stop. -/
def execCoreStopTimeout (c : Fin 256) (s : State) : Out :=
  .next (s.whenRuns (fun s =>
    if (s.core c).teamList.any (fun t => t.2.st == .stopping || t.2.st == .saving) then
      s.raiseErr ⟨0x21, 2, 0, c, 0, 0, s.corePart c⟩
    else s))

end Sys2Proof.Machine
end

