-- ==== Sys2Proof/Machine/Readout.lean ====
section
/-! DEFINITION. Loupe chains, the JTAG TAP, and the read-out requests of the sideband (R29, R459, R500 to R503). -/
namespace Sys2Proof.Machine

/-! ### Chains (Table 17.12) -/

/-- First chain, number of chains, and whether they are public. -/
def chainRows : List (Nat × Nat × Bool) := [
  (0x0000, 3, true), (0x0010, 8, false), (0x0100, 256, true), (0x0200, 256, false), (0x0300, 256, true), (0x0400, 256, false),
  (0x0500, 64, true), (0x0540, 64, false), (0x0580, 8, true), (0x0590, 1, true), (0x0591, 1, false), (0x05A0, 8, true),
  (0x05B0, 16, true)]

def chainCount : Nat := (chainRows.map (·.2.1)).sum

/-- Whether a chain is public; `none`: there is no such chain. -/
def chainPublic (c : Nat) : Option Bool :=
  (chainRows.find? (fun r => r.1 ≤ c && c < r.1 + r.2.1)).map (·.2.2)

/-- The always-on chain: status word, stop latch, Newel, and the fuse values: the fused SVN, the policy fuses and the owner slots. The
order is that of the table's words. -/
def State.aonChain (s : State) : List Nat :=
  let a := s.aon
  [packFields [(flag01 a.fast, 8), (flag01 a.warm, 4), (a.dev.code, 0)], a.stopLatch.toNat, a.newel.toNat % 2 ^ 32,
    a.newel.toNat / 2 ^ 32, a.fuseSvn, Config.policyFuses.toNat] ++
    (List.range 84).map (fun i => at' (a.owners.flatten) (4 * i) 4)

/-- The words of BAR0 that a chapter assigns, in offset order. -/
def State.bar0Words (s : State) : List Nat :=
  ((List.range (2 ^ 23)).map (4 * ·)).filter (fun o => (s.word o).isSome)

/-- The logs in index order and the ERR_ registers in offset order. -/
def State.errChain (s : State) (i : Nat) : Option Nat :=
  if i < 4096 then s.word (errLogBase + 4 * i)
  else if i < 4608 then s.word (violLogBase + 4 * (i - 4096))
  else ((((List.range 1024).map (0x20000 + 4 * ·)).filterMap s.word)[i - 4608]?)

/-- The address bits of a granule that its slice and its directory set do not imply, the lowest first (R196, R240, Table 08.1): of HBM
a[6] and a[45:27], since the slice implies a[12:7]; of the Gallery w[6] and w[22:19]. -/
def tagBits (a : Nat) : Nat :=
  if isGallery a then let w := (gBankW a).2; bits w 6 6 + 2 * bits w 22 19 else bits a 6 6 + 2 * bits a 45 27

/-- The place of bit `i` in the TAG: the manual gives no order, so that it is a free permutation of the 26 places (log entry 112). -/
def tagPlace (i : Nat) : Nat :=
  ((List.range 26).filter (fun j => Config.tagOrder j < Config.tagOrder i || (Config.tagOrder j == Config.tagOrder i && j < i))).length

/-- The TAG of a granule's directory entry. -/
def dirTag (a : Nat) : Nat := ((List.range 26).map (fun i => flag01 ((tagBits a).testBit i) * 2 ^ tagPlace i)).sum

/-- The word of a directory entry (Table 08.1); `opn`: a transaction or an eviction of it is in progress. A free entry is zero. -/
def DirEnt.word (e : DirEnt) (opn : Bool) : Nat :=
  let st := match e.st with | .free => 0 | .s => 1 | .m => 2
  let low := if e.cv then [(e.vec.toNat, 0)] else (e.ptrs.length, 18) :: e.ptrs.zipIdx.map (fun p => (p.1, 6 * p.2))
  if st = 0 then 0
  else packFields ([(flag01 (isGallery e.gran), 63), (dirTag (e.gran % 2 ^ 46), 34), (e.age, 32), (st, 30), (flag01 e.h, 29),
    (flag01 opn, 28), (flag01 e.cv, 27)] ++ low)

/-- How many words the directory entries of a slice are: 16,384 sets of 16 ways of 64 bits. -/
def dirWords : Nat := 2 * 16384 * 16

/-- A word of the directory entries of a slice, by set and way, the low half of an entry first. -/
def State.dirWord (s : State) (slice j : Nat) : Nat :=
  let e := s.dirAt (slice * 262144 + j / 2)
  e.word (s.txns.any (fun t => t.req.gran == e.gran)) / 2 ^ (32 * (j % 2)) % 2 ^ 32

/-- The number of the L2 slice whose tags and directory a chain shows. -/
def chainSlice (c : Nat) : Option Nat := if 0x0500 ≤ c && c < 0x0540 then some (c - 0x0500) else none

/-- Where the directory entries begin among the words of an L2 slice's chain, which is not given. -/
def dirFirst (c : Nat) : Nat := (Config.dirPlace c).toNat % ((Config.chainLen c).toNat + 1)

/-- The length of a chain in words. -/
def State.chainLen (s : State) (c : Nat) : Nat :=
  match c with
  | 0 => s.aonChain.length
  | 1 => 4608 + (((List.range 1024).map (0x20000 + 4 * ·)).filterMap s.word).length
  | 2 => s.bar0Words.length
  | _ => (Config.chainLen c).toNat + (if (chainSlice c).isSome then dirWords else 0)

/-- A word of a chain as it stands. The layouts of the chains of units are not given: their words are free values, but for directory
entries, which are in the layout of Table 08.1 (R239; log entry 72). -/
def State.chainWord (s : State) (c i : Nat) : Nat :=
  match c with
  | 0 => s.aonChain.getD i 0
  | 1 => (s.errChain i).getD 0
  | 2 => ((s.bar0Words[i]?).bind s.word).getD 0
  | _ =>
    match chainSlice c with
    | some k =>
      if dirFirst c ≤ i && i < dirFirst c + dirWords then s.dirWord k (i - dirFirst c)
      else if i < s.chainLen c then (Config.chainWord s.aon.nonceCtr c i).toNat else 0
    | none => if i < s.chainLen c then (Config.chainWord s.aon.nonceCtr c i).toNat else 0

/-- Chain 0 is readable at any time, the others while a freeze is in force (R501). -/
def State.chainNow (s : State) (c : Nat) : Bool := c == 0 || s.aon.dev == .frozen

/-- Do the read-outs present a chain (R459)? -/
def State.chainOpen (s : State) (c : Nat) : Bool :=
  match chainPublic c with
  | some p => p || s.fldB Fld.SEC_STATUS_UNLOCKED
  | none => false

/-- What a read-out shows of a word (R501). -/
def State.loupeWord (s : State) (c i : Nat) : Nat := if s.chainNow c && s.chainOpen c then s.chainWord c i else 0

/-! ### JTAG (R29, R502) -/

def State.modAon (s : State) (f : Aon → Aon) : State := { s with aon := f s.aon }

/-- The TAP answers while the always-on domain runs (Table 17.2). -/
def State.jtag (s : State) (i : JInstr) (f : State → State) : State :=
  if s.aonRuns then f (s.modAon (fun a => { a with jir := i, tdo := [] })) else s

/-- The `n` bits of a number, the least significant first. -/
def bitsOut (n v : Nat) : List Bool := (List.range n).map v.testBit

/-- EXTEST: the boundary register drives the pins. -/
def execExtest (pins : List Bool) (s : State) : Out := .next (s.jtag .extest (fun s => s.modAon (fun a => { a with tdo := a.jpins, jpins := pins })))

/-- IDCODE: 32 bits leave. -/
def execIdcode (s : State) : Out := .next (s.jtag .idcode (fun s => s.modAon (fun a => { a with tdo := bitsOut 32 0x17140999 })))

/-- SAMPLE/PRELOAD: the boundary register takes the values of the pins and shifts them out. -/
def execSamplePreload (pins : List Bool) (s : State) : Out :=
  .next (s.jtag .sample (fun s => s.modAon (fun a => { a with jpins := pins, tdo := pins })))

/-- CLAMP: the pins hold the boundary register, and the bypass register is selected. -/
def execClamp (s : State) : Out := .next (s.jtag .clamp (fun s => s.modAon (fun a => { a with tdo := [false] })))

/-- BYPASS: one bit, which captures 0. -/
def execBypass (s : State) : Out := .next (s.jtag .bypass (fun s => s.modAon (fun a => { a with tdo := [false] })))

/-- LOUPE_SEL: chain and word offset are taken at Update-DR. -/
def execLoupeSel (chain : W16) (offset : W32) (s : State) : Out :=
  .next (s.jtag .loupeSel (fun s => s.modAon (fun a => { a with selChain := chain, selOff := offset })))

/-- LOUPE_READ: the next word leaves, least significant bit first. -/
def execLoupeRead (s : State) : Out :=
  .next (s.jtag .loupeRead (fun s =>
    let w := s.loupeWord s.aon.selChain.toNat s.aon.selOff.toNat
    s.modAon (fun a => { a with tdo := bitsOut 32 w, selOff := a.selOff + 1 })))

/-- LOUPE_FREEZE: a 1 at Update-DR freezes (R500). -/
def execLoupeFreeze (s : State) : Out := .next (s.jtag .loupeFreeze State.freezeChip)

/-- TAP_RESET: IDCODE is selected. -/
def execTapReset (s : State) : Out := .next (if s.aon.vdd then s.modAon (fun a => { a with jir := .idcode, tdo := [] }) else s)

/-! ### Sideband requests (R503, Table 17.14) -/

/-- A vendor-defined response: completion code and content. -/
def State.sideReply (s : State) (cc : Nat) (b : List Byte) : State := s.smbSend (natLe 1 cc ++ b)

/-- STATUS: device state, ERR_STATUS and the stop latch. -/
def execStatus (s : State) : Out :=
  .next (if s.sideband then
    s.sideReply 0 (natLe 1 s.aon.dev.code ++ natLe 4 s.errStatus ++ natLe 1 s.aon.stopLatch.toNat) else s)

/-- LOUPE_INFO: the number of chains, the length of this one, and whether it is public. -/
def execLoupeInfo (chain : W16) (s : State) : Out :=
  .next (if !s.sideband then s
  else
    match chainPublic chain.toNat with
    | some p => s.sideReply 0 (natLe 2 chainCount ++ natLe 4 (s.chainLen chain.toNat) ++ natLe 1 (flag01 p))
    | none => s.sideReply 1 [])

/-- LOUPE_READ on the sideband: up to 256 words of a chain. -/
def execSidebandLoupeRead (chain : W16) (offset : W32) (count : Nat) (s : State) : Out :=
  .next (if !s.sideband then s
  else if (chainPublic chain.toNat).isNone || count = 0 || count > 256 then s.sideReply 1 []
  else if !s.chainNow chain.toNat then s.sideReply 2 []
  else s.sideReply 0 ((List.range count).flatMap (fun i => natLe 4 (s.loupeWord chain.toNat (offset.toNat + i)))))

/-- LOG_READ: entries of a log from an index on. -/
def execLogRead (log : Byte) (first count : Nat) (s : State) : Out :=
  let size := if log.toNat = 1 then 512 else if log.toNat = 2 then 64 else 0
  .next (if !s.sideband then s
  else if count = 0 || count > 32 || first + count > size then s.sideReply 1 []
  else
    s.sideReply 0 ((List.range count).flatMap (fun i => if log.toNat = 1 then s.errEntry (first + i) else s.violEntry (first + i))))

/-- FREEZE: the chip freezes (R500). -/
def execFreeze (s : State) : Out := .next (if s.sideband then (s.sideReply 0 []).freezeChip else s)

end Sys2Proof.Machine
end

