-- ==== Sys2Proof/Machine/Registers.lean ====
section
/-! DEFINITION. Configuration requests, and reads and writes of the registers of BAR0 by the host and by control-core firmware: who
may write what, violations, access sizes, and the actions that writes start (R8 to R17, R88, R125, R211, R264, R298, R299, R304,
R326, R356, R378, R412, R435, R461, R480, R490, R497, R506). -/
namespace Sys2Proof.Machine

/-! ### Configuration requests (R299 to R302, R306) -/

/-- CONFIG_REQUEST: a read or write of bytes of one word of configuration space. -/
def execConfigRequest (write : Bool) (off : BitVec 12) (size : AccSize) (v : W32) (s : State) : Out :=
  let o := off.toNat / 4 * 4
  let n := size.bytes
  let sh := 8 * (off.toNat % 4)
  .next (s.ioIn (.configRequest write off size v) (fun s =>
  if off.toNat % 4 + n > 4 then s
  else if write then
    let be : W32 := BitVec.ofNat 32 ((2 ^ (8 * n) - 1) * 2 ^ sh)
    let s := s.cfgWrite o (v <<< sh) be
    (if startsCxlReset o (v <<< sh) be then s.cxlResetGo else s).drainHold
  else s.hostSend (.cfgRsp (BitVec.ofNat 32 (bits (s.cfgRead o).toNat (sh + 8 * n - 1) sh)))))

/-! ### Who may write -/

/-- May a host write of the FMT_ register at `o` of core `c` go through (R88)? A write of FMT_GUARD_CTL carries the present values of
the other fields. One that carries them without the grant is a violation even though it changes none of those fields (DESIGN CHOICE,
log entry 102). -/
def State.hostFmt (s : State) (c o v : Nat) : Bool :=
  let free := match s.corePart c with | some p => s.hostMay p 0 && !(s.fld Fld.SEC_SEAL_SEALED).testBit p | none => false
  let ctl := 2 ^ 13 + 2 ^ 12 + 31 * 2 ^ 4 + 3
  free && ((o == Reg.FMT_GUARD_CTL c && v &&& ctl == s.reg o &&& ctl) || o == Reg.FMT_STATUS c)

/-- May the host write the register at `o`? -/
def State.hostWrites (s : State) (o v : Nat) : Bool :=
  if o < 0x20000 then true
  else if o < 0x30000 then true
  else if o < 0x40000 then [Reg.PWR_CAP, Reg.PWR_PRIO, Reg.PWR_TELEM_CTL, Reg.PWR_INT_CTL, Reg.PWR_INT_STATUS].contains o
  else if o < 0x50000 then 0x40140 ≤ o && o < 0x40180
  else if o < 0x60000 then
    !((0x50100 ≤ o && o < 0x50140) || o == Reg.XLT_WIN_CMD || o == Reg.XLT_WIN_STATUS)
  else if o < 0x70000 then 0x601C0 ≤ o && o < 0x60200
  else if o < 0x80000 then [Reg.HOME_BIAS_ADDR, Reg.HOME_BIAS_CMD, Reg.HOME_BIAS_STATUS].contains o
  else if o < 0x90000 then true
  else if o < 0xA0000 then (0x90080 ≤ o && o < 0x90100) || o == Reg.SQ_ERR_INFO || o == Reg.SQ_QUAL_SEL
  else if o < 0xB0000 then (0xA0080 ≤ o && o < 0xA0100) || o == Reg.TIER_LATE_LIMIT
  else if o < 0xD0000 then false
  else if o < 0xE0000 then (0xD0140 ≤ o && o < 0xD0180) || o == Reg.SEC_HM_SEL
  else if 0x100000 ≤ o && o < 0x200000 then
    let c := (o - 0x100000) / 0x1000
    if o % 0x1000 < 0xC00 then o != Reg.CORE_PREEMPT c && o != Reg.CORE_RESUME c else s.hostFmt c o v
  else true

/-- May agent `a` write the register at `o`? In the ERR_ region the limits bind both agents (R506). -/
def State.mayWriteReg (s : State) (a : Agent) (o v : Nat) : Bool :=
  if 0x20000 ≤ o && o < 0x30000 then
    [Reg.ERR_CTL, Reg.ERR_STATUS, Reg.ERR_LOUPE, Reg.ERR_TRACE_BASE, Reg.ERR_TRACE_CTL].contains o
  else a == .firmware || s.hostWrites o v

/-- The GO bit that bars writes of the register at `o`. -/
def goOf (o : Nat) : Option FRef :=
  if o = Reg.SET_LOAD_ADDR || o = Reg.SET_LOAD_CMD || o = Reg.SET_LOAD_STATUS then some Fld.SET_LOAD_CMD_GO
  else if o = Reg.SET_CLASP_CMD || o = Reg.SET_CLASP_ADDR || o = Reg.SET_CLASP_LEN || o = Reg.SET_CLASP_STATUS then some Fld.SET_CLASP_CMD_GO
  else if 0x40100 ≤ o && o < 0x40180 then some (Fld.NWL_LAND_CMD_GO ((o - 0x40100) / 0x40))
  else if 0x50100 ≤ o && o < 0x50180 then some (Fld.XLT_CMD_GO ((o - 0x50100) / 0x20))
  else if o = Reg.L2C_WAY_PWR then some Fld.L2C_WAY_PWR_GO
  else if 0x60100 ≤ o && o < 0x60200 && o % 0x20 < 0x14 then some (Fld.L2C_MNT_CMD_GO ((o - 0x60100) / 0x20))
  else if o = Reg.HOME_BIAS_ADDR || o = Reg.HOME_BIAS_CMD then some Fld.HOME_BIAS_CMD_GO
  else if 0x90000 ≤ o && o < 0x90100 then some (Fld.SQ_CMD_GO ((o - 0x90000) / 0x40))
  else if 0xA0000 ≤ o && o < 0xA0100 then some (Fld.TIER_CMD_GO ((o - 0xA0000) / 0x40))
  else if 0xD0100 ≤ o && o < 0xD0180 then some (Fld.SEC_CMD_GO ((o - 0xD0100) / 0x40))
  else none

/-- Events of a unit kind: the highest number (CNT_SEL.EVENT). -/
def topEvent (ukind : Nat) : Nat := if ukind = 0 then 7 else if ukind = 1 || ukind = 3 then 2 else 0

/-- Does a write change the TEAMS field of CORE_PREEMPT or CORE_RESUME while its GO is 1 (Table 03.8)? A write that carries the present
value counts as no write of TEAMS, so that the other fields of the word can be written (DESIGN CHOICE, log entry 107). -/
def State.teamsBusy (s : State) (o v : Nat) : Bool :=
  0x100000 ≤ o && o < 0x200000 && (o % 0x1000 == 0x10 || o % 0x1000 == 0x14) && (s.reg o).testBit 31 &&
    v % 2 ^ 16 != s.reg o % 2 ^ 16

/-- Does the write break another rule of its chapter that names R10 (reason 0x7)? `v`: the new value of every field. -/
def State.otherRule (s : State) (o v : Nat) : Bool :=
  if o = Reg.SET_PART_RUN then
    parts16.any (fun p => v.testBit p && !(s.fld Fld.SET_PART_RUN_RUN).testBit p &&
      ((s.fld Fld.SET_PART_STATE_HELD).testBit p || s.openErrs.any (fun e => e.cls == 2 && e.part == some p)))
  else if o = Reg.ERR_LOUPE then bits v 31 24 != 0x4C
  else if o = Reg.ERR_TRACE_BASE then s.fldB Fld.ERR_TRACE_CTL_EN && bits v 45 0 != s.fld Fld.ERR_TRACE_BASE_BASE
  else if o = Reg.ERR_TRACE_CTL then s.fldB Fld.ERR_TRACE_CTL_EN && bits v 20 16 != s.fld Fld.ERR_TRACE_CTL_SIZE
  else if o = Reg.PWR_CAP then bits v 15 0 < 500 || bits v 15 0 > 1500
  else if o = Reg.XLT_RING_BASE then s.fldB Fld.XLT_RING_CTL_EN && bits v 45 0 != s.fld Fld.XLT_RING_BASE_BASE
  else if o = Reg.XLT_RING_CTL then s.fldB Fld.XLT_RING_CTL_EN && bits v 20 16 != s.fld Fld.XLT_RING_CTL_SIZE
  else if o = Reg.EP_CONT_RELEASE then bits v 31 24 != 0xA5 || s.ep.cont != .frozen
  else false

/-- The value of every field after a write of `w` to the bits of `be`: the present one where the write does not reach. -/
def merged (old w be : Nat) : Nat := (old - (old &&& be)) + (w &&& be)

/-- Does a write under the mask `be` reach any bit of the field (R17)? -/
def RField.meets (f : RField) (be : Nat) : Bool := bits be f.hi f.lo != 0

/-- Does the write carry a reserved encoding (R14)? ADVICE 0 is one in a command whose OP is advise, to which the field belongs
(DEDUCED, log entry 116). -/
def encBad (r : RRow) (o w be v : Nat) : Bool :=
  r.fs.any (fun f =>
    match f.ok with
    | some (lo, hi) => f.meets be && (let x := bits (if f.ty = .wo then w else v) f.hi f.lo; x < lo || x > hi)
    | none => false) ||
    (0x50100 ≤ o && o < 0x50180 && o % 0x20 == 0x10 && bits v 29 26 == 7 && bits v 20 18 == 0) ||
    (0x1400100 ≤ o && o < 0x1400180 && (bits v 31 28 > 11 || bits v 7 0 > topEvent (bits v 31 28)))

/-- The reason for which a write of `w` under the mask `be` is a violation (Table 17.10). -/
def State.violates (s : State) (a : Agent) (r : RRow) (o w be : Nat) : Option Nat :=
  -- an RWT field is written in its staging copy
  let v := merged (s.reg o) w be
  let has := fun (t : RTy) => r.fs.any (fun f => f.ty == t && f.meets be)
  if !s.mayWriteReg a o v then some 5
  else if (match goOf o with | some f => s.fldB f | none => false) || s.teamsBusy o v then some 6
  else if encBad r o w be v then some 3
  else if has .rwq && !s.allStopped then some 1
  else if has .rwt && s.clasp.st ≠ .opn then some 2
  else if s.otherRule o v then some 7
  else none

/-! ### What a write does -/

def noStage (_ : Nat) : W64 × W64 := (0, 0)

/-- Take up the new values of the fields: RW as written, RW1C cleared by 1, RW1S set by 1; RWT goes to the staging copy. -/
def State.storeReg (s : State) (r : RRow) (o w be : Nat) : State :=
  let old := s.reg o
  let rw := be &&& r.mask (fun f => f.ty == .rw || f.ty == .rwq)
  let c1 := w &&& be &&& r.mask (fun f => f.ty == .w1c)
  let s1 := w &&& be &&& r.mask (fun f => f.ty == .w1s)
  let t := be &&& r.mask (fun f => f.ty == .rwt)
  let new_ := merged old w rw
  let s := s.setReg o ((new_ - (new_ &&& c1)) ||| s1)
  if t = 0 then s
  else
    let x := SMap.get noStage s.clasp.rwt o
    let m := SMap.set noStage s.clasp.rwt o (BitVec.ofNat 64 (merged x.1.toNat w t), x.2 ||| BitVec.ofNat 64 t)
    { s with clasp := { s.clasp with rwt := m } }

/-- CNT_CTL.CLEAR sets every counter to zero and clears itself. -/
def State.cntZero (s : State) : State :=
  ((List.range 32).foldl (fun (t : State) k => t.setFld (Fld.CNT_COUNT k) 0) s).setFldB Fld.CNT_CTL_CLEAR false

/-- The action that a write of the register at `o` starts. `go`: a 1 was written to bit 31. -/
def State.regAct (s : State) (a : Agent) (o w : Nat) (go enWas : Bool) : State :=
  if o = Reg.SET_LOAD_CMD then (if go then s.loadGo else s)
  else if o = Reg.SET_PART_RUN then s.runGo (s.fld Fld.SET_PART_RUN_RUN)
  else if o = Reg.SET_CLASP_CMD then (if go then s.claspGo a else s)
  else if o = Reg.ERR_LOUPE then (if w.testBit 0 then s.freezeChip else s)
  else if o = Reg.PWR_CAP then s.powerVoid
  else if o = Reg.XLT_RING_CTL then (if go && !enWas then s.ringStart else s)
  else if o = Reg.XLT_FAULT_RESP then s.faultResp (bits w 63 62) (bits w 47 32) (bits w 31 0)
  else if o = Reg.XLT_WIN_CMD then (if go then s.winGo else s)
  else if o = Reg.L2C_WAY_PWR then (if go then s.wayGo else s)
  else if o = Reg.HOME_BIAS_CMD then (if go then s.biasGo else s)
  else if o = Reg.EP_CONT_RELEASE then s.contRelease (w.testBit 0)
  else if o = Reg.CNT_CTL then (if w.testBit 30 then s.cntZero else s)
  else if 0x40100 ≤ o && o < 0x40180 && o % 0x40 = 0x28 then (if go then s.landGo ((o - 0x40100) / 0x40) else s)
  else if 0x50100 ≤ o && o < 0x50180 && o % 0x20 = 0x10 then (if go then s.xltGo ((o - 0x50100) / 0x20) else s)
  else if 0x60100 ≤ o && o < 0x60200 && o % 0x20 = 0x10 then (if go then s.mntGo ((o - 0x60100) / 0x20) else s)
  else if 0x90000 ≤ o && o < 0x90100 && o % 0x40 = 0x18 then (if go then s.sqGo a ((o - 0x90000) / 0x40) else s)
  else if 0xA0000 ≤ o && o < 0xA0100 && o % 0x40 = 0x10 then (if go then s.tierGo a ((o - 0xA0000) / 0x40) else s)
  else if 0xB0000 ≤ o && o < 0xB0800 && o % 0x100 = 0x04 then (if go then s.portGo ((o - 0xB0000) / 0x100) else s)
  else if 0xD0100 ≤ o && o < 0xD0180 && o % 0x40 = 0x10 then (if go then s.secGo ((o - 0xD0100) / 0x40) else s)
  else if 0x100000 ≤ o && o < 0x200000 then
    let c := (o - 0x100000) / 0x1000
    match o % 0x1000 with
    -- a repeated GO has no further effect
    | 0x10 => if go && !enWas then s.preemptGo c else s
    | 0x14 =>
      if go && !enWas then s.resumeGo c
      -- DISCARD for teams whose restore has begun (Table 03.8)
      else if enWas && s.fldB (Fld.CORE_RESUME_DISCARD c) then s.discardGo c
      else s
    | 0xC00 => if w.testBit 3 then s.fmtClear c else s
    | 0xC08 => s.seedSr c (BitVec.ofNat 64 w)
    | _ => s
  else s

/-- The codes of access sizes in a violation entry. -/
def sizeCode (n : Nat) : Nat := if n = 1 then 0 else if n = 2 then 1 else if n = 4 then 2 else 3

/-- A write that reaches the register at `o`: a violation, or its effect; the Bool says that it was none. -/
def State.commitReg (s : State) (a : Agent) (r : RRow) (o w be off n data : Nat) : State × Bool :=
  match s.violates a r o w be with
  | some reason => (s.violation off (sizeCode n) reason a data, false)
  | none =>
    if o = Reg.XLT_RING_CONS then (s.ringCons (w % 2 ^ 32), true)
    else
      let was := (s.reg o).testBit 31
      ((s.storeReg r o w be).regAct a o w ((w &&& be).testBit 31) was, true)

/-! ### Holding words (R17) -/

def State.holdOf (s : State) : Agent → HoldWord
  | .host => s.holdHost
  | .firmware => s.holdFw

def State.setHold (s : State) (a : Agent) (h : HoldWord) : State :=
  match a with
  | .host => { s with holdHost := h }
  | .firmware => { s with holdFw := h }

/-- An access of agent `a` to the register at `o`: a held upper word of that register is spent, and a held lower word of any other
is discarded. -/
def State.touchReg (s : State) (a : Agent) (o : Nat) : State :=
  let h := s.holdOf a
  s.setHold a ⟨match h.rd with | some (r, w) => if r = o then none else some (r, w) | none => none,
    match h.wr with | some (r, w) => if r = o then some (r, w) else none | none => none⟩

/-- Does the wide register hold a WO or RW1S field? -/
def RRow.acts (r : RRow) : Bool := r.wide && r.fs.any (fun f => f.ty == .wo || f.ty == .w1s)

/-! ### Accesses -/

/-- A write of the word at `off` of the error-log window: bit 12 of the word at 0x10 clears OPEN (R506). -/
def State.clearOpen (s : State) (i : Nat) : State :=
  match SMap.get noErr s.errs i with
  | some e => { s with errs := SMap.set noErr s.errs i (some { e with opn := false }) }
  | none => s

/-- A 32-bit write at an aligned offset. The lower half of a register that holds a WO or RW1S field is held whoever may write the
register: the write that performs the action, that of the upper half, is the one that can be a violation (DESIGN CHOICE, log entry 102). -/
def State.write32 (s : State) (a : Agent) (off w : Nat) : State × Bool :=
  let n := off / 4
  if inMirror off then (s.touchReg a off, true)
  else if inErrLog off then
    let s := s.touchReg a off
    if off % 32 = 0x10 then (if w.testBit 12 then s.clearOpen ((off - errLogBase) / 32) else s, true)
    else (s.violation off 2 5 a w, false)
  else if inViolLog off then ((s.touchReg a off).violation off 2 5 a w, false)
  else if inMsix off then
    let k := n - msixBase / 4
    let m : W32 := match k % 4 with | 0 => 0xFFFFFFFC | 3 => 1 | _ => 0xFFFFFFFF
    ((s.touchReg a off).setMsix k (BitVec.ofNat 32 w &&& m), true)
  else if inPba off then (s.touchReg a off, true)
  else if inComp off then ((s.touchReg a off).compWrite (off - compBase) (BitVec.ofNat 32 w) 0xFFFFFFFF, true)
  else
    match findReg off with
    | none => (s, true)
    | some (r, o) =>
      let held := (s.holdOf a).wr
      let s := s.touchReg a o
      if !r.wide then s.commitReg a r o w (2 ^ 32 - 1) off 4 w
      else if r.acts then
        if off = o then (s.setHold a { s.holdOf a with wr := some (o, BitVec.ofNat 32 w) }, true)
        else
          let lo := match held with | some (q, x) => if q = o then x.toNat else 0 | none => 0
          let s := s.setHold a { s.holdOf a with wr := none }
          s.commitReg a r o (lo + w * 2 ^ 32) (2 ^ 64 - 1) off 4 w
      else if off = o then s.commitReg a r o w (2 ^ 32 - 1) off 4 w
      else s.commitReg a r o (w * 2 ^ 32) (2 ^ 64 - 2 ^ 32) off 4 w

/-- A 32-bit read at an aligned offset. -/
def State.read32 (s : State) (a : Agent) (off : Nat) : State × Nat :=
  match s.word off with
  | none => (s, 0)
  | some v =>
    match findReg off with
    | some (r, o) =>
      let held := (s.holdOf a).rd
      let s := s.touchReg a o
      if !r.wide then (s, v)
      else if off = o then (s.setHold a { s.holdOf a with rd := some (o, BitVec.ofNat 32 (s.regVal r o / 2 ^ 32)) }, v)
      else
        match held with
        | some (q, x) => (s, if q = o then x.toNat else v)
        | none => (s, v)
    | none => (s.touchReg a off, v)

/-- The words that an access of `n` bytes at `off` covers, by their offsets. -/
def wordsOf (off n : Nat) : List Nat := (List.range ((off + n - 1) / 4 + 1 - off / 4)).map (fun i => (off / 4 + i) * 4)

/-- Is a word of the access assigned (R15)? -/
def State.assigned (s : State) (off n : Nat) : Bool := (wordsOf off n).any (fun o => (s.word o).isSome)

/-- An access that is a violation is still one to every register that it covers, for the holding words (R17). -/
def State.touchAll (s : State) (a : Agent) (off n : Nat) : State :=
  (wordsOf off n).foldl (fun (t : State) o => if (t.word o).isSome then t.touchReg a (match findReg o with | some (_, q) => q | none => o) else t) s

/-- The 64-bit register at `off`, where there is one. -/
def wideAt (off : Nat) : Option RRow :=
  match findReg off with
  | some (r, o) => if r.wide && o = off && off % 8 = 0 then some r else none
  | none => none

/-- A register write of `n` bytes (R15, R16); the Bool says that it raised no violation. -/
def State.regWrite (s : State) (a : Agent) (off n v : Nat) : State × Bool :=
  if !s.assigned off n then (s, true)
  else if n < 4 || off % n ≠ 0 then ((s.touchAll a off n).violation off (sizeCode n) 4 a v, false)
  else if n = 4 then s.write32 a off v
  else
    match wideAt off with
    | some r => (s.touchReg a off).commitReg a r off v (2 ^ 64 - 1) off 8 v
    | none =>
      let (s, x) := s.write32 a off (v % 2 ^ 32)
      let (s, y) := s.write32 a (off + 4) (v / 2 ^ 32)
      (s, x && y)

/-- A register read of `n` bytes; `none`: a violation. -/
def State.regRead (s : State) (a : Agent) (off n : Nat) : State × Option Nat :=
  if !s.assigned off n then (s, some 0)
  else if off % n ≠ 0 then ((s.touchAll a off n).violation off (sizeCode n) 4 a 0, none)
  else if n ≤ 4 then
    let (s, v) := s.read32 a (off / 4 * 4)
    (s, some (v / 2 ^ (8 * (off % 4)) % 2 ^ (8 * n)))
  else
    match wideAt off with
    | some r => (s.touchReg a off, some (s.regVal r off))
    | none =>
      let (s, x) := s.read32 a off
      let (s, y) := s.read32 a (off + 4)
      (s, some (x + y * 2 ^ 32))

/-! ### The agents (R304, R320) -/

/-- The identity and endpoint regions and the component registers. -/
def servedFrozen (o : Nat) : Bool := o < 0x10000 || (0x80000 ≤ o && o < 0x90000) || inComp o

/-- What BAR0 serves in Vestibule (Table 10.4). -/
def servedVestibule (o : Nat) : Bool := inMinimum o || inComp o

/-- Does a refused image leave the register out of what BAR0 serves (R442)? The identity and security regions answer. -/
def State.heldOff (s : State) (o : Nat) : Bool := s.rot.refused && !(o < 0x10000 || (0xD0000 ≤ o && o < 0xE0000))

/-- Does BAR0 not serve an offset of a region (Table 10.4, R442)? -/
def State.unserved (s : State) (o : Nat) : Bool := (s.aon.dev = .vestibule && !servedVestibule o) || s.heldOff o

/-- Does firmware run (R442)? -/
def State.fwRuns (s : State) : Bool := s.runs && s.rot.fw.isSome

/-- The size of an access of `n` bytes. -/
def accSizeOf (n : Nat) : AccSize := match n with | 1 => .b1 | 2 => .b2 | 4 => .b4 | _ => .b8

/-- A register write by an agent; the host's waits for its turn (R306). -/
def State.accWrite (s : State) (a : Agent) (off n v : Nat) : State :=
  match a with
  | .firmware => if s.fwRuns then (s.regWrite .firmware off n v).1 else s
  | .host =>
    if !s.ioHere then s.keepIn (.registerWrite .host (BitVec.ofNat 25 off) (accSizeOf n) (BitVec.ofNat 64 v))
    else if s.inD3 || !s.memEnable then s.postedUr
    else if s.ep.cont = .frozen && !servedFrozen off then s.refused
    else if s.unserved off then s
    else (s.regWrite .host off n v).1

/-- A register read by an agent; the host gets a completion. -/
def State.accRead (s : State) (a : Agent) (off n : Nat) : State :=
  match a with
  | .firmware => if s.fwRuns then (s.regRead .firmware off n).1 else s
  | .host =>
    if !s.ioHere then s.keepIn (.registerRead .host (BitVec.ofNat 25 off) (accSizeOf n))
    else if s.inD3 || !s.memEnable then s.sendUr
    else if s.ep.cont = .frozen && !servedFrozen off then s.refused.sendCa
    else if s.unserved off then s.hostSend (.regRsp 0)
    else
      match s.regRead .host off n with
      | (s, some v) => s.hostSend (.regRsp (BitVec.ofNat 64 v))
      | (s, none) => s.hostSend .regErr

/-- REGISTER_WRITE. -/
def execRegisterWrite (a : Agent) (off : BitVec 25) (size : AccSize) (v : W64) (s : State) : Out :=
  .next (s.accWrite a off.toNat size.bytes (v.toNat % 2 ^ (8 * size.bytes)))

/-- REGISTER_READ. -/
def execRegisterRead (a : Agent) (off : BitVec 25) (size : AccSize) (s : State) : Out :=
  .next (s.accRead a off.toNat size.bytes)

end Sys2Proof.Machine
end

