-- ==== Sys2Proof/Machine/Inbound.lean ====
section
/-! DEFINITION. What the host has sent and had to wait, taken up in its order (R233, R306, R318). -/
namespace Sys2Proof.Machine

/-- What a command that arrived on the host link does in its turn. Others do not wait. -/
def inboundExec (c : Instr) (s : State) : Out :=
  match c with
  | .configRequest w off size v => execConfigRequest w off size v s
  | .registerRead a off size => execRegisterRead a off size s
  | .registerWrite a off size v => execRegisterWrite a off size v s
  | .doorbell q v => execDoorbell q v s
  | .cqCons q v => execCqCons q v s
  | .bar4Read off size => execBar4Read off size s
  | .bar4Write off size v => execBar4Write off size v s
  | .cxlReset => execCxlReset s
  | .cxlIoCompletion tag bytes ok => execCxlIoCompletion tag bytes ok s
  | .ideKm stream secure transcript => execIdeKm stream secure transcript s
  | .doeDiscovery index => execDoeDiscovery index s
  | .cdatTableAccess entry => execCdatTableAccess entry s
  | .getVersion t => execGetVersion t s
  | .getCapabilities t => execGetCapabilities t s
  | .negotiateAlgorithms t acceptable => execNegotiateAlgorithms t acceptable s
  | .getCertificate t slot offset length => execGetCertificate t slot offset length s
  | .challenge t slot nonce => execChallenge t slot nonce s
  | .getMeasurements t index nonce => execGetMeasurements t index nonce s
  | .keyExchange t slot => execKeyExchange t slot s
  | .heartbeat t session => execHeartbeat t session s
  | .keyUpdate t session => execKeyUpdate t session s
  | .getQuote t nonce part => execGetQuote t nonce part s
  | .getLog t first count => execGetLog t first count s
  | .getPqChain t => execGetPqChain t s
  | .memRd addr mv => execMemRd addr mv s
  | .memRdData addr => execMemRdData addr s
  | .memInv addr mv => execMemInv addr mv s
  | .memInvNT addr mv => execMemInvNT addr mv s
  | .memClnEvct addr mv => execMemClnEvct addr mv s
  | .biConflict addr => execBiConflict addr s
  | .memWr addr mv data poison => execMemWr addr mv data poison s
  | .memWrPtl addr mv data mask => execMemWrPtl addr mv data mask s
  | .biRspI addr => execBiRspI addr s
  | .biRspS addr => execBiRspS addr s
  | .biRspE addr => execBiRspE addr s
  | .snpInv addr => execSnpInv addr s
  | .snpData addr => execSnpData addr s
  | .snpCur addr => execSnpCur addr s
  | .cxlCacheResponse addr rsp => execCxlCacheResponse addr rsp s
  | .memRdFwd addr grant => execMemRdFwd addr grant s
  | .memWrFwd addr => execMemWrFwd addr s
  | _ => .next s

/-- Take up in order what waits; each takes effect or waits again. -/
def State.takeWaiting (s : State) : State :=
  s.inWait.foldl (fun t c => match inboundExec c t with | .next u => u | _ => t) { s with inWait := [] }

/-- RETRAIN_DONE: the retrain ends, held traffic leaves, and what the host has sent meanwhile is taken up (R318). -/
def execRetrainDone (s : State) : Out :=
  .next (s.whenRuns (fun s =>
    if s.ep.retrain then ({ s with ep := { s.ep with retrain := false } } : State).drainHold.takeWaiting else s))

end Sys2Proof.Machine
end

