-- ==== Sys2Proof/Machine/Clock.lean ====
section
/-! DEFINITION. What happens while no command waits (log entry 8). -/
namespace Sys2Proof.Machine

/-- Newel moves on by one nanosecond, as its servo steers it, and work goes on (R394, R403); image reads that waited for memory of this
chip go on (R393, R420, R424); held entries that a full hold buffer has poisoned take their effect (R321); sectors and pages that the
tier manager has still to bring go on (R371, R375); and what the host has sent and had to wait is taken up in order (R306). -/
def State.idle (s : State) : State :=
  let before := s.aon.newel
  s.tick.whenRuns (fun s =>
    let s := s.workOn (s.aon.newel - before).toNat
    let s := s.pullAll
    let s := if s.brings.isEmpty && s.advised.isEmpty then s else s.whenService State.tierPump
    (if s.ep.hold.any (·.bad) then s.dropBad.settle else s).takeWaiting)

end Sys2Proof.Machine
end

