-- ==== Sys2Proof/Machine/CommandRows.lean ====
section
/-! DEFINITION. The commands that are one register write with a field set: each is the write of R15 by its agent, and takes the
effect that its chapter gives the field. -/
namespace Sys2Proof.Machine

/-- A register value with some fields set and every other bit zero. -/
def fieldsVal (l : List (FRef × Nat)) : Nat := l.foldl (fun v f => setBits v f.1.hi f.1.lo f.2) 0

/-- Codes of ADVICE. -/
def adviceCode : Advice → Nat
  | .willneed => 1 | .cold => 2 | .pin => 3 | .unpin => 4

/-- A register write of an agent, by its fields. -/
def State.issueWrite (s : State) (a : Agent) (reg n : Nat) (l : List (FRef × Nat)) : State := s.accWrite a reg n (fieldsVal l)

/-! ### Cores (R68, R88, R119, R122) -/

/-- PREEMPT: a write of CORE_PREEMPT with GO. -/
def execPreempt (a : Agent) (c : Fin 256) (teams : BitVec 16) (s : State) : Out :=
  .next (s.issueWrite a (Reg.CORE_PREEMPT c) 4 [(Fld.CORE_PREEMPT_GO c, 1), (Fld.CORE_PREEMPT_TEAMS c, teams.toNat)])

/-- RESUME: a write of CORE_RESUME with GO. -/
def execResume (a : Agent) (c : Fin 256) (teams : BitVec 16) (s : State) : Out :=
  .next (s.issueWrite a (Reg.CORE_RESUME c) 4 [(Fld.CORE_RESUME_GO c, 1), (Fld.CORE_RESUME_TEAMS c, teams.toNat)])

/-- DISCARD: a write of CORE_RESUME with GO and DISCARD. -/
def execDiscard (a : Agent) (c : Fin 256) (teams : BitVec 16) (s : State) : Out :=
  .next (s.issueWrite a (Reg.CORE_RESUME c) 4
    [(Fld.CORE_RESUME_GO c, 1), (Fld.CORE_RESUME_DISCARD c, 1), (Fld.CORE_RESUME_TEAMS c, teams.toNat)])

/-- CNT_CLR: a write of FMT_GUARD_CTL with CNT_CLR and its other fields as they stand. -/
def execCntClr (a : Agent) (c : Fin 256) (s : State) : Out :=
  .next (s.issueWrite a (Reg.FMT_GUARD_CTL c) 4
    [(Fld.FMT_GUARD_CTL_CNT_CLR c, 1), (Fld.FMT_GUARD_CTL_SR_OFF c, (s.fld (Fld.FMT_GUARD_CTL_SR_OFF c))),
      (Fld.FMT_GUARD_CTL_ESC_OFF c, (s.fld (Fld.FMT_GUARD_CTL_ESC_OFF c))),
      (Fld.FMT_GUARD_CTL_LIMIT_CAP c, (s.fld (Fld.FMT_GUARD_CTL_LIMIT_CAP c))),
      (Fld.FMT_GUARD_CTL_FLOOR c, (s.fld (Fld.FMT_GUARD_CTL_FLOOR c)))])

/-- FMT_SR_SEED: a write of the seed. -/
def execFmtSrSeed (a : Agent) (c : Fin 256) (seed : W64) (s : State) : Out :=
  .next (s.issueWrite a (Reg.FMT_SR_SEED c) 8 [(Fld.FMT_SR_SEED_SEED c, seed.toNat)])

/-! ### Range operations, ways and bias (R210, R212, R258) -/

/-- CLEAN: range operation 0 over the range that the channel names. -/
def execClean (a : Agent) (ch : Fin 8) (part : Fin 16) (s : State) : Out :=
  .next (s.issueWrite a (Reg.L2C_MNT_CMD ch) 4
    [(Fld.L2C_MNT_CMD_GO ch, 1), (Fld.L2C_MNT_CMD_PARTITION ch, part.val), (Fld.L2C_MNT_CMD_OP ch, 0)])

/-- INVALIDATE: range operation 1 over the range that the channel names. -/
def execInvalidate (a : Agent) (ch : Fin 8) (part : Fin 16) (s : State) : Out :=
  .next (s.issueWrite a (Reg.L2C_MNT_CMD ch) 4
    [(Fld.L2C_MNT_CMD_GO ch, 1), (Fld.L2C_MNT_CMD_PARTITION ch, part.val), (Fld.L2C_MNT_CMD_OP ch, 1)])

/-- CLEAN_AND_INVALIDATE: range operation 2 over the range that the channel names. -/
def execCleanAndInvalidate (a : Agent) (ch : Fin 8) (part : Fin 16) (s : State) : Out :=
  .next (s.issueWrite a (Reg.L2C_MNT_CMD ch) 4
    [(Fld.L2C_MNT_CMD_GO ch, 1), (Fld.L2C_MNT_CMD_PARTITION ch, part.val), (Fld.L2C_MNT_CMD_OP ch, 2)])

/-- PRELOAD_AND_LOCK: range operation 3 over the range that the channel names. -/
def execPreloadAndLock (a : Agent) (ch : Fin 8) (part : Fin 16) (s : State) : Out :=
  .next (s.issueWrite a (Reg.L2C_MNT_CMD ch) 4
    [(Fld.L2C_MNT_CMD_GO ch, 1), (Fld.L2C_MNT_CMD_PARTITION ch, part.val), (Fld.L2C_MNT_CMD_OP ch, 3)])

/-- UNLOCK: range operation 4 over the range that the channel names. -/
def execUnlock (a : Agent) (ch : Fin 8) (part : Fin 16) (s : State) : Out :=
  .next (s.issueWrite a (Reg.L2C_MNT_CMD ch) 4
    [(Fld.L2C_MNT_CMD_GO ch, 1), (Fld.L2C_MNT_CMD_PARTITION ch, part.val), (Fld.L2C_MNT_CMD_OP ch, 4)])

/-- WAY_POWER_REQUEST: a write of L2C_WAY_PWR with GO. -/
def execWayPowerRequest (a : Agent) (target : BitVec 16) (s : State) : Out :=
  .next (s.issueWrite a Reg.L2C_WAY_PWR 4 [(Fld.L2C_WAY_PWR_GO, 1), (Fld.L2C_WAY_PWR_TARGET, target.toNat)])

/-- BIAS_FLIP_TO_HOST: from HOME_BIAS_ADDR on. -/
def execBiasFlipToHost (a : Agent) (pages : BitVec 16) (s : State) : Out :=
  .next (s.issueWrite a Reg.HOME_BIAS_CMD 4
    [(Fld.HOME_BIAS_CMD_GO, 1), (Fld.HOME_BIAS_CMD_TO_HOST, 1), (Fld.HOME_BIAS_CMD_PAGES, pages.toNat)])

/-- BIAS_FLIP_TO_DEVICE: from HOME_BIAS_ADDR on. -/
def execBiasFlipToDevice (a : Agent) (pages : BitVec 16) (s : State) : Out :=
  .next (s.issueWrite a Reg.HOME_BIAS_CMD 4 [(Fld.HOME_BIAS_CMD_GO, 1), (Fld.HOME_BIAS_CMD_PAGES, pages.toNat)])

/-! ### Faults and their ring (R281 to R283) -/

/-- FAULT_RESP_RETRY: ACTION 0b01 for a record. -/
def execFaultRespRetry (a : Agent) (seq : W32) (s : State) : Out :=
  .next (s.issueWrite a Reg.XLT_FAULT_RESP 8 [(Fld.XLT_FAULT_RESP_ACTION, 1), (Fld.XLT_FAULT_RESP_SEQ, seq.toNat)])

/-- FAIL: ACTION 0b10 for a record. -/
def execFail (a : Agent) (seq : W32) (s : State) : Out :=
  .next (s.issueWrite a Reg.XLT_FAULT_RESP 8 [(Fld.XLT_FAULT_RESP_ACTION, 2), (Fld.XLT_FAULT_RESP_SEQ, seq.toNat)])

/-- RETRY_TAG: ACTION 0b11 for a tag. -/
def execRetryTag (a : Agent) (tag : W16) (s : State) : Out :=
  .next (s.issueWrite a Reg.XLT_FAULT_RESP 8 [(Fld.XLT_FAULT_RESP_ACTION, 3), (Fld.XLT_FAULT_RESP_TAG, tag.toNat)])

/-- RING_ENABLE: a write of XLT_RING_CTL with EN. -/
def execRingEnable (a : Agent) (size : BitVec 5) (vec : BitVec 11) (s : State) : Out :=
  .next (s.issueWrite a Reg.XLT_RING_CTL 4
    [(Fld.XLT_RING_CTL_EN, 1), (Fld.XLT_RING_CTL_SIZE, size.toNat), (Fld.XLT_RING_CTL_VEC, vec.toNat)])

/-- RING_CONS_WRITE: a write of XLT_RING_CONS. -/
def execRingConsWrite (a : Agent) (v : W32) (s : State) : Out :=
  .next (s.issueWrite a Reg.XLT_RING_CONS 4 [(Fld.XLT_RING_CONS_CONS, v.toNat)])

/-! ### Translation commands (R268, R286 to R291, R296) -/

/-- INVALIDATE_TAG: OP 0x0. -/
def execInvalidateTag (a : Agent) (ch : Fin 4) (tag : W16) (s : State) : Out :=
  .next (s.issueWrite a (Reg.XLT_CMD ch) 4 [(Fld.XLT_CMD_GO ch, 1), (Fld.XLT_CMD_OP ch, 0), (Fld.XLT_CMD_TAG ch, tag.toNat)])

/-- INVALIDATE_EVERY_TAG: OP 0x1. -/
def execInvalidateEveryTag (a : Agent) (ch : Fin 4) (s : State) : Out :=
  .next (s.issueWrite a (Reg.XLT_CMD ch) 4 [(Fld.XLT_CMD_GO ch, 1), (Fld.XLT_CMD_OP ch, 1)])

/-- CREATE: OP 0x2, with the root in XLT_CMD_ADDR. -/
def execCreate (a : Agent) (ch : Fin 4) (tag : W16) (part : Fin 16) (priv : Bool) (s : State) : Out :=
  .next (s.issueWrite a (Reg.XLT_CMD ch) 4
    [(Fld.XLT_CMD_GO ch, 1), (Fld.XLT_CMD_OP ch, 2), (Fld.XLT_CMD_TAG ch, tag.toNat),
      (Fld.XLT_CMD_PARTITION ch, part.val), (Fld.XLT_CMD_PRIV ch, priv.toNat)])

/-- DESTROY: OP 0x3. -/
def execDestroy (a : Agent) (ch : Fin 4) (tag : W16) (s : State) : Out :=
  .next (s.issueWrite a (Reg.XLT_CMD ch) 4 [(Fld.XLT_CMD_GO ch, 1), (Fld.XLT_CMD_OP ch, 3), (Fld.XLT_CMD_TAG ch, tag.toNat)])

/-- SET_ROOT: OP 0x8, with the root in XLT_CMD_ADDR. -/
def execSetRoot (a : Agent) (ch : Fin 4) (tag : W16) (s : State) : Out :=
  .next (s.issueWrite a (Reg.XLT_CMD ch) 4 [(Fld.XLT_CMD_GO ch, 1), (Fld.XLT_CMD_OP ch, 8), (Fld.XLT_CMD_TAG ch, tag.toNat)])

/-- TRANSLATION_PREFETCH: OP 0x4. -/
def execTranslationPrefetch (a : Agent) (ch : Fin 4) (tag : W16) (s : State) : Out :=
  .next (s.issueWrite a (Reg.XLT_CMD ch) 4 [(Fld.XLT_CMD_GO ch, 1), (Fld.XLT_CMD_OP ch, 4), (Fld.XLT_CMD_TAG ch, tag.toNat)])

/-- DATA_PREFETCH: OP 0x5. -/
def execDataPrefetch (a : Agent) (ch : Fin 4) (tag : W16) (s : State) : Out :=
  .next (s.issueWrite a (Reg.XLT_CMD ch) 4 [(Fld.XLT_CMD_GO ch, 1), (Fld.XLT_CMD_OP ch, 5), (Fld.XLT_CMD_TAG ch, tag.toNat)])

/-- DATA_PREFETCH_AND_LOCK: OP 0x6. -/
def execDataPrefetchAndLock (a : Agent) (ch : Fin 4) (tag : W16) (s : State) : Out :=
  .next (s.issueWrite a (Reg.XLT_CMD ch) 4 [(Fld.XLT_CMD_GO ch, 1), (Fld.XLT_CMD_OP ch, 6), (Fld.XLT_CMD_TAG ch, tag.toNat)])

/-- ADVISE: OP 0x7 with the code of ADVICE. -/
def execAdvise (a : Agent) (ch : Fin 4) (tag : W16) (adv : Advice) (s : State) : Out :=
  .next (s.issueWrite a (Reg.XLT_CMD ch) 4
    [(Fld.XLT_CMD_GO ch, 1), (Fld.XLT_CMD_OP ch, 7), (Fld.XLT_CMD_TAG ch, tag.toNat),
      (Fld.XLT_CMD_ADVICE ch, (adviceCode adv))])

/-- WINDOW_REFRESH: a write of XLT_WIN_CMD with GO. -/
def execWindowRefresh (a : Agent) (all : Bool) (idx : BitVec 12) (s : State) : Out :=
  .next (s.issueWrite a Reg.XLT_WIN_CMD 4
    [(Fld.XLT_WIN_CMD_GO, 1), (Fld.XLT_WIN_CMD_ALL, all.toNat), (Fld.XLT_WIN_CMD_IDX, idx.toNat)])

/-! ### Containment release (R323) -/

/-- RELEASE_RESUME: a write of EP_CONT_RELEASE with MODE 0. -/
def execReleaseResume (a : Agent) (key : Byte) (s : State) : Out :=
  .next (s.issueWrite a Reg.EP_CONT_RELEASE 4 [(Fld.EP_CONT_RELEASE_KEY, key.toNat)])

/-- RELEASE_DISCARD: a write of EP_CONT_RELEASE with MODE 1. -/
def execReleaseDiscard (a : Agent) (key : Byte) (s : State) : Out :=
  .next (s.issueWrite a Reg.EP_CONT_RELEASE 4 [(Fld.EP_CONT_RELEASE_KEY, key.toNat), (Fld.EP_CONT_RELEASE_MODE, 1)])

/-! ### Queue commands (R327, R340, R355, R356) -/

/-- CREATE_SQ: OP 0x0. -/
def execCreateSq (a : Agent) (ch : Fin 4) (q : Fin 4096) (cls : BitVec 2) (part : Fin 16) (log2 : BitVec 5) (s : State) : Out :=
  .next (s.issueWrite a (Reg.SQ_CMD ch) 4
    [(Fld.SQ_CMD_GO ch, 1), (Fld.SQ_CMD_OP ch, 0), (Fld.SQ_CMD_CLASS ch, cls.toNat), (Fld.SQ_CMD_PARTITION ch, part.val),
      (Fld.SQ_CMD_LOG2SIZE ch, log2.toNat), (Fld.SQ_CMD_QUEUE ch, q.val)])

/-- CREATE_CQ: OP 0x1. -/
def execCreateCq (a : Agent) (ch : Fin 4) (q : Fin 4096) (part : Fin 16) (log2 : BitVec 5) (s : State) : Out :=
  .next (s.issueWrite a (Reg.SQ_CMD ch) 4
    [(Fld.SQ_CMD_GO ch, 1), (Fld.SQ_CMD_OP ch, 1), (Fld.SQ_CMD_PARTITION ch, part.val),
      (Fld.SQ_CMD_LOG2SIZE ch, log2.toNat), (Fld.SQ_CMD_QUEUE ch, q.val)])

/-- DESTROY_SQ: OP 0x2. -/
def execDestroySq (a : Agent) (ch : Fin 4) (q : Fin 4096) (s : State) : Out :=
  .next (s.issueWrite a (Reg.SQ_CMD ch) 4 [(Fld.SQ_CMD_GO ch, 1), (Fld.SQ_CMD_OP ch, 2), (Fld.SQ_CMD_QUEUE ch, q.val)])

/-- DESTROY_CQ: OP 0x3. -/
def execDestroyCq (a : Agent) (ch : Fin 4) (q : Fin 4096) (s : State) : Out :=
  .next (s.issueWrite a (Reg.SQ_CMD ch) 4 [(Fld.SQ_CMD_GO ch, 1), (Fld.SQ_CMD_OP ch, 3), (Fld.SQ_CMD_QUEUE ch, q.val)])

/-- RESET_SQ: OP 0x4. -/
def execResetSq (a : Agent) (ch : Fin 4) (q : Fin 4096) (s : State) : Out :=
  .next (s.issueWrite a (Reg.SQ_CMD ch) 4 [(Fld.SQ_CMD_GO ch, 1), (Fld.SQ_CMD_OP ch, 4), (Fld.SQ_CMD_QUEUE ch, q.val)])

/-- DRAIN_SQ: OP 0x5. -/
def execDrainSq (a : Agent) (ch : Fin 4) (q : Fin 4096) (s : State) : Out :=
  .next (s.issueWrite a (Reg.SQ_CMD ch) 4 [(Fld.SQ_CMD_GO ch, 1), (Fld.SQ_CMD_OP ch, 5), (Fld.SQ_CMD_QUEUE ch, q.val)])

/-- CANCEL_SQ: OP 0x6. -/
def execCancelSq (a : Agent) (ch : Fin 4) (q : Fin 4096) (s : State) : Out :=
  .next (s.issueWrite a (Reg.SQ_CMD ch) 4 [(Fld.SQ_CMD_GO ch, 1), (Fld.SQ_CMD_OP ch, 6), (Fld.SQ_CMD_QUEUE ch, q.val)])

/-- READ_SQ: OP 0x7. -/
def execReadSq (a : Agent) (ch : Fin 4) (q : Fin 4096) (s : State) : Out :=
  .next (s.issueWrite a (Reg.SQ_CMD ch) 4 [(Fld.SQ_CMD_GO ch, 1), (Fld.SQ_CMD_OP ch, 7), (Fld.SQ_CMD_QUEUE ch, q.val)])

/-- READ_CQ: OP 0x8. -/
def execReadCq (a : Agent) (ch : Fin 4) (q : Fin 4096) (s : State) : Out :=
  .next (s.issueWrite a (Reg.SQ_CMD ch) 4 [(Fld.SQ_CMD_GO ch, 1), (Fld.SQ_CMD_OP ch, 8), (Fld.SQ_CMD_QUEUE ch, q.val)])

/-! ### Tier commands (R359 to R365, R378) -/

/-- REGISTER: OP 0x0 with the home tier in ARG. -/
def execRegister (a : Agent) (ch : Fin 4) (id : W16) (tier : BitVec 2) (part : Fin 16) (src : Bool) (s : State) : Out :=
  .next (s.issueWrite a (Reg.TIER_CMD ch) 4
    [(Fld.TIER_CMD_GO ch, 1), (Fld.TIER_CMD_OP ch, 0), (Fld.TIER_CMD_ARG ch, tier.toNat),
      (Fld.TIER_CMD_PARTITION ch, part.val), (Fld.TIER_CMD_SRC ch, src.toNat), (Fld.TIER_CMD_ID ch, id.toNat)])

/-- UNREGISTER: OP 0x1. -/
def execUnregister (a : Agent) (ch : Fin 4) (id : W16) (part : Fin 16) (s : State) : Out :=
  .next (s.issueWrite a (Reg.TIER_CMD ch) 4
    [(Fld.TIER_CMD_GO ch, 1), (Fld.TIER_CMD_OP ch, 1), (Fld.TIER_CMD_PARTITION ch, part.val),
      (Fld.TIER_CMD_ID ch, id.toNat)])

/-- RESIDE: OP 0x2. -/
def execReside (a : Agent) (ch : Fin 4) (id : W16) (part : Fin 16) (arg : BitVec 2) (s : State) : Out :=
  .next (s.issueWrite a (Reg.TIER_CMD ch) 4
    [(Fld.TIER_CMD_GO ch, 1), (Fld.TIER_CMD_OP ch, 2), (Fld.TIER_CMD_ARG ch, arg.toNat),
      (Fld.TIER_CMD_PARTITION ch, part.val), (Fld.TIER_CMD_ID ch, id.toNat)])

/-- OPEN_STREAM: OP 0x3. -/
def execOpenStream (a : Agent) (ch : Fin 4) (id : W16) (part : Fin 16) (s : State) : Out :=
  .next (s.issueWrite a (Reg.TIER_CMD ch) 4
    [(Fld.TIER_CMD_GO ch, 1), (Fld.TIER_CMD_OP ch, 3), (Fld.TIER_CMD_PARTITION ch, part.val),
      (Fld.TIER_CMD_ID ch, id.toNat)])

/-- CLOSE_STREAM: OP 0x4. -/
def execCloseStream (a : Agent) (ch : Fin 4) (id : W16) (part : Fin 16) (s : State) : Out :=
  .next (s.issueWrite a (Reg.TIER_CMD ch) 4
    [(Fld.TIER_CMD_GO ch, 1), (Fld.TIER_CMD_OP ch, 4), (Fld.TIER_CMD_PARTITION ch, part.val),
      (Fld.TIER_CMD_ID ch, id.toNat)])

/-- EXTEND: OP 0x5. -/
def execExtend (a : Agent) (ch : Fin 4) (id : W16) (part : Fin 16) (s : State) : Out :=
  .next (s.issueWrite a (Reg.TIER_CMD ch) 4
    [(Fld.TIER_CMD_GO ch, 1), (Fld.TIER_CMD_OP ch, 5), (Fld.TIER_CMD_PARTITION ch, part.val),
      (Fld.TIER_CMD_ID ch, id.toNat)])

/-- READ_IMAGE: OP 0x6. -/
def execReadImage (a : Agent) (ch : Fin 4) (id : W16) (part : Fin 16) (s : State) : Out :=
  .next (s.issueWrite a (Reg.TIER_CMD ch) 4
    [(Fld.TIER_CMD_GO ch, 1), (Fld.TIER_CMD_OP ch, 6), (Fld.TIER_CMD_PARTITION ch, part.val),
      (Fld.TIER_CMD_ID ch, id.toNat)])

/-- READ_STREAM: OP 0x7. -/
def execReadStream (a : Agent) (ch : Fin 4) (id : W16) (part : Fin 16) (s : State) : Out :=
  .next (s.issueWrite a (Reg.TIER_CMD ch) 4
    [(Fld.TIER_CMD_GO ch, 1), (Fld.TIER_CMD_OP ch, 7), (Fld.TIER_CMD_PARTITION ch, part.val),
      (Fld.TIER_CMD_ID ch, id.toNat)])

/-! ### Stairway ports (R382, R389 to R391) -/

/-- RETRAIN: OP 0 of a port. -/
def execRetrain (a : Agent) (p : Fin 8) (s : State) : Out :=
  .next (s.issueWrite a (Reg.STW_PORT_CMD p) 4 [(Fld.STW_PORT_CMD_GO p, 1), (Fld.STW_PORT_CMD_OP p, 0)])

/-- CONTAIN: OP 1 of a port. -/
def execContain (a : Agent) (p : Fin 8) (s : State) : Out :=
  .next (s.issueWrite a (Reg.STW_PORT_CMD p) 4 [(Fld.STW_PORT_CMD_GO p, 1), (Fld.STW_PORT_CMD_OP p, 1)])

/-- DISABLE: OP 2 of a port. -/
def execDisable (a : Agent) (p : Fin 8) (s : State) : Out :=
  .next (s.issueWrite a (Reg.STW_PORT_CMD p) 4 [(Fld.STW_PORT_CMD_GO p, 1), (Fld.STW_PORT_CMD_OP p, 2)])

/-- PORT_LEAVE: OP 3 of a port. -/
def execPortLeave (a : Agent) (p : Fin 8) (s : State) : Out :=
  .next (s.issueWrite a (Reg.STW_PORT_CMD p) 4 [(Fld.STW_PORT_CMD_GO p, 1), (Fld.STW_PORT_CMD_OP p, 3)])

/-! ### Landing commands (R398, R400) -/

/-- ARM: OP 0 on the entry that NWL_LAND_SEL names. -/
def execArm (a : Agent) (set : Fin 2) (s : State) : Out :=
  .next (s.issueWrite a (Reg.NWL_LAND_CMD set) 4 [(Fld.NWL_LAND_CMD_GO set, 1), (Fld.NWL_LAND_CMD_OP set, 0)])

/-- CANCEL: OP 1 on the entry that NWL_LAND_SEL names. -/
def execCancel (a : Agent) (set : Fin 2) (s : State) : Out :=
  .next (s.issueWrite a (Reg.NWL_LAND_CMD set) 4 [(Fld.NWL_LAND_CMD_GO set, 1), (Fld.NWL_LAND_CMD_OP set, 1)])

/-- CANCEL_AND_PROPAGATE: OP 2 on the entry that NWL_LAND_SEL names. -/
def execCancelAndPropagate (a : Agent) (set : Fin 2) (s : State) : Out :=
  .next (s.issueWrite a (Reg.NWL_LAND_CMD set) 4 [(Fld.NWL_LAND_CMD_GO set, 1), (Fld.NWL_LAND_CMD_OP set, 2)])

/-- CLEAR: OP 3 on the entry that NWL_LAND_SEL names. -/
def execClear (a : Agent) (set : Fin 2) (s : State) : Out :=
  .next (s.issueWrite a (Reg.NWL_LAND_CMD set) 4 [(Fld.NWL_LAND_CMD_GO set, 1), (Fld.NWL_LAND_CMD_OP set, 3)])

/-- READ: OP 4 on the entry that NWL_LAND_SEL names. -/
def execRead (a : Agent) (set : Fin 2) (s : State) : Out :=
  .next (s.issueWrite a (Reg.NWL_LAND_CMD set) 4 [(Fld.NWL_LAND_CMD_GO set, 1), (Fld.NWL_LAND_CMD_OP set, 4)])

/-! ### Settings, Clasp and partitions (R418 to R428) -/

/-- SETTING_LOAD: from the host address in SET_LOAD_ADDR. -/
def execSettingLoad (a : Agent) (len : BitVec 23) (s : State) : Out :=
  .next (s.issueWrite a Reg.SET_LOAD_CMD 4 [(Fld.SET_LOAD_CMD_GO, 1), (Fld.SET_LOAD_CMD_LEN, len.toNat)])

/-- SETTING_STORE_LOAD: from the Setting store. -/
def execSettingStoreLoad (a : Agent) (s : State) : Out :=
  .next (s.issueWrite a Reg.SET_LOAD_CMD 4 [(Fld.SET_LOAD_CMD_GO, 1), (Fld.SET_LOAD_CMD_SRC, 1)])

/-- BEGIN: OP 0 of SET_CLASP_CMD. -/
def execBegin (a : Agent) (id : W16) (s : State) : Out :=
  .next (s.issueWrite a Reg.SET_CLASP_CMD 4
    [(Fld.SET_CLASP_CMD_GO, 1), (Fld.SET_CLASP_CMD_OP, 0), (Fld.SET_CLASP_CMD_ID, id.toNat)])

/-- STAGE: OP 1 of SET_CLASP_CMD. -/
def execStage (a : Agent) (id : W16) (s : State) : Out :=
  .next (s.issueWrite a Reg.SET_CLASP_CMD 4
    [(Fld.SET_CLASP_CMD_GO, 1), (Fld.SET_CLASP_CMD_OP, 1), (Fld.SET_CLASP_CMD_ID, id.toNat)])

/-- COMMIT: OP 2 of SET_CLASP_CMD. -/
def execCommit (a : Agent) (id : W16) (s : State) : Out :=
  .next (s.issueWrite a Reg.SET_CLASP_CMD 4
    [(Fld.SET_CLASP_CMD_GO, 1), (Fld.SET_CLASP_CMD_OP, 2), (Fld.SET_CLASP_CMD_ID, id.toNat)])

/-- COMMIT_AT: OP 3 of SET_CLASP_CMD. -/
def execCommitAt (a : Agent) (id : W16) (part : Fin 16) (lidx : Fin 256) (s : State) : Out :=
  .next (s.issueWrite a Reg.SET_CLASP_CMD 4
    [(Fld.SET_CLASP_CMD_GO, 1), (Fld.SET_CLASP_CMD_OP, 3), (Fld.SET_CLASP_CMD_PARTITION, part.val),
      (Fld.SET_CLASP_CMD_LIDX, lidx.val), (Fld.SET_CLASP_CMD_ID, id.toNat)])

/-- ROLLBACK: OP 4 of SET_CLASP_CMD. -/
def execRollback (a : Agent) (id : W16) (s : State) : Out :=
  .next (s.issueWrite a Reg.SET_CLASP_CMD 4
    [(Fld.SET_CLASP_CMD_GO, 1), (Fld.SET_CLASP_CMD_OP, 4), (Fld.SET_CLASP_CMD_ID, id.toNat)])

/-- STOP: a write of SET_PART_RUN with the bit of a partition clear. -/
def execStop (a : Agent) (part : Fin 16) (s : State) : Out :=
  .next (s.issueWrite a Reg.SET_PART_RUN 4 [(Fld.SET_PART_RUN_RUN, (setBitTo (s.fld Fld.SET_PART_RUN_RUN) part.val false))])

/-- RUN: a write of SET_PART_RUN with the bit of a partition set. -/
def execRun (a : Agent) (part : Fin 16) (s : State) : Out :=
  .next (s.issueWrite a Reg.SET_PART_RUN 4 [(Fld.SET_PART_RUN_RUN, (setBitTo (s.fld Fld.SET_PART_RUN_RUN) part.val true))])

/-! ### Security commands (R438, R442, R448, R450, R459) -/

/-- LOAD_FIRMWARE: OP 0x0. -/
def execLoadFirmware (a : Agent) (ch : Fin 2) (s : State) : Out :=
  .next (s.issueWrite a (Reg.SEC_CMD ch) 4 [(Fld.SEC_CMD_GO ch, 1), (Fld.SEC_CMD_OP ch, 0)])

/-- RAISE_SVN: OP 0x1. -/
def execRaiseSvn (a : Agent) (ch : Fin 2) (s : State) : Out :=
  .next (s.issueWrite a (Reg.SEC_CMD ch) 4 [(Fld.SEC_CMD_GO ch, 1), (Fld.SEC_CMD_OP ch, 1)])

/-- INSTALL: OP 0x2. -/
def execInstall (a : Agent) (ch : Fin 2) (part : Fin 16) (slot : Fin 64) (s : State) : Out :=
  .next (s.issueWrite a (Reg.SEC_CMD ch) 4
    [(Fld.SEC_CMD_GO ch, 1), (Fld.SEC_CMD_OP ch, 2), (Fld.SEC_CMD_PARTITION ch, part.val),
      (Fld.SEC_CMD_SLOT ch, slot.val)])

/-- ERASE: OP 0x3. -/
def execErase (a : Agent) (ch : Fin 2) (part : Fin 16) (slot : Fin 64) (s : State) : Out :=
  .next (s.issueWrite a (Reg.SEC_CMD ch) 4
    [(Fld.SEC_CMD_GO ch, 1), (Fld.SEC_CMD_OP ch, 3), (Fld.SEC_CMD_PARTITION ch, part.val),
      (Fld.SEC_CMD_SLOT ch, slot.val)])

/-- REKEY: OP 0x4. -/
def execRekey (a : Agent) (ch : Fin 2) (part : Fin 16) (s : State) : Out :=
  .next (s.issueWrite a (Reg.SEC_CMD ch) 4
    [(Fld.SEC_CMD_GO ch, 1), (Fld.SEC_CMD_OP ch, 4), (Fld.SEC_CMD_PARTITION ch, part.val)])

/-- CLAIM: OP 0x5. -/
def execClaim (a : Agent) (ch : Fin 2) (s : State) : Out :=
  .next (s.issueWrite a (Reg.SEC_CMD ch) 4 [(Fld.SEC_CMD_GO ch, 1), (Fld.SEC_CMD_OP ch, 5)])

/-- TRANSFER_OWNERSHIP: OP 0x6. -/
def execTransferOwnership (a : Agent) (ch : Fin 2) (s : State) : Out :=
  .next (s.issueWrite a (Reg.SEC_CMD ch) 4 [(Fld.SEC_CMD_GO ch, 1), (Fld.SEC_CMD_OP ch, 6)])

/-- DEBUG_UNLOCK: OP 0x7. -/
def execDebugUnlock (a : Agent) (ch : Fin 2) (s : State) : Out :=
  .next (s.issueWrite a (Reg.SEC_CMD ch) 4 [(Fld.SEC_CMD_GO ch, 1), (Fld.SEC_CMD_OP ch, 7)])

/-! ### Errors, capture and counters (R495, R500, R506) -/

/-- ERR_LOUPE_FREEZE: a write of ERR_LOUPE with FREEZE. -/
def execErrLoupeFreeze (a : Agent) (key : Byte) (s : State) : Out :=
  .next (s.issueWrite a Reg.ERR_LOUPE 4 [(Fld.ERR_LOUPE_KEY, key.toNat), (Fld.ERR_LOUPE_FREEZE, 1)])

/-- CNT_CLEAR: a write of CNT_CTL with CLEAR. -/
def execCntClear (a : Agent) (run : Bool) (s : State) : Out :=
  .next (s.issueWrite a Reg.CNT_CTL 4 [(Fld.CNT_CTL_RUN, run.toNat), (Fld.CNT_CTL_CLEAR, 1)])

/-! ### The error log -/

/-- OPEN_CLEAR: a write of 1 to OPEN of an entry of the error log. -/
def execOpenClear (a : Agent) (idx : Fin 512) (s : State) : Out :=
  .next (s.accWrite a (0x24000 + 32 * idx.val + 0x10) 4 0x1000)

end Sys2Proof.Machine
end

