-- ==== Sys2Proof/Machine/Integer.lean ====
section
/-! DEFINITION. The integer instructions (Table 05.2, R154, R156). -/
namespace Sys2Proof.Machine

/-- ADD: DST := A + B. -/
def execAdd (i : Issue) (s : State) : Out := .next (s.laneOp .add i (fun _ a b _ => a + b))

/-- SUB: DST := A − B. -/
def execSub (i : Issue) (s : State) : Out := .next (s.laneOp .sub i (fun _ a b _ => a - b))

/-- MUL: the low 32 bits of A × B. -/
def execMul (i : Issue) (s : State) : Out := .next (s.laneOp .mul i (fun _ a b _ => a * b))

/-- The high 32 bits of a product, signed or not. -/
def mulHigh (signed : Bool) (a b : W32) : W32 :=
  if signed then BitVec.ofInt 32 (a.toInt * b.toInt / 2 ^ 32) else BitVec.ofNat 32 (a.toNat * b.toNat / 2 ^ 32)

/-- MULH: the high 32 bits of A × B, signed when S is 1. -/
def execMulh (i : Issue) (s : State) : Out :=
  .next (s.laneOp .mulh i (fun x a b _ => mulHigh (encMod x.w 7 7 = 1) a b))

/-- MULADD: the low 32 bits of A × B + C. -/
def execMuladd (i : Issue) (s : State) : Out := .next (s.laneOp .muladd i (fun _ a b c => a * b + c))

/-- BOOL under FUNC. -/
def boolFn (func : Nat) (a b : W32) : W32 :=
  match func with
  | 0 => a &&& b
  | 1 => a ||| b
  | 2 => a ^^^ b
  | _ => a &&& ~~~ b

def execBool (i : Issue) (s : State) : Out :=
  .next (s.laneOp .bool i (fun x a b _ => boolFn (encMod x.w 14 12) a b))

/-- SHIFT of A by B[4:0] under FUNC. -/
def shiftFn (func : Nat) (a b : W32) : W32 :=
  let n := b.toNat % 32
  match func with
  | 0 => a <<< n
  | 1 => a >>> n
  | _ => a.sshiftRight n

def execShift (i : Issue) (s : State) : Out :=
  .next (s.laneOp .shift i (fun x a b _ => shiftFn (encMod x.w 14 12) a b))

/-- TESTI: p(DST) := A CMP B, signed when S is 1. -/
def execTesti (i : Issue) (s : State) : Out :=
  .next (s.predOp .testi i (fun x a b => cmpI (encMod x.w 11 8) (encMod x.w 7 7 = 1) a b))

/-- The predicate that SP names, in a lane. -/
def selPred (w : Enc) (g : Group) (lane : Nat) : Bool := g.pr (encMod w 10 8) lane != (encMod w 11 11 == 1)

/-- CHOOSE: DST := A where the select predicate is true, else B. -/
def execChoose (i : Issue) (s : State) : Out :=
  .next (s.issue .choose i (fun x s =>
    s.retire x (x.g.writeLanes (takers x.w x.g) (rDst x.w)
      (fun l => if selPred x.w x.g l then srcA x.w x.g l else srcB x.w x.g l))))

/-- COPY: DST := B. -/
def execCopy (i : Issue) (s : State) : Out := .next (s.laneOp .copy i (fun _ _ b _ => b))

/-- SETI: DST := MOD sign-extended from 20 bits. -/
def execSeti (i : Issue) (s : State) : Out :=
  .next (s.issue .seti i (fun x s =>
    s.retire x (x.g.writeLanes (takers x.w x.g) (rDst x.w) (fun _ => BitVec.ofInt 32 (sext 20 x.w.mod.toNat)))))

/-- ADDW: pair DST := pair A + pair B. -/
def execAddw (i : Issue) (s : State) : Out :=
  .next (s.issue .addw i (fun x s =>
    s.retire x ((takers x.w x.g).foldl
      (fun g l => g.setXPair (rDst x.w) l (xPair x.g (rA x.w) l + xPair x.g (rB x.w) l)) x.g)))

/-- The count of leading zeros of a word. -/
def leadZeros (a : Nat) : Nat := if a % 2 ^ 32 = 0 then 32 else 31 - Nat.log2 (a % 2 ^ 32)

/-- The bits of a word in reverse order. -/
def revBits (a : Nat) : Nat := lanes32.foldl (fun v i => if a.testBit i then v + 2 ^ (31 - i) else v) 0

/-- BITOP under FUNC: population count, leading zeros, bit reversal. -/
def bitFn (func : Nat) (a : W32) : W32 :=
  match func with
  | 0 => BitVec.ofNat 32 (popBits 32 a.toNat)
  | 1 => BitVec.ofNat 32 (leadZeros a.toNat)
  | _ => BitVec.ofNat 32 (revBits a.toNat)

def execBitop (i : Issue) (s : State) : Out :=
  .next (s.laneOp .bitop i (fun x a _ _ => bitFn (encMod x.w 14 12) a))

/-- The source lane of XLANE for lane `l` with B[4:0] = `n`; `none`: outside 0 to 31 (R156). -/
def xlaneSrc (func l n : Nat) : Option Nat :=
  match func with
  | 0 => some n
  | 1 => if n ≤ l then some (l - n) else none
  | 2 => if l + n < 32 then some (l + n) else none
  | _ => some (l ^^^ n)

/-- XLANE: each lane reads A from a source lane that takes part, else its own A (R156). -/
def execXlane (i : Issue) (s : State) : Out :=
  .next (s.issue .xlane i (fun x s =>
    let tk := takers x.w x.g
    s.retire x (x.g.writeLanes tk (rDst x.w) (fun l =>
      match xlaneSrc (encMod x.w 14 12) l ((srcB x.w x.g l).toNat % 32) with
      | some q => if tk.contains q then srcA x.w x.g q else srcA x.w x.g l
      | none => srcA x.w x.g l))))

/-- POLL: any, all or the mask of SP over the lanes that take part (R156). -/
def execPoll (i : Issue) (s : State) : Out :=
  .next (s.issue .poll i (fun x s =>
    let tk := takers x.w x.g
    let on := tk.filter (selPred x.w x.g)
    s.retire x (match encMod x.w 14 12 with
      | 0 => x.g.writePreds tk (rDst x.w) (fun _ => !on.isEmpty)
      | 1 => x.g.writePreds tk (rDst x.w) (fun _ => on.length == tk.length)
      | _ => x.g.writeLanes tk (rDst x.w) (fun _ => on.foldl (fun m l => m ||| (1#32 <<< l)) 0))))

end Sys2Proof.Machine
end

