-- ==== Sys2Proof/Machine/Responses.lean ====
section
/-! DEFINITION. The answers that a core waits for: loads, atomics and fragment loads, buffered stores and transfers (R92, R108,
R109, R167 to R181, R226 to R229, R335, R508, R509). -/
namespace Sys2Proof.Machine

/-! ### Loads, atomics and fragment loads (R167, R508) -/

/-- What comes of one access: its bytes, an error, or nothing yet. -/
inductive AccRes where
  | bytes (b : List Byte)
  | bad
  | wait
  deriving DecidableEq, Repr

/-- The answer of a read of a window or over CXL.io; poison is an error (R189, R221). -/
def accOf (r : Option (Option (List Byte × Bool))) : AccRes :=
  match r with
  | none => .wait
  | some none => .bad
  | some (some (b, po)) => if po then .bad else .bytes b

/-- Do two accesses share a byte? -/
def LaneAcc.meets (a b : LaneAcc) : Bool := a.shares b.tgt b.n

/-- Is a request of the same group outstanding that came before and touches the same bytes (R167)? -/
def Core.olderReq (k : Core) (r : MemReq) : Bool :=
  k.reqs.any (fun q => q.id < r.id && q.team == r.team && q.gidx == r.gidx && q.lanes.any (fun a => r.lanes.any a.meets))

/-- The partition of a team of a core. -/
def State.teamPart (s : State) (c t : Nat) : Nat := match (s.core c).team t with | some tm => tm.part | none => 0

/-- A type whose lines the L1 holds (Table 07.3). -/
def MType.inL1 (t : MType) : Bool := t.readAge.isSome

/-- A line that the L2 holds enters the L1 of core `c`, whose row the L2 marks (R202, R236). -/
def State.l1Fill (s : State) (c pa : Nat) (old : Bool) : State :=
  match s.l2Find pa with
  | none => s
  | some k =>
    let s := s.modCore c (fun q => { q with l1 := nruTouch q.l1 (s.l1Ways c) 0 (pa / 128) old })
    if (s.core c).l1Has (pa / 128) then s.setL2 k { s.l2At k with rows := (s.l2At k).rows ||| (1#16 <<< (c / 16)) } else s

/-- Read the sector of an access of coherent memory: from the L1, else through the L2 (R198, R202). -/
def State.loadSec (s : State) (c p pa : Nat) (ty : MType) : State × Option (List Byte × Bool) :=
  match (if ty.inL1 && (s.core c).l1Has (pa / 128) && s.secReady pa then s.l2Sec pa else none) with
  | some x => (s.modCore c (fun q => { q with l1 := nruTouch q.l1 (s.l1Ways c) 0 (pa / 128) false }), some (x.data, x.poison))
  | none =>
    match s.readSec p pa ty.readAge with
    | (s, none) => (s, none)
    | (s, some d) =>
      let s := if ty.inL1 then s.event 0 c 5 else s
      (if ty.inL1 && !d.2 then s.l1Fill c pa (ty == .streaming) else s, some d)

/-- One access of a load or fragment load (R177, R181, R508). -/
def State.loadAcc (s : State) (c p : Nat) (r : MemReq) (i : Nat) (a : LaneAcc) : State × AccRes :=
  let fwd := (List.range a.n).map (fun j => (r.fwd.find? (fun f => f.1 == (a.tgt.plus j).name)).map (·.2))
  if fwd.all (·.isSome) then (s, .bytes (fwd.map (·.getD 0)))
  else
    let (s, q) : State × AccRes :=
      match s.tgtPa a.tgt, a.tgt with
      | some pa, _ => let (s, d) := s.loadSec c p pa a.ty; (s, accOf (d.map (fun d => some ((d.1.drop (pa % 64)).take a.n, d.2))))
      | none, .window ch w o => let (s, d) := s.winRead (.lane c r.id i) ch w o a.n; (s, accOf d)
      | none, .host h => let (s, d) := s.ioRead (.lane c r.id i) h a.n; (s, accOf d)
      | none, .reg o => let (s, v) := s.regRead .firmware o a.n; (s, match v with | some v => .bytes (natLe a.n v) | none => .bad)
      | none, _ => (s, .bad)
    (s, match q with | .bytes b => .bytes ((b.zip fwd).map (fun x => x.2.getD x.1)) | q => q)

/-- Has the access at place `i` of a request been made? -/
def gotAt (l : List (Nat × Option (List Byte))) (i : Nat) : Option (Option (List Byte)) := (l.find? (fun e => e.1 == i)).map (·.2)

/-- Is an earlier access of the same request to be made first: those to Device-Strict memory go in lane order (R109, R171)? -/
def MemReq.earlier (r : MemReq) (got : List (Nat × Option (List Byte))) (i : Nat) (same : LaneAcc → Bool) : Bool :=
  (r.lanes.take i).zipIdx.any (fun a => same a.1 && (gotAt got a.2).isNone)

/-- Make what accesses of a load can be made. -/
def State.loadStep (s : State) (c p : Nat) (r : MemReq) : State × List (Nat × Option (List Byte)) :=
  r.lanes.zipIdx.foldl (fun (acc : State × List (Nat × Option (List Byte))) a =>
    if (gotAt acc.2 a.2).isSome || (a.1.ty == .device && r.earlier acc.2 a.2 (fun b => b.ty == .device)) then acc
    else
      match acc.1.loadAcc c p r a.2 a.1 with
      | (s, .bytes b) => (s, acc.2 ++ [(a.2, some b)])
      | (s, .bad) => (s, acc.2 ++ [(a.2, none)])
      | (s, .wait) => (s, acc.2)) (s, r.got)

/-- The accesses of an atomic that are one memory operation, by their places: those of one address of Normal memory are combined
(R108, R109). -/
def MemReq.units (r : MemReq) : List (List Nat) :=
  let alone := fun (a : LaneAcc) => a.ty == .device
  r.lanes.zipIdx.foldl (fun (acc : List (List Nat)) a =>
    let same : List Nat → Bool := fun u =>
      match r.lanes[u.headD 0]? with | some b => !alone a.1 && b.tgt == a.1.tgt && b.ty == a.1.ty | none => false
    if acc.any same then acc.map (fun u => if same u then u ++ [a.2] else u) else acc ++ [[a.2]]) []

/-- The operand of one operation that does the work of several on one address. -/
def joinOps (op : AOp) (w : Nat) (key : Nat × Nat) (l : List (Nat × Nat)) : Nat :=
  match op with
  | .fadd => (treeSum key 1 l.length (l.map (fun x => BitVec.ofNat 32 x.1))).toNat
  | _ => (l.drop 1).foldl (fun v x => aopFn op w v x.1 x.2) (l.headD (0, 0)).1

/-- A compare-and-swap of several lanes through a window, as one atomic operation at the receiving chip: a message that expects an
old value and stores what the lanes together make of it; one that found another value, and so stored nothing, is sent anew with that
value (R108, R293; log entry 41). What the lanes receive, once a message has found what it expected or a value that they leave. -/
def State.winCas (s : State) (c : Nat) (r : MemReq) (w64 : Bool) (i : Nat) (n : Nat) (chip w o : Nat) (ops : List (Nat × Nat)) :
    State × Option (Option (List Nat)) :=
  let run := fun (old : Nat) => combine .cas (8 * n) (0, 0) old ops
  let ask := fun (s : State) (old : Nat) => s.winRmw (.lane c r.id i) chip w o .cas w64 (run old).2 old
  let expect := ((r.tries.find? (fun e => e.1 == i)).map (·.2)).getD (ops.headD (0, 0)).2
  match ask s expect with
  | (s, none) => (s, none)
  | (s, some (some (b, false))) =>
    let old := leNat b
    if old = expect || (run old).2 = old then (s, some (some (run old).1))
    else
      let s := s.modCore c (fun k => { k with reqs := k.reqs.map (fun x =>
        if x.id == r.id then { x with tries := x.tries.filter (fun e => e.1 != i) ++ [(i, old)] } else x) })
      ((ask s old).1, none)
  | (s, some _) => (s, some none)

/-- One memory operation of an atomic: the values that its lanes receive. -/
def State.rmwAcc (s : State) (c p : Nat) (r : MemReq) (op : AOp) (w64 : Bool) (i : Nat) (a : LaneAcc) (ops : List (Nat × Nat)) :
    State × Option (Option (List Nat)) :=
  let n := a.n
  let vals := fun (s : State) (key : Nat × Nat) (old : Nat) => (s, some (some (combine op (8 * n) key old ops).1))
  match s.tgtPa a.tgt, a.tgt with
  | some pa, _ =>
    match s.ownSec p pa with
    | (s, none) => (s, none)
    | (s, some (d, po)) =>
      if po then (s.ownEnd pa, some none)
      else
        let (s, f) := s.takeFree
        let old := at' d (pa % 64) n
        let v := (combine op (8 * n) (f, 0) old ops).2
        match s.writeSec p pa (.alloc 1) ((natLe n v).zipIdx.map (fun b => (pa % 64 + b.2, b.1))) (some c) .nobody with
        | (s, .wait) => (s, none)
        | (s, _) => vals s (f, 0) old
  | none, .window ch w o =>
    if op = .cas then s.winCas c r w64 i n ch w o ops
    else
      let key := (2 ^ 64 + c, 32 * r.id + a.lane)
      match s.winRmw (.lane c r.id i) ch w o op w64 (joinOps op (8 * n) key ops) ((ops.headD (0, 0)).2) with
      | (s, none) => (s, none)
      | (s, some (some (b, false))) => vals s key (leNat b)
      | (s, some _) => (s, some none)
  | none, .reg o =>
    if n = 8 && (wideAt o).isNone then (s, some none)
    else
      match s.regRead .firmware o n with
      | (s, none) => (s, some none)
      | (s, some old) =>
        let (s, f) := s.takeFree
        match s.regWrite .firmware o n (combine op (8 * n) (f, 0) old ops).2 with
        | (s, true) => vals s (f, 0) old
        | (s, false) => (s, some none)
  -- a posted bus has no atomics: host memory over CXL.io answers with an error (R508)
  | none, _ => (s, some none)

/-- Make what operations of an atomic can be made. -/
def State.rmwStep (s : State) (c p : Nat) (r : MemReq) (op : AOp) (w64 : Bool) : State × List (Nat × Option (List Byte)) :=
  r.units.foldl (fun (acc : State × List (Nat × Option (List Byte))) u =>
    match u, r.lanes[u.headD 0]? with
    | i :: _, some a =>
      if (gotAt acc.2 i).isSome || r.earlier acc.2 i (fun b => b.tgt == a.tgt || (a.ty == .device && b.ty == .device)) then acc
      else
        match acc.1.rmwAcc c p r op w64 i a (u.filterMap (fun j => (r.lanes[j]?).map (fun b => (b.b, b.c)))) with
        | (s, none) => (s, acc.2)
        | (s, some none) => (s, acc.2 ++ u.map (fun j => (j, none)))
        | (s, some (some l)) =>
          let s := s.noteTeamWrite c r.team
          (if u.length > 1 then s.bump (Fld.CORE_COMBINE_CNT_COUNT c) (u.length - 1) else s,
            acc.2 ++ (u.zip l).map (fun x => (x.1, some (natLe a.n x.2))))
    | _, _ => acc) (s, r.got)

/-- The bytes that the accesses of a lane have brought, in their order. -/
def MemReq.laneBytes (r : MemReq) (lane : Nat) : List Byte :=
  r.lanes.zipIdx.flatMap (fun a => if a.1.lane = lane then ((gotAt r.got a.2).getD none).getD [] else [])

/-- The byte at place `o` of a lane's buffer. -/
def MemReq.bufByte (r : MemReq) (lane o : Nat) : Byte :=
  match r.lanes.zipIdx.find? (fun a => a.1.lane == lane && a.1.off ≤ o && o < a.1.off + a.1.n) with
  | some a => (((gotAt r.got a.2).getD none).getD []).getD (o - a.1.off) 0
  | none => 0

/-- A complete request writes its registers (R135, R159, R160). -/
def MemReq.deliver (r : MemReq) (g : Group) : Group :=
  let lanes := (lanes32.filter (fun l => r.lanes.any (fun a => a.lane == l)))
  match r.kind with
  | .ld _ sx => lanes.foldl (fun g l => g.setRunBytes r.dst l sx (r.laneBytes l)) g
  | .rmw _ _ ret => if ret then lanes.foldl (fun g l => g.setRunBytes r.dst l false (r.laneBytes l)) g else g
  | .mld w d _ _ tags => mldWrite g w d tags r.bufByte

/-- A request whose accesses have all been made leaves: with a fault when one brought an error, else with its registers. -/
def State.answerReq (s : State) (c : Nat) (r : MemReq) : State :=
  if (List.range r.lanes.length).any (fun i => (gotAt r.got i).isNone) then
    s.modCore c (fun k => { k with reqs := k.reqs.map (fun x => if x.id == r.id then { x with got := r.got } else x) })
  else if r.got.any (fun e => e.2.isNone) then
    s.failLanes c r ((r.lanes.zipIdx.filter (fun a => gotAt r.got a.2 == some none)).map (·.1))
  else
    let s := (s.modCore c (fun k => { k with reqs := k.reqs.filter (fun x => x.id != r.id) })).modGroup c r.team r.gidx r.deliver
    (((s.wakeCore c).tryFree c r.team).reap).sweepCmds

/-- LOAD_RESPONSE: the answer of an outstanding request comes, or is an error response. What has still to be brought is asked
for, and the request stays outstanding. -/
def execLoadResponse (c : Fin 256) (k : Nat) (err : Bool) (s : State) : Out :=
  .next (s.whenRuns (fun s =>
    let q := s.core c
    match q.reqs.find? (fun r => r.id == k) with
    | none => s
    | some r =>
      if q.pendingAny r.after || q.olderReq r then s
      else if err then s.failReq c k
      else
        let p := s.teamPart c r.team
        let (s, got) := match r.kind with
          | .rmw op w64 _ => s.rmwStep c p r op w64
          | _ => s.loadStep c p r
        s.answerReq c { r with got := got }))

/-! ### Buffered stores (R177, R180) -/

/-- The accesses that bytes of a block of registers make: aligned runs within each 8 bytes. -/
def regRuns (bs : List (Nat × Byte)) : List (List (Nat × Byte)) :=
  (List.range 8).flatMap (fun w => runsOf (bs.filter (fun b => b.1 / 8 == w)))

/-- Write bytes of a block of the register image as firmware does (R509); the Bool says that none was a violation. -/
def State.regStore (s : State) (o : Nat) (bs : List (Nat × Byte)) : State × Bool :=
  (regRuns bs).foldl (fun (acc : State × Bool) r =>
    let (s, ok) := acc.1.regWrite .firmware (o + (r.headD (0, 0)).1) r.length (leNat (r.map (·.2)))
    (s, acc.2 && ok)) (s, true)

/-- Write bytes of one block to what a target names; `.sent`: an acknowledgement comes later; `none`: an error response. -/
def State.storeTo (s : State) (p : Nat) (t : Tgt) (pol : WPol) (bs : List (Nat × Byte)) (c : Option Nat) (who : Who) :
    State × Option WRes :=
  match s.tgtPa t.block, t.block with
  | some pa, _ => match s.writeSec p pa pol bs c who with | (s, .bad) => (s, none) | (s, r) => (s, some r)
  | none, .window ch w o => (s.winWrite who ch w o bs, some .sent)
  | none, .host a =>
    if s.ioBarred then (s, some .wait)
    else let (s, out) := s.ioWrite who a bs; (s, some (if out then .done else .sent))
  | none, .reg o => let (s, ok) := s.regStore o bs; (s, if ok then some .done else none)
  | none, _ => (s, none)

/-- What a buffered store waits for before it leaves the core: earlier Device-Strict accesses, older buffered stores of the core to
its block, older requests of its own groups there, and older atomics of any group of the core there, whose loads may have taken
the store's bytes (R167, R171, R180). -/
def Core.storeHeld (k : Core) (id : Nat) (t : Tgt) (after : List Nat) (grps : List (Nat × Nat)) : Bool :=
  k.pendingAny after || k.sq.any (fun e => e.id < id && e.tgt == t) || k.mb.any (fun e => e.id < id && e.tgt == t) ||
    k.reqs.any (fun r => r.id < id && (r.isAtomic || grps.contains (r.team, r.gidx)) && r.touches t)

/-- A buffered store leaves for its target. -/
def State.storeLeaves (s : State) (c id p : Nat) (t : Tgt) (ty : MType) (bs : List (Nat × Byte)) (who : Who) : State :=
  match s.storeTo p t ty.pol bs (some c) who with
  | (s, some .done) => s.ackStore c id .ok
  | (s, some .sent) =>
    s.modCore c (fun k => { k with
      sq := k.sq.map (fun e => if e.id == id then { e with sent := true } else e)
      mb := k.mb.map (fun e => if e.id == id then { e with sent := true } else e) })
  | (s, some _) => s
  | (s, none) => s.ackStore c id .bad

/-- The bytes of a merging-buffer entry. -/
def MergeEnt.list (e : MergeEnt) : List (Nat × Byte) := e.bytes.filterMap (fun b => b.2.map (fun v => (b.1, v)))

/-- STORE_ACKNOWLEDGEMENT: the target of a buffered store acknowledges it, or answers with an error. A store whose target answers
by a message of its own is sent here, and ends at that message. -/
def execStoreAcknowledgement (c : Fin 256) (k : Nat) (err : Bool) (s : State) : Out :=
  .next (s.whenRuns (fun s =>
    let q := s.core c
    match q.sq.find? (fun e => e.id == k), q.mb.find? (fun e => e.id == k) with
    | some e, _ =>
      if e.sent || q.storeHeld k e.tgt e.after [(e.team, e.gidx)] then s
      else if err then s.ackStore c k .bad
      else s.storeLeaves c k e.part e.tgt e.ty e.bytes (.store c k)
    | none, some e =>
      if !e.closed || e.sent || q.storeHeld k e.tgt [] (e.grps.map MergeBy.grp) then s
      else if err then s.ackStore c k .bad
      else s.storeLeaves c k e.part e.tgt .wtm e.list (.merge c k)
    | none, none => s))

/-! ### Transfers (R161, R178, R226 to R229, R335) -/

/-- A transfer of an engine: of a core, or of a chip-level channel. -/
inductive XId where
  | core (c id : Nat)
  | chan (n : Nat)
  deriving DecidableEq, Repr

def State.xf (s : State) : XId → Option Xfer
  | .core c id => (s.core c).xfers.find? (fun x => x.id == id)
  | .chan n => s.chan n

def State.modXf (s : State) (e : XId) (f : Xfer → Xfer) : State :=
  match e with
  | .core c id => s.modCore c (fun k => { k with xfers := k.xfers.map (fun x => if x.id == id then f x else x) })
  | .chan n => s.setChan n ((s.chan n).map f)

/-- Tag, partition and class in which a transfer runs. -/
def State.xfCtx (s : State) (e : XId) (x : Xfer) : Nat × Nat × Nat :=
  match e with
  | .core c _ => match (s.core c).team x.team with | some t => (t.tag, t.part, t.cls) | none => (0, 0, 0)
  | .chan _ => ((s.sq x.team).tag, (s.sq x.team).part, (s.sq x.team).cls)

def XId.stream : XId → Stream
  | .core c id => .xfer c id
  | .chan n => .chan n
def XId.buf : XId → Nat
  | .core c _ => xferBuf c
  | .chan n => chanBuf n
def XId.who (e : XId) (gen : Nat) : Who :=
  match e with
  | .core c id => .xfer c id gen
  | .chan n => .chan n gen
def XId.io : XId → IoWho
  | .core c id => .xfer c id
  | .chan n => .chan n

/-- What comes of part of a transfer: done, waiting, or an error at an address. -/
inductive XRes1 where
  | bytes (b : List Byte)
  | leaf (t : Tlb)
  | moved
  | wait
  | bad (a : Nat)
  deriving DecidableEq, Repr

/-- Translate an address of a transfer; its type shall be coherent Normal memory but Normal-WTM (R229). -/
def State.xfXlate (s : State) (e : XId) (x : Xfer) (va : Nat) (write : Bool) : State × XRes1 :=
  let (tag, part, cls) := s.xfCtx e x
  match s.xlate ⟨e.stream, e.buf, tag, part, cls, va, 0, write, false⟩ with
  | (s, .wait _) => (s, .wait)
  | (s, .err) => (s, .bad va)
  | (s, .leaf t) => (s, if t.ty = .device || t.ty = .wtm then .bad va else .leaf t)

/-- A local range of the issuing team (R105): its bytes, or an error. -/
def State.xfLocal (s : State) (e : XId) (x : Xfer) (a n : Nat) : Option Team :=
  match e with
  | .core c _ => match (s.core c).team x.team with | some t => if a + n ≤ t.locSize then some t else none | none => none
  | .chan _ => none

/-- Read up to `n` bytes of the source at `a`: coherent memory all at once, other memory a block at a time. -/
def State.xfRead (s : State) (e : XId) (x : Xfer) (a n : Nat) : State × XRes1 :=
  let inl := match e with | .chan _ => x.sl | _ => false
  if bits x.shape.toNat 31 30 = 2 then (s, .bytes (List.replicate n 0))
  else if inl then
    (s, match s.cmd x.team x.seq with | some c => .bytes ((c.desc.drop (0x20 + x.done)).take n) | none => .bad a)
  else if x.sl then
    (s, match s.xfLocal e x a n with | some t => .bytes (t.locBytes a n) | none => .bad a)
  else
    match s.xfXlate e x a false with
    | (s, .leaf t) =>
      let l := (blocksOf a n).map (fun b => (s.target (t.paOf b.1), b.2))
      let (tg, n1) := l.headD (.err, 0)
      let of := fun (r : State × Option (Option (List Byte × Bool))) =>
        (r.1, match accOf r.2 with | .bytes b => XRes1.bytes b | .bad => .bad a | .wait => .wait)
      if l.any (fun b => b.1 == .err) then (s, .bad a)
      else if l.all (fun b => s.cohTgt b.1) then
        match s.readSecs (s.xfCtx e x).2.1 (l.filterMap (fun b => (s.tgtPa b.1).map (fun p => p / 64 * 64))) none with
        | (s, none) => (s, .wait)
        | (s, some (d, po)) => (s, if po then .bad a else .bytes ((d.drop (a % 64)).take n))
      else
        match tg with
        | .window c w o => of (s.winRead e.io c w o n1)
        | .host h => of (s.ioRead e.io h n1)
        | _ => (s, .bad a)
    | r => r

/-- The last bytes of a line that a transfer with HINT 0b10 writes have been written or sent: the line is locked, at once or, where the
host has first to grant its sector, when it does; one that cannot be locked counts as short (R208, R228). -/
def State.lockLine (s : State) (p : Nat) (t : Tgt) (lock : Bool) : State :=
  match s.tgtPa t with
  | some pa =>
    let mine := fun (r : HcReq) => r.op == .rdOwnNoData && s.paOf r.addr == pa / 64 * 64
    if !lock then s
    else if s.hcReqs.any mine then { s with hcReqs := s.hcReqs.map (fun r => if mine r then { r with lock := true } else r) }
    else (s.l2Lock p pa).1
  | none => s

/-- Write bytes of one block of the destination at `a`, and lock its line where HINT asks for it (R228). -/
def State.xfWrite (s : State) (e : XId) (x : Xfer) (a : Nat) (b : List Byte) (last : Bool) : State × XRes1 :=
  if x.dl then
    match s.xfLocal e x a b.length, e with
    | some t, .core c _ =>
      -- what comes for the local memory of a preempted team is written into its frame (R121)
      match (if t.away then s.frame c else none) with
      | some base => (s.storeRun (t.locAt base a) b, .moved)
      | none => (s.modCore c (fun k => k.setTeam x.team (some (t.setLoc a b))), .moved)
    | _, _ => (s, .bad a)
  else
    match s.xfXlate e x a true with
    | (s, .leaf t) =>
      let p := (s.xfCtx e x).2.1
      let tg := s.target (t.paOf a)
      let pol : WPol := match x.hint with | 0 => .around | 1 => .alloc 1 | _ => .alloc 0
      let lock := x.hint = 2 && (last || (a + b.length) % 128 = 0)
      match tg with
      | .reg _ => (s, .bad a)
      | _ =>
        match s.storeTo p tg pol (b.zipIdx.map (fun v => (tg.off + v.2, v.1))) none (e.who x.gen) with
        | (s, none) => (s, .bad a)
        | (s, some .sent) => ((s.modXf e (fun x => { x with pend := x.pend ++ [x.gen] })).lockLine p tg lock, .moved)
        | (s, some .done) => (s.lockLine p tg lock, .moved)
        | (s, some _) => (s, .wait)
    | r => r

/-- Write bytes from `a` on, block by block, until one waits; the number of bytes written, and whether one failed. -/
def State.xfWrites (s : State) (e : XId) (x : Xfer) (a : Nat) (d : List Byte) (rowEnd : Nat) : State × Nat × XRes1 :=
  (blocksOf a d.length).foldl (fun (acc : State × Nat × XRes1) b =>
    match acc.2.2 with
    | .moved =>
      match acc.1.xfWrite e x b.1 ((d.drop (b.1 - a)).take b.2) (b.1 + b.2 = rowEnd) with
      | (s, .moved) => (s, acc.2.1 + b.2, .moved)
      | (s, r) => (s, acc.2.1, r)
    | _ => acc) (s, 0, .moved)

/-- A transfer has written data to memory (Table 11.7). -/
def State.xfNote (s : State) (e : XId) (x : Xfer) : State :=
  match e with
  | .core c _ => s.noteTeamWrite c x.team
  | .chan _ => s.noteWrite x.team x.seq

/-- A transfer ends with an error status at an address (R229). -/
def State.xfFail (s : State) (e : XId) (a : Nat) : State :=
  s.modXf e (fun x => if x.failed then x else { x with failed := true, bad := BitVec.ofNat 64 a })

/-- May the transfer move on: its team runs, or it has a chunk to end, at whose end it stops (R121)? -/
def State.xfMay (s : State) (e : XId) (x : Xfer) : Bool :=
  match e with
  | .core c _ => match (s.core c).team x.team with | some t => t.st == .running || t.st == .placing || !x.atChunk | none => false
  | .chan _ => true

/-- Carry a transfer out as far as it goes, for at most `fuel` steps: a chunk is read whole, then written, which says what destination
bytes that overlap the source become (DESIGN CHOICE, log entry 129). -/
def State.xfRun (s : State) (e : XId) : Nat → State
  | 0 => s
  | fuel + 1 =>
    match s.xf e with
    | none => s
    | some x =>
      if x.failed || x.done ≥ x.total || !(s.xfMay e x) then s
      else
        let (sa, da, n, rowEnd) := x.chunk
        match s.xfRead e x sa n with
        | (s, .bytes b) =>
          let (s, k, r) := s.xfWrites e x da b rowEnd
          let s := (if k = 0 || x.dl then s else s.xfNote e x).modXf e (fun x => { x with done := x.done + k })
          match r with
          | .moved => if k = 0 then s else (s.dropLeaves e.stream).xfRun e fuel
          | .bad a => s.xfFail e a
          | _ => s
        | (s, .bad a) => s.xfFail e a
        | (s, _) => s

/-- The transfers of a core's engine that it may work on: of each group the oldest that has not failed, whose team runs, or which has
a chunk to end, and whose stores before it are performed (R120, R121, R161, R178). -/
def Core.xfReady (k : Core) : List Xfer :=
  let live := k.xfers.filter (fun x => !x.failed)
  live.filter (fun x =>
    !(live.any (fun y => y.id < x.id && y.team == x.team && y.gidx == x.gidx)) && !k.pendingAny x.after &&
      (match k.team x.team with | some t => t.st == .running || t.st == .placing || !x.atChunk | none => false))

/-- One transfer goes on, or ends with an error response. -/
def State.xfGo (s : State) (e : XId) (err : Bool) : State :=
  match s.xf e with
  | none => s
  | some x =>
    let s := if err then s.xfFail e x.dst.toNat else s.xfRun e (x.total + 1)
    match e with
    | .core c id => s.xferOver c id
    | .chan n => s.chanOver n

/-- TRANSFER_COMPLETE: a transfer is carried out, or ends with an error response. Of a core's engine, those that come first
in their groups take their turn in issue order until one moves on; the others have asked for what they wait for. -/
def execTransferComplete (u : XUnit) (err : Bool) (s : State) : Out :=
  .next (s.whenRuns (fun s =>
    match u with
    | .channel n => s.xfGo (.chan n) err
    | .core c =>
      ((s.core c).xfReady.foldl (fun (acc : State × Bool) x =>
        if acc.2 then acc
        else
          let t := acc.1.xfGo (.core c x.id) err
          (t, t.xf (.core c x.id) != some x)) (s, false)).1))

end Sys2Proof.Machine
end

