-- ==== Sys2Proof/Machine/Dispatch.lean ====
section
/-! DEFINITION. One arm per command: each calls the meaning of its row of spec/opcode_table.json. -/
namespace Sys2Proof.Machine

def exec (i : Instr) (s : State) : Host.Outcome State Fault Refusal :=
  match i with
  | .registerWrite a off size v => Sys2Proof.Machine.execRegisterWrite a off size v s
  | .coldReset => Sys2Proof.Machine.execColdReset s
  | .coldResetRelease smbAddr => Sys2Proof.Machine.execColdResetRelease smbAddr s
  | .fastClocksStart => Sys2Proof.Machine.execFastClocksStart s
  | .warmReset => Sys2Proof.Machine.execWarmReset s
  | .warmResetRelease => Sys2Proof.Machine.execWarmResetRelease s
  | .loupeFreezeRise => Sys2Proof.Machine.execLoupeFreezeRise s
  | .coolantStop => Sys2Proof.Machine.execCoolantStop s
  | .thermalSample temps => Sys2Proof.Machine.execThermalSample temps s
  | .railFault rail => Sys2Proof.Machine.execRailFault rail s
  | .refclkHostLoss => Sys2Proof.Machine.execRefclkHostLoss s
  | .refclkSerdesLoss => Sys2Proof.Machine.execRefclkSerdesLoss s
  | .add w => Sys2Proof.Machine.execAdd w s
  | .sub w => Sys2Proof.Machine.execSub w s
  | .mul w => Sys2Proof.Machine.execMul w s
  | .mulh w => Sys2Proof.Machine.execMulh w s
  | .muladd w => Sys2Proof.Machine.execMuladd w s
  | .bool w => Sys2Proof.Machine.execBool w s
  | .shift w => Sys2Proof.Machine.execShift w s
  | .testi w => Sys2Proof.Machine.execTesti w s
  | .choose w => Sys2Proof.Machine.execChoose w s
  | .copy w => Sys2Proof.Machine.execCopy w s
  | .seti w => Sys2Proof.Machine.execSeti w s
  | .addw w => Sys2Proof.Machine.execAddw w s
  | .bitop w => Sys2Proof.Machine.execBitop w s
  | .xlane w => Sys2Proof.Machine.execXlane w s
  | .poll w => Sys2Proof.Machine.execPoll w s
  | .addf w => Sys2Proof.Machine.execAddf w s
  | .mulf w => Sys2Proof.Machine.execMulf w s
  | .fmaf w => Sys2Proof.Machine.execFmaf w s
  | .minf w => Sys2Proof.Machine.execMinf w s
  | .maxf w => Sys2Proof.Machine.execMaxf w s
  | .testf w => Sys2Proof.Machine.execTestf w s
  | .fmap w => Sys2Proof.Machine.execFmap w s
  | .addp w => Sys2Proof.Machine.execAddp w s
  | .mulp w => Sys2Proof.Machine.execMulp w s
  | .spf w => Sys2Proof.Machine.execSpf w s
  | .cvt w => Sys2Proof.Machine.execCvt w s
  | .qnt w => Sys2Proof.Machine.execQnt w s
  | .stq w => Sys2Proof.Machine.execStq w s
  | .ld w => Sys2Proof.Machine.execLd w s
  | .st w => Sys2Proof.Machine.execSt w s
  | .ldloc w => Sys2Proof.Machine.execLdloc w s
  | .stloc w => Sys2Proof.Machine.execStloc w s
  | .rmw w => Sys2Proof.Machine.execRmw w s
  | .rmwl w => Sys2Proof.Machine.execRmwl w s
  | .mma w => Sys2Proof.Machine.execMma w s
  | .mld w => Sys2Proof.Machine.execMld w s
  | .loadResponse c k err => Sys2Proof.Machine.execLoadResponse c k err s
  | .storeAcknowledgement c k err => Sys2Proof.Machine.execStoreAcknowledgement c k err s
  | .xfer w => Sys2Proof.Machine.execXfer w s
  | .transferComplete u err => Sys2Proof.Machine.execTransferComplete u err s
  | .xwait w => Sys2Proof.Machine.execXwait w s
  | .tbrWait w => Sys2Proof.Machine.execTbrWait w s
  | .tbrPass w => Sys2Proof.Machine.execTbrPass w s
  | .fence w => Sys2Proof.Machine.execFence w s
  | .lwait w => Sys2Proof.Machine.execLwait w s
  | .br w => Sys2Proof.Machine.execBr w s
  | .bri w => Sys2Proof.Machine.execBri w s
  | .yield c g => Sys2Proof.Machine.execYield c g s
  | .exit w => Sys2Proof.Machine.execExit w s
  | .nop w => Sys2Proof.Machine.execNop w s
  | .gets w => Sys2Proof.Machine.execGets w s
  | .teamPlacement c slot q seq => Sys2Proof.Machine.execTeamPlacement c slot q seq s
  | .coreFaultRecord c => Sys2Proof.Machine.execCoreFaultRecord c s
  | .preempt a c teams => Sys2Proof.Machine.execPreempt a c teams s
  | .preemptComplete c => Sys2Proof.Machine.execPreemptComplete c s
  | .resume a c teams => Sys2Proof.Machine.execResume a c teams s
  | .resumeRestore c slot => Sys2Proof.Machine.execResumeRestore c slot s
  | .discard a c teams => Sys2Proof.Machine.execDiscard a c teams s
  | .cntClr a c => Sys2Proof.Machine.execCntClr a c s
  | .fmtSrSeed a c seed => Sys2Proof.Machine.execFmtSrSeed a c seed s
  | .mergeEntryTimeout c k => Sys2Proof.Machine.execMergeEntryTimeout c k s
  | .peerTimeout c k => Sys2Proof.Machine.execPeerTimeout c k s
  | .icacheParityError c set way => Sys2Proof.Machine.execIcacheParityError c set way s
  | .l1ParityError c set way cycle => Sys2Proof.Machine.execL1ParityError c set way cycle s
  | .l2Error slice set way sector kind => Sys2Proof.Machine.execL2Error slice set way sector kind s
  | .galleryError bank w multi => Sys2Proof.Machine.execGalleryError bank w multi s
  | .mscError addr kind => Sys2Proof.Machine.execMscError addr kind s
  | .hbmError addr uncorrectable => Sys2Proof.Machine.execHbmError addr uncorrectable s
  | .patrolScrub addr => Sys2Proof.Machine.execPatrolScrub addr s
  | .hbmRefresh stack => Sys2Proof.Machine.execHbmRefresh stack s
  | .clean a ch part => Sys2Proof.Machine.execClean a ch part s
  | .invalidate a ch part => Sys2Proof.Machine.execInvalidate a ch part s
  | .cleanAndInvalidate a ch part => Sys2Proof.Machine.execCleanAndInvalidate a ch part s
  | .preloadAndLock a ch part => Sys2Proof.Machine.execPreloadAndLock a ch part s
  | .unlock a ch part => Sys2Proof.Machine.execUnlock a ch part s
  | .maintenanceDone ch => Sys2Proof.Machine.execMaintenanceDone ch s
  | .wayPowerRequest a target => Sys2Proof.Machine.execWayPowerRequest a target s
  | .wayPowerDone => Sys2Proof.Machine.execWayPowerDone s
  | .rds m => Sys2Proof.Machine.execRds m s
  | .rdm m => Sys2Proof.Machine.execRdm m s
  | .upg m => Sys2Proof.Machine.execUpg m s
  | .wbm m => Sys2Proof.Machine.execWbm m s
  | .evs m => Sys2Proof.Machine.execEvs m s
  | .wrf m => Sys2Proof.Machine.execWrf m s
  | .wrp m => Sys2Proof.Machine.execWrp m s
  | .fwds m => Sys2Proof.Machine.execFwds m s
  | .fwdm m => Sys2Proof.Machine.execFwdm m s
  | .rcls m => Sys2Proof.Machine.execRcls m s
  | .rcli m => Sys2Proof.Machine.execRcli m s
  | .inv m => Sys2Proof.Machine.execInv m s
  | .datas m => Sys2Proof.Machine.execDatas m s
  | .datam m => Sys2Proof.Machine.execDatam m s
  | .grantm m => Sys2Proof.Machine.execGrantm m s
  | .wbs m => Sys2Proof.Machine.execWbs m s
  | .rcldata m => Sys2Proof.Machine.execRcldata m s
  | .invack m => Sys2Proof.Machine.execInvack m s
  | .fwdack m => Sys2Proof.Machine.execFwdack m s
  | .wback m => Sys2Proof.Machine.execWback m s
  | .wrack m => Sys2Proof.Machine.execWrack m s
  | .retry m => Sys2Proof.Machine.execRetry m s
  | .retryResend addr => Sys2Proof.Machine.execRetryResend addr s
  | .done m => Sys2Proof.Machine.execDone m s
  | .holdEnd addr => Sys2Proof.Machine.execHoldEnd addr s
  | .homeTxnTimeout addr => Sys2Proof.Machine.execHomeTxnTimeout addr s
  | .memRd addr mv => Sys2Proof.Machine.execMemRd addr mv s
  | .memRdData addr => Sys2Proof.Machine.execMemRdData addr s
  | .memInv addr mv => Sys2Proof.Machine.execMemInv addr mv s
  | .memInvNT addr mv => Sys2Proof.Machine.execMemInvNT addr mv s
  | .memClnEvct addr mv => Sys2Proof.Machine.execMemClnEvct addr mv s
  | .memSpecRd addr => Sys2Proof.Machine.execMemSpecRd addr s
  | .biConflict addr => Sys2Proof.Machine.execBiConflict addr s
  | .memWr addr mv data poison => Sys2Proof.Machine.execMemWr addr mv data poison s
  | .memWrPtl addr mv data mask => Sys2Proof.Machine.execMemWrPtl addr mv data mask s
  | .biRspI addr => Sys2Proof.Machine.execBiRspI addr s
  | .biRspS addr => Sys2Proof.Machine.execBiRspS addr s
  | .biRspE addr => Sys2Proof.Machine.execBiRspE addr s
  | .memRdFwd addr grant => Sys2Proof.Machine.execMemRdFwd addr grant s
  | .memWrFwd addr => Sys2Proof.Machine.execMemWrFwd addr s
  | .snpInv addr => Sys2Proof.Machine.execSnpInv addr s
  | .snpData addr => Sys2Proof.Machine.execSnpData addr s
  | .snpCur addr => Sys2Proof.Machine.execSnpCur addr s
  | .biasFlipToHost a pages => Sys2Proof.Machine.execBiasFlipToHost a pages s
  | .biasFlipToDevice a pages => Sys2Proof.Machine.execBiasFlipToDevice a pages s
  | .biasFlipDone => Sys2Proof.Machine.execBiasFlipDone s
  | .purgeWalkDone => Sys2Proof.Machine.execPurgeWalkDone s
  | .pageTableWalk k => Sys2Proof.Machine.execPageTableWalk k s
  | .faultBatch err => Sys2Proof.Machine.execFaultBatch err s
  | .faultStallLimit k => Sys2Proof.Machine.execFaultStallLimit k s
  | .faultRespRetry a seq => Sys2Proof.Machine.execFaultRespRetry a seq s
  | .fail a seq => Sys2Proof.Machine.execFail a seq s
  | .retryTag a tag => Sys2Proof.Machine.execRetryTag a tag s
  | .ringEnable a size vec => Sys2Proof.Machine.execRingEnable a size vec s
  | .ringConsWrite a v => Sys2Proof.Machine.execRingConsWrite a v s
  | .invalidateTag a ch tag => Sys2Proof.Machine.execInvalidateTag a ch tag s
  | .invalidateEveryTag a ch => Sys2Proof.Machine.execInvalidateEveryTag a ch s
  | .invalidationDone ch => Sys2Proof.Machine.execInvalidationDone ch s
  | .drainLimit ch => Sys2Proof.Machine.execDrainLimit ch s
  | .create a ch tag part priv => Sys2Proof.Machine.execCreate a ch tag part priv s
  | .destroy a ch tag => Sys2Proof.Machine.execDestroy a ch tag s
  | .setRoot a ch tag => Sys2Proof.Machine.execSetRoot a ch tag s
  | .translationPrefetch a ch tag => Sys2Proof.Machine.execTranslationPrefetch a ch tag s
  | .dataPrefetch a ch tag => Sys2Proof.Machine.execDataPrefetch a ch tag s
  | .dataPrefetchAndLock a ch tag => Sys2Proof.Machine.execDataPrefetchAndLock a ch tag s
  | .advise a ch tag adv => Sys2Proof.Machine.execAdvise a ch tag adv s
  | .windowRefresh a all idx => Sys2Proof.Machine.execWindowRefresh a all idx s
  | .windowRefreshDone => Sys2Proof.Machine.execWindowRefreshDone s
  | .wrd m => Sys2Proof.Machine.execWrd m s
  | .wwr m => Sys2Proof.Machine.execWwr m s
  | .watom m => Sys2Proof.Machine.execWatom m s
  | .wrdrsp m => Sys2Proof.Machine.execWrdrsp m s
  | .wwrack m => Sys2Proof.Machine.execWwrack m s
  | .watomrsp m => Sys2Proof.Machine.execWatomrsp m s
  | .werr m => Sys2Proof.Machine.execWerr m s
  | .configRequest write off size v => Sys2Proof.Machine.execConfigRequest write off size v s
  | .doorbell q v => Sys2Proof.Machine.execDoorbell q v s
  | .cqCons q v => Sys2Proof.Machine.execCqCons q v s
  | .bar4Read off size => Sys2Proof.Machine.execBar4Read off size s
  | .bar4Write off size v => Sys2Proof.Machine.execBar4Write off size v s
  | .cxlReset => Sys2Proof.Machine.execCxlReset s
  | .linkDown => Sys2Proof.Machine.execLinkDown s
  | .uncorr => Sys2Proof.Machine.execUncorr s
  | .ideFail => Sys2Proof.Machine.execIdeFail s
  | .viral => Sys2Proof.Machine.execViral s
  | .moduleRetrain m => Sys2Proof.Machine.execModuleRetrain m s
  | .retrainDone => Sys2Proof.Machine.execRetrainDone s
  | .holdLimit => Sys2Proof.Machine.execHoldLimit s
  | .releaseResume a key => Sys2Proof.Machine.execReleaseResume a key s
  | .releaseDiscard a key => Sys2Proof.Machine.execReleaseDiscard a key s
  | .vectorDelivery v => Sys2Proof.Machine.execVectorDelivery v s
  | .completionTimeout tag => Sys2Proof.Machine.execCompletionTimeout tag s
  | .ideKm stream secure transcript => Sys2Proof.Machine.execIdeKm stream secure transcript s
  | .descriptorFetch q err => Sys2Proof.Machine.execDescriptorFetch q err s
  | .refetch q => Sys2Proof.Machine.execRefetch q s
  | .commandStart q => Sys2Proof.Machine.execCommandStart q s
  | .kernel q seq => Sys2Proof.Machine.execKernel q seq s
  | .model q seq => Sys2Proof.Machine.execModel q seq s
  | .transfer q seq => Sys2Proof.Machine.execTransfer q seq s
  | .nopDescriptor q seq => Sys2Proof.Machine.execNopDescriptor q seq s
  | .qualify q seq longest tierFull => Sys2Proof.Machine.execQualify q seq longest tierFull s
  | .completionRecord cq => Sys2Proof.Machine.execCompletionRecord cq s
  | .coalTimeout cq => Sys2Proof.Machine.execCoalTimeout cq s
  | .bgAge q => Sys2Proof.Machine.execBgAge q s
  | .createSq a ch q cls part log2 => Sys2Proof.Machine.execCreateSq a ch q cls part log2 s
  | .createCq a ch q part log2 => Sys2Proof.Machine.execCreateCq a ch q part log2 s
  | .destroySq a ch q => Sys2Proof.Machine.execDestroySq a ch q s
  | .destroyCq a ch q => Sys2Proof.Machine.execDestroyCq a ch q s
  | .resetSq a ch q => Sys2Proof.Machine.execResetSq a ch q s
  | .drainSq a ch q => Sys2Proof.Machine.execDrainSq a ch q s
  | .cancelSq a ch q => Sys2Proof.Machine.execCancelSq a ch q s
  | .readSq a ch q => Sys2Proof.Machine.execReadSq a ch q s
  | .readCq a ch q => Sys2Proof.Machine.execReadCq a ch q s
  | .register a ch id tier part src => Sys2Proof.Machine.execRegister a ch id tier part src s
  | .unregister a ch id part => Sys2Proof.Machine.execUnregister a ch id part s
  | .reside a ch id part arg => Sys2Proof.Machine.execReside a ch id part arg s
  | .openStream a ch id part => Sys2Proof.Machine.execOpenStream a ch id part s
  | .closeStream a ch id part => Sys2Proof.Machine.execCloseStream a ch id part s
  | .extend a ch id part => Sys2Proof.Machine.execExtend a ch id part s
  | .readImage a ch id part => Sys2Proof.Machine.execReadImage a ch id part s
  | .readStream a ch id part => Sys2Proof.Machine.execReadStream a ch id part s
  | .layerLaunch q seq => Sys2Proof.Machine.execLayerLaunch q seq s
  | .pageMove k err => Sys2Proof.Machine.execPageMove k err s
  | .tierLateLimit q seq => Sys2Proof.Machine.execTierLateLimit q seq s
  | .data ch req offset bytes => Sys2Proof.Machine.execData ch req offset bytes s
  | .error ch code => Sys2Proof.Machine.execError ch code s
  | .srtRepeat ch => Sys2Proof.Machine.execSrtRepeat ch s
  | .rdmaReadResponse ch psn bytes ce => Sys2Proof.Machine.execRdmaReadResponse ch psn bytes ce s
  | .rnrNak ch => Sys2Proof.Machine.execRnrNak ch s
  | .roceRetry ch => Sys2Proof.Machine.execRoceRetry ch s
  | .trainingComplete p => Sys2Proof.Machine.execTrainingComplete p s
  | .portStateTimeout p => Sys2Proof.Machine.execPortStateTimeout p s
  | .identSend p => Sys2Proof.Machine.execIdentSend p s
  | .ident p d => Sys2Proof.Machine.execIdent p d s
  | .keyswitch p seq epoch authentic => Sys2Proof.Machine.execKeyswitch p seq epoch authentic s
  | .normalFlit p seq authentic msgs => Sys2Proof.Machine.execNormalFlit p seq authentic msgs s
  | .ack p seq => Sys2Proof.Machine.execAck p seq s
  | .nak p seq => Sys2Proof.Machine.execNak p seq s
  | .credit p vc count => Sys2Proof.Machine.execCredit p vc count s
  | .ackTimer p => Sys2Proof.Machine.execAckTimer p s
  | .silent p => Sys2Proof.Machine.execSilent p s
  | .stall p vc => Sys2Proof.Machine.execStall p vc s
  | .loss p => Sys2Proof.Machine.execLoss p s
  | .keyRollover p => Sys2Proof.Machine.execKeyRollover p s
  | .retrain a p => Sys2Proof.Machine.execRetrain a p s
  | .contain a p => Sys2Proof.Machine.execContain a p s
  | .disable a p => Sys2Proof.Machine.execDisable a p s
  | .portLeave a p => Sys2Proof.Machine.execPortLeave a p s
  | .timeExchange => Sys2Proof.Machine.execTimeExchange s
  | .timeReq p src t1 => Sys2Proof.Machine.execTimeReq p src t1 s
  | .timeRsp p t1 t2 t3 t4 => Sys2Proof.Machine.execTimeRsp p t1 t2 t3 t4 s
  | .ptpMessage port offset => Sys2Proof.Machine.execPtpMessage port offset s
  | .slip m => Sys2Proof.Machine.execSlip m s
  | .jobCancel m => Sys2Proof.Machine.execJobCancel m s
  | .lastGasp p m => Sys2Proof.Machine.execLastGasp p m s
  | .leave p m => Sys2Proof.Machine.execLeave p m s
  | .join m => Sys2Proof.Machine.execJoin m s
  | .mail m => Sys2Proof.Machine.execMail m s
  | .landingFire part idx => Sys2Proof.Machine.execLandingFire part idx s
  | .arm a set => Sys2Proof.Machine.execArm a set s
  | .cancel a set => Sys2Proof.Machine.execCancel a set s
  | .cancelAndPropagate a set => Sys2Proof.Machine.execCancelAndPropagate a set s
  | .clear a set => Sys2Proof.Machine.execClear a set s
  | .read a set => Sys2Proof.Machine.execRead a set s
  | .slipPrediction part job work clockMHz => Sys2Proof.Machine.execSlipPrediction part job work clockMHz s
  | .neighborSolicitation port target src => Sys2Proof.Machine.execNeighborSolicitation port target src s
  | .echoRequest port src bytes => Sys2Proof.Machine.execEchoRequest port src bytes s
  | .frameDrop port => Sys2Proof.Machine.execFrameDrop port s
  | .telemetry => Sys2Proof.Machine.execTelemetry s
  | .settingLoad a len => Sys2Proof.Machine.execSettingLoad a len s
  | .settingStoreLoad a => Sys2Proof.Machine.execSettingStoreLoad a s
  | .settingLoadDone stackOk stackType => Sys2Proof.Machine.execSettingLoadDone stackOk stackType s
  | .begin a id => Sys2Proof.Machine.execBegin a id s
  | .stage a id => Sys2Proof.Machine.execStage a id s
  | .commit a id => Sys2Proof.Machine.execCommit a id s
  | .commitAt a id part lidx => Sys2Proof.Machine.execCommitAt a id part lidx s
  | .rollback a id => Sys2Proof.Machine.execRollback a id s
  | .claspTimeout => Sys2Proof.Machine.execClaspTimeout s
  | .commitDone => Sys2Proof.Machine.execCommitDone s
  | .stop a part => Sys2Proof.Machine.execStop a part s
  | .run a part => Sys2Proof.Machine.execRun a part s
  | .partitionStopped part => Sys2Proof.Machine.execPartitionStopped part s
  | .loadFirmware a ch => Sys2Proof.Machine.execLoadFirmware a ch s
  | .raiseSvn a ch => Sys2Proof.Machine.execRaiseSvn a ch s
  | .install a ch part slot => Sys2Proof.Machine.execInstall a ch part slot s
  | .erase a ch part slot => Sys2Proof.Machine.execErase a ch part slot s
  | .rekey a ch part => Sys2Proof.Machine.execRekey a ch part s
  | .claim a ch => Sys2Proof.Machine.execClaim a ch s
  | .transferOwnership a ch => Sys2Proof.Machine.execTransferOwnership a ch s
  | .getVersion t => Sys2Proof.Machine.execGetVersion t s
  | .getCapabilities t => Sys2Proof.Machine.execGetCapabilities t s
  | .negotiateAlgorithms t acceptable => Sys2Proof.Machine.execNegotiateAlgorithms t acceptable s
  | .getCertificate t slot offset length => Sys2Proof.Machine.execGetCertificate t slot offset length s
  | .challenge t slot nonce => Sys2Proof.Machine.execChallenge t slot nonce s
  | .getMeasurements t index nonce => Sys2Proof.Machine.execGetMeasurements t index nonce s
  | .keyExchange t slot => Sys2Proof.Machine.execKeyExchange t slot s
  | .heartbeat t session => Sys2Proof.Machine.execHeartbeat t session s
  | .keyUpdate t session => Sys2Proof.Machine.execKeyUpdate t session s
  | .getQuote t nonce part => Sys2Proof.Machine.execGetQuote t nonce part s
  | .getLog t first count => Sys2Proof.Machine.execGetLog t first count s
  | .getPqChain t => Sys2Proof.Machine.execGetPqChain t s
  | .doeDiscovery index => Sys2Proof.Machine.execDoeDiscovery index s
  | .cdatTableAccess entry => Sys2Proof.Machine.execCdatTableAccess entry s
  | .setEndpointId eid => Sys2Proof.Machine.execSetEndpointId eid s
  | .alertResponse => Sys2Proof.Machine.execAlertResponse s
  | .governorIteration p => Sys2Proof.Machine.execGovernorIteration p s
  | .fastLimiter => Sys2Proof.Machine.execFastLimiter s
  | .droop tile => Sys2Proof.Machine.execDroop tile s
  | .droopEnd tile => Sys2Proof.Machine.execDroopEnd tile s
  | .idleEntry c => Sys2Proof.Machine.execIdleEntry c s
  | .napEntry c => Sys2Proof.Machine.execNapEntry c s
  | .offEntry c => Sys2Proof.Machine.execOffEntry c s
  | .wakeDone c => Sys2Proof.Machine.execWakeDone c s
  | .hbmTempRead stack celsius => Sys2Proof.Machine.execHbmTempRead stack celsius s
  | .watchdog cc => Sys2Proof.Machine.execWatchdog cc s
  | .coreStopTimeout c => Sys2Proof.Machine.execCoreStopTimeout c s
  | .openClear a idx => Sys2Proof.Machine.execOpenClear a idx s
  | .errLoupeFreeze a key => Sys2Proof.Machine.execErrLoupeFreeze a key s
  | .cntClear a run => Sys2Proof.Machine.execCntClear a run s
  | .extest pins => Sys2Proof.Machine.execExtest pins s
  | .idcode => Sys2Proof.Machine.execIdcode s
  | .samplePreload pins => Sys2Proof.Machine.execSamplePreload pins s
  | .clamp => Sys2Proof.Machine.execClamp s
  | .bypass => Sys2Proof.Machine.execBypass s
  | .loupeSel chain offset => Sys2Proof.Machine.execLoupeSel chain offset s
  | .loupeRead => Sys2Proof.Machine.execLoupeRead s
  | .loupeFreeze => Sys2Proof.Machine.execLoupeFreeze s
  | .status => Sys2Proof.Machine.execStatus s
  | .loupeInfo chain => Sys2Proof.Machine.execLoupeInfo chain s
  | .sidebandLoupeRead chain offset count => Sys2Proof.Machine.execSidebandLoupeRead chain offset count s
  | .logRead log first count => Sys2Proof.Machine.execLogRead log first count s
  | .freeze => Sys2Proof.Machine.execFreeze s
  | .linkUp modules => Sys2Proof.Machine.execLinkUp modules s
  | .ethernetLinkUp port => Sys2Proof.Machine.execEthernetLinkUp port s
  | .ethernetLinkDown port => Sys2Proof.Machine.execEthernetLinkDown port s
  | .keyswitchSend p => Sys2Proof.Machine.execKeyswitchSend p s
  | .keyFlitLimit p => Sys2Proof.Machine.execKeyFlitLimit p s
  | .cxlCacheResponse addr rsp => Sys2Proof.Machine.execCxlCacheResponse addr rsp s
  | .cxlIoCompletion tag bytes ok => Sys2Proof.Machine.execCxlIoCompletion tag bytes ok s
  | .debugUnlock a ch => Sys2Proof.Machine.execDebugUnlock a ch s
  | .securityCommandDone ch => Sys2Proof.Machine.execSecurityCommandDone ch s
  | .tierCommandDone ch => Sys2Proof.Machine.execTierCommandDone ch s
  | .translationCommandDone ch => Sys2Proof.Machine.execTranslationCommandDone ch s
  | .vddAonLoss => Sys2Proof.Machine.execVddAonLoss s
  | .tapReset => Sys2Proof.Machine.execTapReset s
  | .registerRead a off size => Sys2Proof.Machine.execRegisterRead a off size s

end Sys2Proof.Machine
end

