-- ==== Sys2Proof/Safety.lean ====
section
/-! DEFINITION. The terms in which claims speak of a run: when a command completes, when a core instruction issues, and what an
instruction leaves as it was. -/
namespace Sys2Proof.Machine

/-- A safe step: the machine goes on to a next state. -/
def SafeStep (s : State) : Prop := ∃ t, step s = .next t

/-- The command answers state `t`. -/
def Gives (c : Instr) (s t : State) : Prop := exec c s = .next t

/-- The 128-byte line of a virtual address stands in the instruction cache of core `c` for a tag (R199). -/
def State.lineIn (s : State) (c tag va : Nat) : Bool :=
  (nruFind (s.core c).ic (va / 128 % 128) [0, 1, 2, 3] tag (va / 128)).isSome

/-- The instruction issues: its group is ready, the lines of its words are in the instruction cache, its opcode byte names the
operation, and its encoding is legal (R92, R152, R165, R199). `x` names what it finds. -/
structure Issues (o : Op) (i : Issue) (s : State) (x : Iss) : Prop where
  runs  : s.runs = true
  ready : s.ready o i = some x
  lineA : s.lineIn i.core x.tm.tag x.g.pc.toNat = true
  lineB : s.lineIn i.core x.tm.tag (x.g.pc.toNat + encLen i.w - 1) = true
  names : opOf i.opc = some o
  legal : legal o i.w = true

/-- It also names no register beyond its team's allocation (R104). -/
structure Goes (o : Op) (i : Issue) (s : State) (x : Iss) : Prop extends Issues o i s x where
  range : x.rangeBad (xNamed o i.w) = false

/-- The state in which the operation of an instruction starts: the core is Active, the lines of its words are marked as used, and
the instruction has been counted, and dated where it is the first of its kernel here (R199, R463, R506, Table 11.7). -/
def State.fetched (s : State) (x : Iss) : State :=
  ((s.modCore x.c (fun k => k.issues x.tm s.aon.newel)).fetchWords x).1.event 0 x.c 1

/-- Is `off` one of the event counters CNT_COUNT_k (R506)? -/
def isCount (off : Nat) : Bool := 0x1400800 ≤ off && off < 0x1400900

/-- What an instruction of a group leaves as it was: every other core, every other group of its core, its team and requests,
its buffered stores and transfers, memory, every cache but the instruction cache's used bits, every register but the event
counters, and everything outside the cores. -/
structure OnlyGroup (i : Issue) (s t : State) : Prop where
  rest   : t = { s with cores := t.cores, regs := t.regs, walks := t.walks }
  cores  : ∀ c, c ≠ i.core.val → t.core c = s.core c
  core   : t.core i.core = { s.core i.core with
    groups := (t.core i.core).groups, ic := (t.core i.core).ic, sleep := (t.core i.core).sleep, began := (t.core i.core).began }
  began  : ∃ l, (t.core i.core).began = (s.core i.core).began ++ l
  groups : ∀ g, g ≠ i.grp.val → (t.core i.core).group g = (s.core i.core).group g
  regs   : ∀ off, isCount off = false → t.reg off = s.reg off

/-- The group after an instruction: what of it may differ is its registers and predicates that `px`, `pu` and `pp` name, and its
path. -/
structure Wrote (g h : Group) (px : Nat → Nat → Prop) (pu : Nat → Prop) (pp : Nat → Nat → Prop) : Prop where
  x    : ∀ r l, l < 32 → ¬ px r l → h.xr r l = g.xr r l
  u    : ∀ r, ¬ pu r → h.ur r = g.ur r
  p    : ∀ r l, l < 32 → ¬ pp r l → h.pr r l = g.pr r l
  rest : h = { g with x := h.x, u := h.u, p := h.p, pc := h.pc, act := h.act, stack := h.stack }

/-- The state in which the operation of an instruction starts differs from the one before in the core's instruction cache and
sleep state and in event counters. -/
structure Fetched (i : Issue) (s u : State) : Prop where
  rest  : u = { s with cores := u.cores, regs := u.regs }
  cores : ∀ c, c ≠ i.core.val → u.core c = s.core c
  core  : ∃ m l, u.core i.core = { s.core i.core with ic := m, sleep := .active, began := (s.core i.core).began ++ l }
  regs  : ∀ off, isCount off = false → u.reg off = s.reg off

/-- No register, no uniform register, no predicate. -/
def none2 (_ _ : Nat) : Prop := False
def none1 (_ : Nat) : Prop := False

/-- The instruction has executed and its group, now `h`, runs on (R97): to the next instruction, where no path waits. Where no
entry of its stack is spilled, it has left everything else as it was. -/
structure Ran (i : Issue) (s t : State) (x : Iss) (h : Group) : Prop where
  group : (t.core i.core).group i.grp = some h
  path  : x.g.stack = [] → h.pc = nextPc i.w x.g ∧ h.act = x.g.act ∧ h.stack = []
  only  : x.g.stack.length ≤ 8 → OnlyGroup i s t

/-- `t` follows an instruction that writes `f` of each lane to the x register DST of the lanes that take part, and no more
(R151, R152). -/
def WritesX (i : Issue) (s : State) (x : Iss) (f : Nat → W32) (t : State) : Prop :=
  ∃ h, Ran i s t x h ∧ (rDst i.w ≠ 255 → ∀ l, l ∈ takers i.w x.g → h.xr (rDst i.w) l = f l) ∧
    Wrote x.g h (fun r l => r = rDst i.w ∧ r ≠ 255 ∧ l ∈ takers i.w x.g) none1 none2

/-- `t` follows an instruction that writes `v` to the u register DST once, and no more (R154). -/
def WritesU (i : Issue) (s : State) (x : Iss) (v : W32) (t : State) : Prop :=
  ∃ h, Ran i s t x h ∧ h.ur (rDst i.w) = v ∧ Wrote x.g h none2 (fun r => r = rDst i.w) none2

/-- `t` follows an instruction that writes `f` of each lane to the predicate DST of the lanes that take part, where it is not p0,
and no more (R151). -/
def WritesP (i : Issue) (s : State) (x : Iss) (f : Nat → Bool) (t : State) : Prop :=
  ∃ h, Ran i s t x h ∧ (rDst i.w ≠ 0 → ∀ l, l ∈ takers i.w x.g → h.pr (rDst i.w) l = f l) ∧
    Wrote x.g h none2 none1 (fun r l => r = rDst i.w ∧ r ≠ 0 ∧ l ∈ takers i.w x.g)

/-- What an instruction leaves outside its core, but for registers that `r` names: memory and caches, other cores, every register
but those and the event counters. -/
structure Outside (i : Issue) (s t : State) (r : Nat → Prop) : Prop where
  rest  : t = { s with cores := t.cores, regs := t.regs, walks := t.walks, tlbs := t.tlbs, freeCtr := t.freeCtr }
  cores : ∀ c, c ≠ i.core.val → t.core c = s.core c
  regs  : ∀ off, isCount off = false → ¬ r off → t.reg off = s.reg off

/-- The registers FMT_GUARD_CTL to FMT_ESC_REFUSED_CNT of core `c` (R90). -/
def isFmt (c off : Nat) : Prop := 0x100C00 + 0x1000 * c ≤ off ∧ off < 0x100C40 + 0x1000 * c

/-- Every other group of the instruction's core, and every team, is as it was. -/
structure OthersSame (i : Issue) (s t : State) : Prop where
  groups : ∀ g, g ≠ i.grp.val → (t.core i.core).group g = (s.core i.core).group g
  teams  : (t.core i.core).teams = (s.core i.core).teams

/-- The translation of address `va` by the load/store engine of the instruction's core is at hand: the context is the root's, or a
leaf stands in the engine's buffer that allows the access (R267, R276). -/
def State.atHand (s : State) (x : Iss) (va : Nat) (write : Bool) : Bool :=
  x.tm.tag == 0 ||
    (va < 2 ^ 48 &&
      s.walks.all (fun r => !(r.stream == x.stream && r.tag == x.tm.tag && samePage r.va va && r.write == write && !r.fetch)) &&
      (match (s.tlb (lsBuf x.c)).find? (fun t => t.maps x.tm.tag va) with | some t => t.w || !write | none => false))

/-- The leaf that serves it. -/
def State.leafAt (s : State) (x : Iss) (va : Nat) : Tlb :=
  if x.tm.tag = 0 then ⟨0, 0, 2 ^ 56, 0, true, .wb, true⟩
  else ((s.tlb (lsBuf x.c)).find? (fun t => t.maps x.tm.tag va)).getD ⟨0, 0, 2 ^ 56, 0, true, .wb, true⟩

/-- The access that lane `l` of an LD, ST or RMW makes. -/
def State.accessOf (s : State) (x : Iss) (ua : Bool) (size l : Nat) : LaneAcc :=
  let va := laneAddr x.w ua x.g l
  let t := s.leafAt x va.toNat
  ⟨l, 0, size, va, s.target (t.paOf va.toNat), t.ty, 0, 0⟩

/-- The lanes of an LD, ST or RMW meet no fault and wait for no translation: their addresses are aligned, their translations are
at hand and lead to memory, a window, the host or a register that the team may name (R116, R179). -/
def State.lanesGood (s : State) (x : Iss) (ua write : Bool) (size : Nat) : Prop :=
  (s.core x.c).acquiring x.g = false ∧ takers x.w x.g ≠ [] ∧ ∀ l, l ∈ takers x.w x.g →
    (laneAddr x.w ua x.g l).toNat % size = 0 ∧ s.atHand x (laneAddr x.w ua x.g l).toNat write = true ∧
    (s.accessOf x ua size l).tgt ≠ .err ∧ ((s.accessOf x ua size l).ty = .wtm → x.tm.priv = true)

/-- All lanes of the group are active and take part, so that a group-wide instruction is carried out (R139). -/
def AllLanes (x : Iss) : Prop := x.g.act = allLanes ∧ takeMask x.w x.g = allLanes ∧ x.g.converged = true

/-- A register access of an agent reaches the register at `o`: firmware executes (R442), or the host's access is served (R304,
R320, Table 10.4). -/
def State.reaches (s : State) (a : Agent) (o : Nat) : Bool :=
  match a with
  | .firmware => s.fwRuns
  | .host => s.ioHere && !s.inD3 && s.memEnable && !(s.ep.cont = .frozen && !servedFrozen o) && !s.unserved o

/-- The bits that a write of the whole register reaches. -/
def RRow.whole (r : RRow) : Nat := if r.wide then 2 ^ 64 - 1 else 2 ^ 32 - 1

/-- The agent's write of `w` to the whole of the register at `o`, of row `r`, reaches it and breaks no rule (Table 17.10). -/
structure WriteOk (a : Agent) (s : State) (r : RRow) (o w : Nat) : Prop where
  here : s.reaches a o = true
  row  : findReg o = some (r, o)
  ok   : s.violates a r o w r.whole = none

/-- The fields have taken up what is written to them; nothing else has come of the write yet (R8, R13, R17, Table 00.3). -/
def State.written (s : State) (a : Agent) (r : RRow) (o w : Nat) : State := (s.touchReg a o).storeReg r o w r.whole

/-- Nothing that has waited ends now: no group waits in a FENCE or an XWAIT, no team is stopping, and no running command has all
its work behind it (R101, R117, R176, R182). -/
structure Quiet (s : State) : Prop where
  holds : ∀ c e, e ∈ (s.core c).groupList → (∀ l m, e.2.hold ≠ .fence l m) ∧ ∀ n, e.2.hold ≠ .xwait n
  teams : ∀ c e, e ∈ (s.core c).teamList → e.2.st ≠ .stopping
  cmds  : ∀ e, e ∈ s.sqs → ∀ m, m ∈ e.2.cmds → s.kernelOver e.1 m = false ∧ s.cmdOver e.1 m = false

/-- R213 accepts the range that a maintenance channel names for partition `p`. -/
def State.rangeOk (s : State) (ch p : Nat) : Bool :=
  let a := s.mntAddr ch
  let n := s.mntLen ch
  a % 128 == 0 && n % 128 == 0 && n != 0 && (isHbm a || isGallery a) && (isHbm (a + n - 1) || isGallery (a + n - 1)) && s.ownsRange p a n

/-- The result of a channel command: GO is 0, DONE is 1 and RESULT is `v`. -/
def Ended (t : State) (go done res : FRef) (v : Nat) : Prop := t.fld go = 0 ∧ t.fld done = 1 ∧ t.fld res = v

/-- `t` differs from `s` in registers and holding words alone. -/
def JustRegs (s t : State) : Prop := t = { s with regs := t.regs, holdHost := t.holdHost, holdFw := t.holdFw }

/-- `v` differs from `s` in no register but the counters of L2 lookups and of events: what a read leaves (R506). -/
def CountsOnly (s v : State) : Prop := ∀ o, isCount o = false → o ≠ Reg.L2C_HIT_CNT → o ≠ Reg.L2C_MISS_CNT → v.reg o = s.reg o

/-- A message of opcode `opc` has arrived for this chip; `u` is the state with it taken from its buffer. It is no coherence message
of a SILENT member, no bias flip is in
progress and no BIConflict waits, so that nothing else follows it (R253, R258, R386). -/
structure Arrives (s : State) (m : Msg) (opc : Nat) (u : State) : Prop where
  runs : s.runs = true
  take : s.takeMsg m opc = some u
  ears : u.fromSilent m opc = false
  calm : u.biConf = [] ∧ u.flip = none

/-- The request that a message of a peer makes at the home. -/
def peerReq (m : Msg) (op : HOp) : HReq :=
  ⟨msgLocal m, .peer m.span.val m.src.toNat m.txn.toNat, op, m.starve, false, m.mask, m.data, m.poison⟩

/-- A peer's request for a line of coherent memory of this chip that no transaction blocks arrives; no EvS that the peer sent before it
is still to be taken, nothing waits in the conflict queue, and the directory has a way for it (R231 to R234). -/
structure Admitted (s : State) (m : Msg) (opc : Nat) (op : HOp) (u : State) : Prop extends Arrives s m opc u where
  first  : u.behindEvs m = false
  member : u.fromMember m = true
  mode   : u.compat (msgLocal m) = false
  holds  : u.holdsMem (msgLocal m) = true
  idle   : u.conflict = []
  free   : u.blocked (msgLocal m) = false
  way    : u.wayFor (peerReq m op) = (u, .ok)

/-- A starving request counts (R234). -/
def State.starved (u : State) (m : Msg) : State := if m.starve then u.bump Fld.HOME_STARVE_CNT_COUNT 1 else u

/-- A transaction opens. -/
def State.opens (u : State) (t : HTxn) : State := { u with txns := u.txns ++ [t] }

/-- The transaction of a granule becomes `t`. -/
def State.retxn (u : State) (g : Nat) (t : HTxn) : State := { u with txns := u.txns.map (fun y => if y.req.gran = g then t else y) }

/-- An answer of member `k` arrives that the transaction `t` waits for. -/
structure Awaited (s : State) (m : Msg) (opc k : Nat) (w : HWait) (u : State) (t : HTxn) : Prop extends Arrives s m opc u where
  member : u.replier m = some k
  txn    : u.txns.find? (fun y => y.req.gran == msgLocal m && y.waits.contains w) = some t

/-- The host's CXL.mem request for a line of coherent memory of this chip that no transaction blocks is admitted (R251, R310). -/
structure HostAdmitted (s : State) (addr : Nat) (r : HReq) : Prop where
  here  : s.hostHere = true
  mem   : s.memReady r.gran = true
  allow : s.hostDenied r.gran = false
  mode  : s.compat r.gran = false
  gran  : r.gran = canon addr / 64 * 64
  idle  : s.conflict = []
  free  : s.blocked r.gran = false
  way   : s.wayFor r = (s, .ok)
  calm  : s.biConf = [] ∧ s.flip = none
  turn  : s.inWait = []

/-- The host link works and nothing of the host is in flight or cached here. -/
structure HostQuiet (s : State) : Prop where
  runs   : s.runs = true
  up     : s.ep.linkUp = true
  normal : s.ep.cont = .normal
  lines  : ∀ e, e ∈ s.l2 → (e.2.valid && e.2.host) = false
  parked : ∀ e, e ∈ s.rbuf → s.lkind e.1 ≠ .host
  asks   : s.hcReqs = []
  home   : s.txns = [] ∧ s.conflict = [] ∧ s.biConf = [] ∧ s.flip = none
  walk   : s.purges = []

/-- The endpoint has frozen for `cause`: new traffic is held, and the walk over the directory has begun (R261, R320). -/
def Froze (s t : State) (cause : FRef) : Prop :=
  t.ep.cont = .frozen ∧ t.fld Fld.EP_CONT_STATUS_STATE = 1 ∧ t.fld cause = 1 ∧
    t.fld Fld.EP_CONT_CNT_COUNT = (s.fld Fld.EP_CONT_CNT_COUNT + 1) % 2 ^ 48 ∧ t.purges = [none] ∧ t.ep.hold = s.ep.hold ∧
    t.ep.tx = s.ep.tx ∧ t.mem = s.mem ∧ t.l2 = s.l2 ∧ t.cores = s.cores

/-- CXL.io requests of the host are served in Service (R304). -/
structure HostServed (s : State) : Prop where
  service : s.inService = true
  link    : s.ep.linkUp = true ∧ s.ep.retrain = false
  turn    : s.inWait = [] ∧ s.bar4Open = false
  flows   : s.ep.cont = .normal
  space   : s.memEnable = true ∧ s.inD3 = false

/-- Command `c` of queue `q` has ended before it started: it leaves the queue, and its record with a status waits in the completion
queue (R336, R342). -/
def Rejected (s t : State) (q : Nat) (c : Cmd) (status detail : Nat) : Prop :=
  t.sq q = { s.sq q with cmds := (s.sq q).cmds.filter (fun d => d.seq != c.seq) } ∧
    t.cq (s.sq q).cq = { s.cq (s.sq q).cq with recs := (s.cq (s.sq q).cq).recs ++
      [⟨q, c.seq, BitVec.ofNat 64 (at' c.desc 8 8), status, detail, 0, if c.refetched > 0 then 16 else 0, 0, s.elapsed c.db, descFlag c.desc 1,
        s.aon.newel⟩] } ∧ t.mem = s.mem ∧ t.cores = s.cores

/-- The next command of queue `q` to start is `c`: the queue may start commands, and none has ended meanwhile (R336, R344). -/
structure NextUp (s : State) (q : Nat) (c : Cmd) : Prop where
  service : s.inService = true
  quiet   : Quiet s
  first   : (s.sq q).waiting.head? = some c
  fetched : c.st = .fetched
  may     : s.mayStart q = true
  order   : descFlag c.desc 2 = false

/-- The one command of the one queue is `c`; it has started, and nothing else of the queues goes on. -/
structure Alone (s : State) (q : Nat) (v : Sq) (c : Cmd) (ty : Nat) : Prop where
  service : s.inService = true
  quiet   : Quiet s
  queue   : s.sqs = [(q, v)]
  one     : v.cmds = [c]
  started : s.startedCmd q c.seq ty = some c
  teams   : s.hasTeams q c.seq = false
  stores  : s.storesDrained q c.seq = true
  chans   : s.chanXf = []
  fresh   : s.beganAt q c.seq = none

/-- No queue, BIConflict or bias flip goes on, and the tier manager has nothing to bring. -/
def State.still (s : State) : Prop := s.sqs = [] ∧ s.biConf = [] ∧ s.flip = none ∧ s.brings = [] ∧ s.advised = []

/-- No command of an SQ_ channel but `ch` is in progress. -/
def State.sqFree (s : State) (ch : Nat) : Prop := ∀ k, k < 4 → k ≠ ch → s.fldB (Fld.SQ_CMD_GO k) = false

/-- No chip is reached over port `p`, no Landing is armed and Newel does not follow the port, so that nothing else ends with it
(R389, R394, R401). -/
structure Lonely (s : State) (p : Nat) : Prop where
  users : s.portUsers p = []
  lands : s.armed = []
  time  : ¬ ((s.fld Fld.NWL_STATUS_STATE = 1 ∨ s.fld Fld.NWL_STATUS_STATE = 2) ∧ s.fld Fld.NWL_STATUS_UPPORT = p)

/-- Port `p` has been contained with a cause: its queues are dropped, and no other port is touched (R389). -/
def Contained (s t : State) (p cause : Nat) : Prop :=
  t.port p = { Port.empty with st := .contained, nTray := (s.port p).nTray, tx := (s.port p).tx } ∧
    t.fld (Fld.STW_PORT_STATUS_STATE p) = 5 ∧ (t.fld (Fld.STW_PORT_STATUS_CAUSE p)).testBit cause = true ∧
    t.fld Fld.STW_CONTAIN_CNT_COUNT = (s.fld Fld.STW_CONTAIN_CNT_COUNT + 1) % 2 ^ 48 ∧ (∀ q, q ≠ p → t.port q = s.port q) ∧
    t.mem = s.mem ∧ t.cores = s.cores

/-- Nothing but port `p` and registers has changed, and the port is now `q`. -/
def PortNow (s t : State) (p : Nat) (q : Port) : Prop :=
  t.port p = q ∧ (∀ k, k ≠ p → t.port k = s.port k) ∧ t = { s with ports := t.ports, regs := t.regs }

/-- A message has come on port `p`, and `u` is the state with it taken. -/
structure Came (s : State) (p : Nat) (m : Msg) (opc : Nat) (u : State) : Prop where
  runs : s.runs = true
  take : s.takeFrom p m opc = some u

/-- The next entry of the error log goes to HEAD: its place was never written, or every place was and HEAD's holds the entry with the
lowest SEQ of those neither open nor pinned (R494). -/
def State.logFree (s : State) : Prop :=
  s.errAt 0 = none ∨ ∃ y, s.errAt 0 = some y ∧ y.opn = false ∧ y.pinned = false ∧
    ∀ i, i < 512 → ∃ z, s.errAt i = some z ∧ (z.opn = false → z.pinned = false → s.errAge z ≤ s.errAge y)

/-- An error has been recorded in the next place of the error log, with a class (R494). -/
def Logged (s t : State) (code cls ukind unit : Nat) : Prop :=
  ∃ e, SMap.get noErr t.errs (s.errSeq.toNat % 512) = some e ∧ e.code = code ∧ e.cls = cls ∧ e.ukind = ukind ∧ e.unit = unit ∧
    (e.opn = true ↔ cls ≠ 0) ∧ e.newel = s.aon.newel ∧ t.errSeq = s.errSeq + 1

/-- The Fatal action (R491): LAST_GASP on every port that is up, then the stop or the freeze; the first Fatal error is latched. -/
structure Halted (s t : State) (code ukind unit : Nat) : Prop where
  state : t.aon.dev = if s.fldB Fld.ERR_CTL_FREEZE_ON_FATAL then .frozen else .stopped
  clock : t.aon.fast = false
  alert : t.aon.alert = true
  latch : t.aon.fatalLatch = some (s.aon.fatalLatch.getD (code, ukind, unit))
  entry : s.logFree → Logged s t code 3 ukind unit
  gasp  : s.aon.fast = true → ∀ p, p < 8 → (s.port p).st = .up → ∃ m : Msg, m.opc = 0x64 ∧ t.port p = (s.port p).put s.aon.newel m

/-- The chip freezes: its clocks stop, and everything else stays (R500). -/
def State.freeze (s : State) : State := { s with aon := { s.aon with dev := .frozen, fast := false, alert := true } }

/-- The commands of the always-on domain: resets and supplies, control signals, JTAG, and the sideband (Tables 17.1 and 17.2, R29,
R447, R476). -/
def alwaysOn : Instr → Bool
  | .coldReset | .coldResetRelease _ | .fastClocksStart | .warmReset | .warmResetRelease | .loupeFreezeRise | .coolantStop
  | .thermalSample _ | .railFault _ | .refclkHostLoss | .vddAonLoss
  | .extest _ | .idcode | .samplePreload _ | .clamp | .bypass | .loupeSel _ _ | .loupeRead | .loupeFreeze | .tapReset
  | .status | .loupeInfo _ | .sidebandLoupeRead _ _ _ | .logRead _ _ _ | .freeze | .setEndpointId _ | .alertResponse => true
  | .getVersion t | .getCapabilities t | .negotiateAlgorithms t _ | .getCertificate t _ _ _ | .challenge t _ _ | .getMeasurements t _ _
  | .keyExchange t _ | .heartbeat t _ | .keyUpdate t _ | .getQuote t _ _ | .getLog t _ _ | .getPqChain t => t == .mctpSmbus
  | _ => false

/-- The chip is stopped or frozen: its fast clocks are off, with the supply up and cold reset released (R475, R476, R500). -/
def State.halted (s : State) : Prop :=
  (s.aon.dev = .stopped ∨ s.aon.dev = .frozen) ∧ s.aon.fast = false ∧ s.aon.cold = false ∧ s.aon.vdd = true

/-- The always-on domain is in a legal state: cold reset holds while the supply is down; the fast clocks run only with cold reset
released, in Vestibule or Service; and a stopped or frozen chip, and one in Service, has cold reset released. -/
structure Legal (s : State) : Prop where
  power  : s.aon.vdd = false → s.aon.cold = true
  clocks : s.aon.fast = true → s.aon.cold = false ∧ (s.aon.dev = .vestibule ∨ s.aon.dev = .service)
  reset  : s.aon.cold = true → s.aon.dev = .vestibule

end Sys2Proof.Machine
end

