-- ==== Sys2Proof/Certificates/Slice0/Obligations.lean ====
section
/-! DEFINITION. The statements for the provers. In each, the hypotheses are on the state and the operands alone; the terms that
the statements share are in Sys2Proof/Safety.lean. -/
open Sys2Proof Sys2Proof.Machine

/-- O1. A step takes the command at the front of the queue and is exec of it on the state with the rest of the queue; on an empty
queue it is one nanosecond of the always-on clock, which Newel counts while vdd_aon is up and cold_rst_n is high, and where the
fast-clock units do not run it changes nothing else. The idle step is the model's choice (log entry 8). -/
def Obligations.StepRunsFrontCommand : Prop :=
  (∀ (c : Instr) (rest : List Instr) (s : State), s.pending = c :: rest → step s = exec c { s with pending := rest }) ∧
  ∀ s : State, s.pending = [] →
    ∃ t, step s = .next t ∧ (s.runs = false → t = s.tick) ∧
      (s.aon.vdd = true → s.aon.cold = false → s.tick = { s with aon := { s.aon with newel := s.aon.newel + 1 } }) ∧
      (s.aon.vdd = false ∨ s.aon.cold = true → s.tick = s)

/-- O2. The state after reset: a legal always-on domain with cold_rst_n low in Vestibule, canonical memory with nothing listed, every
register at its reset value, and no command waiting. Where a clause rests on a choice of the model: log entries 1, 2, 3, 6, 97. -/
def Obligations.ResetState : Prop :=
  Legal State.reset ∧ Memory.wf State.reset.mem = true ∧ State.reset.mem = [] ∧ State.reset.pending = [] ∧ State.reset.aon.cold = true ∧
    State.reset.aon.dev = .vestibule ∧ State.reset.setting = [] ∧ State.reset.rot.hm = [] ∧
    State.reset.fld Fld.PWR_CAP_CAP = 1400 ∧ State.reset.fld Fld.SET_CLASP_STATE_LAST_ID = 0xFFFF ∧ State.reset.fld Fld.PWR_HBM_TLIM_TLIM = 95 ∧
    ∀ off, State.reset.reg off = (regDefault off).toNat

/-- O3. The integer instructions that write an x register: a lane that takes part gets the function of Table 05.2 of its operands,
every other lane and register keeps its value, and nothing else changes. Where a clause rests on a choice of the model: log entry 4.
-/
def Obligations.IntegerLaneResults : Prop :=
  ∀ (i : Issue) (s : State) (x : Iss),
    let A := srcA i.w x.g
    let B := srcB i.w x.g
    let C := srcC i.w x.g
    let func := encMod i.w 14 12
    (Goes .add i s x → isU i.w = false → ∃ t, exec (.add i) s = .next t ∧ WritesX i s x (fun l => A l + B l) t) ∧
    (Goes .sub i s x → isU i.w = false → ∃ t, exec (.sub i) s = .next t ∧ WritesX i s x (fun l => A l - B l) t) ∧
    (Goes .mul i s x → isU i.w = false → ∃ t, exec (.mul i) s = .next t ∧ WritesX i s x (fun l => A l * B l) t) ∧
    (Goes .mulh i s x → ∃ t, exec (.mulh i) s = .next t ∧ WritesX i s x (fun l =>
      if encMod i.w 7 7 = 1 then BitVec.ofInt 32 ((A l).toInt * (B l).toInt / 2 ^ 32)
      else BitVec.ofNat 32 ((A l).toNat * (B l).toNat / 2 ^ 32)) t) ∧
    (Goes .muladd i s x → ∃ t, exec (.muladd i) s = .next t ∧ WritesX i s x (fun l => A l * B l + C l) t) ∧
    (Goes .bool i s x → isU i.w = false → ∃ t, exec (.bool i) s = .next t ∧ WritesX i s x (fun l =>
      if func = 0 then A l &&& B l else if func = 1 then A l ||| B l else if func = 2 then A l ^^^ B l
      else A l &&& ~~~ (B l)) t) ∧
    (Goes .shift i s x → isU i.w = false → ∃ t, exec (.shift i) s = .next t ∧ WritesX i s x (fun l =>
      let n := (B l).toNat % 32
      if func = 0 then A l <<< n else if func = 1 then A l >>> n else (A l).sshiftRight n) t) ∧
    (Goes .copy i s x → isU i.w = false → ∃ t, exec (.copy i) s = .next t ∧ WritesX i s x B t) ∧
    (Goes .choose i s x → ∃ t, exec (.choose i) s = .next t ∧ WritesX i s x (fun l =>
      if x.g.pr (encMod i.w 10 8) l != (encMod i.w 11 11 == 1) then A l else B l) t) ∧
    (Goes .seti i s x → ∃ t, exec (.seti i) s = .next t ∧ WritesX i s x (fun _ => BitVec.ofInt 32 (sext 20 i.w.mod.toNat)) t)

/-- O4. The bit and lane instructions: BITOP counts ones or leading zeros or reverses the bits of A; XLANE reads A of the lane that
its mode names where that lane is one of 0 to 31 that takes part, else of its own lane. -/
def Obligations.BitAndLaneResults : Prop :=
  ∀ (i : Issue) (s : State) (x : Iss),
    let A := srcA i.w x.g
    let n := fun l => (srcB i.w x.g l).toNat % 32
    let func := encMod i.w 14 12
    (Goes .bitop i s x → isU i.w = false → ∃ t, exec (.bitop i) s = .next t ∧ WritesX i s x (fun l =>
      if func = 0 then BitVec.ofNat 32 (popBits 32 (A l).toNat) else if func = 1 then BitVec.ofNat 32 (leadZeros (A l).toNat)
      else BitVec.ofNat 32 (revBits (A l).toNat)) t) ∧
    (Goes .xlane i s x → ∃ t, exec (.xlane i) s = .next t ∧ WritesX i s x (fun l =>
      let q : Int := if func = 0 then (n l : Int) else if func = 1 then (l : Int) - n l else if func = 2 then (l : Int) + n l else ((l ^^^ n l : Nat) : Int)
      if 0 ≤ q ∧ q < 32 ∧ q.toNat ∈ takers i.w x.g then A q.toNat else A l) t)

/-- O5. The FP32 instructions round the exact result once, with the operand signs that NEG changes. -/
def Obligations.FloatLaneResults : Prop :=
  ∀ (i : Issue) (s : State) (x : Iss),
    let A := fun l => fA i.w (srcA i.w x.g l)
    let B := fun l => fB i.w (srcB i.w x.g l)
    let C := fun l => fC i.w (srcC i.w x.g l)
    (Goes .addf i s x → ∃ t, exec (.addf i) s = .next t ∧ WritesX i s x (fun l => w32f ((A l).add (B l))) t) ∧
    (Goes .mulf i s x → ∃ t, exec (.mulf i) s = .next t ∧ WritesX i s x (fun l => w32f ((A l).mul (B l))) t) ∧
    (Goes .fmaf i s x → ∃ t, exec (.fmaf i) s = .next t ∧ WritesX i s x (fun l => w32f (FVal.fma (A l) (B l) (C l))) t) ∧
    (Goes .minf i s x → ∃ t, exec (.minf i) s = .next t ∧ WritesX i s x (fun l => w32f ((A l).minf (B l))) t) ∧
    (Goes .maxf i s x → ∃ t, exec (.maxf i) s = .next t ∧ WritesX i s x (fun l => w32f ((A l).maxf (B l))) t)

/-- O6. The packed instructions work on each 16-bit half, FP16 or BF16 by FUNC; SPF writes a special function of A, whose value the
model leaves free within what the manual states (log entry 9). -/
def Obligations.PackedAndSpecialResults : Prop :=
  ∀ (i : Issue) (s : State) (x : Iss),
    let A := srcA i.w x.g
    let B := srcB i.w x.g
    let C := srcC i.w x.g
    (Goes .fmap i s x → ∃ t, exec (.fmap i) s = .next t ∧ WritesX i s x (fun l => packed i.w FVal.fma (A l) (B l) (C l)) t) ∧
    (Goes .addp i s x → ∃ t, exec (.addp i) s = .next t ∧
      WritesX i s x (fun l => packed i.w (fun a b _ => a.add b) (A l) (B l) (C l)) t) ∧
    (Goes .mulp i s x → ∃ t, exec (.mulp i) s = .next t ∧
      WritesX i s x (fun l => packed i.w (fun a b _ => a.mul b) (A l) (B l) (C l)) t) ∧
    (Goes .spf i s x → ∃ t, exec (.spf i) s = .next t ∧
      WritesX i s x (fun l => spfFn (encMod i.w 14 12) (fA i.w (A l)) (A l)) t)

/-- O7. The uniform forms write the u register DST once; comparisons of integers and floats and POLL write predicates, and POLL's mask
form an x register. Where a clause rests on a choice of the model: log entry 20. -/
def Obligations.UniformAndPredicateResults : Prop :=
  (∀ (i : Issue) (s : State) (x : Iss), isU i.w = true →
     let A := x.g.ur (rA i.w)
     let B := if isImm i.w then BitVec.ofNat 32 (encExt i.w 31 0) else x.g.ur (rB i.w)
     let func := encMod i.w 14 12
     (Goes .add i s x → ∃ t, exec (.add i) s = .next t ∧ WritesU i s x (A + B) t) ∧
     (Goes .sub i s x → ∃ t, exec (.sub i) s = .next t ∧ WritesU i s x (A - B) t) ∧
     (Goes .mul i s x → ∃ t, exec (.mul i) s = .next t ∧ WritesU i s x (A * B) t) ∧
     (Goes .bool i s x → ∃ t, exec (.bool i) s = .next t ∧ WritesU i s x
       (if func = 0 then A &&& B else if func = 1 then A ||| B else if func = 2 then A ^^^ B else A &&& ~~~ B) t) ∧
     (Goes .shift i s x → ∃ t, exec (.shift i) s = .next t ∧ WritesU i s x
       (let n := B.toNat % 32
        if func = 0 then A <<< n else if func = 1 then A >>> n else A.sshiftRight n) t) ∧
     (Goes .copy i s x → ∃ t, exec (.copy i) s = .next t ∧ WritesU i s x B t) ∧
     (Goes .bitop i s x → ∃ t, exec (.bitop i) s = .next t ∧ WritesU i s x
       (if func = 0 then BitVec.ofNat 32 (popBits 32 A.toNat) else if func = 1 then BitVec.ofNat 32 (leadZeros A.toNat)
        else BitVec.ofNat 32 (revBits A.toNat)) t)) ∧
  (∀ (i : Issue) (s : State) (x : Iss),
     let A := srcA i.w x.g
     let B := srcB i.w x.g
     let on := fun l => x.g.pr (encMod i.w 10 8) l != (encMod i.w 11 11 == 1)
     let func := encMod i.w 14 12
     (Goes .testi i s x → ∃ t, exec (.testi i) s = .next t ∧ WritesP i s x (fun l =>
       let a : Int := if encMod i.w 7 7 = 1 then (A l).toInt else (A l).toNat
       let b : Int := if encMod i.w 7 7 = 1 then (B l).toInt else (B l).toNat
       match encMod i.w 11 8 with
       | 0 => a == b | 1 => a != b | 2 => a < b | 3 => a ≤ b | 4 => a > b | 5 => a ≥ b | _ => false) t) ∧
     (Goes .testf i s x → ∃ t, exec (.testf i) s = .next t ∧
       WritesP i s x (fun l => cmpF (encMod i.w 11 8) (fA i.w (A l)) (fB i.w (B l))) t) ∧
     (Goes .poll i s x → func = 0 → ∃ t, exec (.poll i) s = .next t ∧
       WritesP i s x (fun _ => decide (∃ l, l ∈ takers i.w x.g ∧ on l = true)) t) ∧
     (Goes .poll i s x → func = 1 → ∃ t, exec (.poll i) s = .next t ∧
       WritesP i s x (fun _ => decide (∀ l, l ∈ takers i.w x.g → on l = true)) t) ∧
     (Goes .poll i s x → func = 2 → ∃ t, exec (.poll i) s = .next t ∧ ∃ v, WritesX i s x (fun _ => v) t ∧
       ∀ l, l < 32 → v.getLsbD l = (decide (l ∈ takers i.w x.g) && on l)))

/-- O8. ADDW adds pairs; NOP writes nothing; GETS reads the special register that SEL names, and with CLR set clears GSTATUS. Where a
clause rests on a choice of the model: log entry 15. -/
def Obligations.PairAndSpecialReads : Prop :=
  ∀ (i : Issue) (s : State) (x : Iss),
    let d := rDst i.w
    let T := takers i.w x.g
    let sel := encMod i.w 7 0
    (Goes .addw i s x → ∃ t h, exec (.addw i) s = .next t ∧ Ran i s t x h ∧
      (∀ l, l ∈ T → xPair h d l = xPair x.g (rA i.w) l + xPair x.g (rB i.w) l) ∧
      Wrote x.g h (fun r l => (r = d ∨ r = d + 1) ∧ l ∈ T) none1 none2) ∧
    (Goes .nop i s x → ∃ t h, exec (.nop i) s = .next t ∧ Ran i s t x h ∧ Wrote x.g h none2 none1 none2) ∧
    (Goes .gets i s x → encMod i.w 19 19 = 0 → encMod i.w 8 8 = 0 → sel ≠ 6 → sel ≠ 10 → ∃ t, exec (.gets i) s = .next t ∧
      WritesX i s x (fun l => BitVec.ofNat 32
        (if sel = 0 then l else if sel = 1 then x.g.gidx else if sel = 2 then x.tm.tx else if sel = 3 then x.tm.ty
         else if sel = 4 then x.tm.tz else if sel = 5 then i.core.val else if sel = 7 then x.g.gstat.toNat
         else if sel = 8 then x.g.act.toNat else if sel = 9 then x.g.live.toNat else if sel = 11 then x.tm.part else x.tm.tag)) t) ∧
    (Goes .gets i s x → encMod i.w 19 19 = 0 → sel = 6 → ∃ t h, exec (.gets i) s = .next t ∧ Ran i s t x h ∧
      (∀ l, l ∈ T → xPair h d l = s.aon.newel) ∧ Wrote x.g h (fun r l => (r = d ∨ r = d + 1) ∧ l ∈ T) none1 none2) ∧
    (Goes .gets i s x → encMod i.w 19 19 = 0 → sel = 10 → ∃ t h, exec (.gets i) s = .next t ∧ t.freeCtr = s.freeCtr + 1 ∧
      (t.core i.core).group i.grp = some h ∧ (∀ l, l ∈ T → xPair h d l = Config.freeW64 s.freeCtr) ∧
      Wrote x.g h (fun r l => (r = d ∨ r = d + 1) ∧ l ∈ T) none1 none2) ∧
    (Goes .gets i s x → encMod i.w 19 19 = 0 → sel = 7 → encMod i.w 8 8 = 1 → T ≠ [] → ∃ t h, exec (.gets i) s = .next t ∧
      (t.core i.core).group i.grp = some h ∧ h.gstat = 0 ∧ (d ≠ 255 → ∀ l, l ∈ T → h.xr d l = x.g.gstat)) ∧
    (Goes .gets i s x → encMod i.w 19 19 = 1 → encMod i.w 8 8 = 0 → sel ≠ 6 → sel ≠ 10 → T ≠ [] → ∃ t, exec (.gets i) s = .next t ∧
      WritesU i s x (BitVec.ofNat 32
        (if sel = 0 then T.headD 0 else if sel = 1 then x.g.gidx else if sel = 2 then x.tm.tx else if sel = 3 then x.tm.ty
         else if sel = 4 then x.tm.tz else if sel = 5 then i.core.val else if sel = 7 then x.g.gstat.toNat
         else if sel = 8 then x.g.act.toNat else if sel = 9 then x.g.live.toNat else if sel = 11 then x.tm.part else x.tm.tag)) t) ∧
    (Goes .gets i s x → encMod i.w 19 19 = 1 → sel = 6 → T ≠ [] → ∃ t h, exec (.gets i) s = .next t ∧ Ran i s t x h ∧
      uPair h d = s.aon.newel ∧ Wrote x.g h none2 (fun r => r = d ∨ r = d + 1) none2)

/-- O9. Local memory: LDLOC loads, STLOC stores with the bytes of the highest lane remaining, RMWL makes the lanes' atomic operations
on each address in lane order, all where each address is aligned and inside the team's allocation. Memory outside the team is not
touched. Where a clause rests on a choice of the model: log entry 96. -/
def Obligations.LocalMemoryAccesses : Prop :=
  ∀ (i : Issue) (s : State) (x : Iss),
    let T := takers i.w x.g
    let size := sizeBytes (encMod i.w 19 17)
    let n := if encMod i.w 15 15 = 1 then 8 else 4
    let at_ := fun l => locAddr x (encMod i.w 15 0) l
    let at0 := fun l => locAddr x 0 l
    let inside := fun (a : Nat → Nat) k => ∀ l, l ∈ T → a l + k ≤ x.tm.locSize ∧ a l % k = 0
    (Goes .ldloc i s x → inside at_ size → ∃ t h, exec (.ldloc i) s = .next t ∧ Ran i s t x h ∧
      (∀ l, l ∈ T → rDst i.w ≠ 255 → size < 4 → h.xr (rDst i.w) l =
        (let v := leNat (x.tm.locBytes (at_ l) size)
         if encMod i.w 16 16 = 1 then BitVec.ofInt 32 (sext (8 * size) v) else BitVec.ofNat 32 v)) ∧
      (∀ l, l ∈ T → 4 ≤ size → ∀ k, k < size / 4 → rDst i.w + k ≠ 255 →
        h.xr (rDst i.w + k) l = BitVec.ofNat 32 (leNat (x.tm.locBytes (at_ l + 4 * k) 4))) ∧
      Wrote x.g h (fun r l => rDst i.w ≤ r ∧ r < rDst i.w + sizeRegs size ∧ l ∈ T) none1 none2) ∧
    (Goes .stloc i s x → inside at_ size → ∃ t tm h, exec (.stloc i) s = .next t ∧ (x.g.stack.length ≤ 8 → Outside i s t none1) ∧
      (t.core i.core).group i.grp = some h ∧ Wrote x.g h none2 none1 none2 ∧ (t.core i.core).team x.g.team = some tm ∧
      tm = { x.tm with loc := tm.loc } ∧
      (∀ l, l ∈ T → (∀ m, m ∈ T → l < m → at_ m ≠ at_ l) → tm.locBytes (at_ l) size = x.g.runBytes (rB i.w) size l) ∧
      (∀ a, (∀ l, l ∈ T → a < at_ l ∨ at_ l + size ≤ a) → tm.locBytes a 1 = x.tm.locBytes a 1)) ∧
    (Goes .rmwl i s x → inside at0 n → ∃ t tm, exec (.rmwl i) s = .next t ∧ (t.core i.core).team x.g.team = some tm ∧
      tm = { x.tm with loc := tm.loc } ∧
      (x.g.stack.length ≤ 8 → Outside i s t (fun o => o = 0x100318 + 0x1000 * i.core.val)) ∧
      (∀ l, l ∈ T →
        let mine := T.filter (fun m => at0 m == at0 l)
        let ops := mine.map (fun m => (leNat (x.g.runBytes (rB i.w) n m), leNat (x.g.runBytes (rC i.w) n m)))
        let r := combine (aopOf (encMod i.w 19 16)) (8 * n) (s.freeCtr, at0 l) (leNat (x.tm.locBytes (at0 l) n)) ops
        leNat (tm.locBytes (at0 l) n) = r.2 % 2 ^ (8 * n) ∧
        (rDst i.w ≠ 255 → n = 4 → ∀ h, (t.core i.core).group i.grp = some h →
          ∀ e, e ∈ mine.zip r.1 → h.xr (rDst i.w) e.1 = BitVec.ofNat 32 e.2) ∧
        (rDst i.w ≠ 255 → n = 8 → ∀ h, (t.core i.core).group i.grp = some h →
          ∀ e, e ∈ mine.zip r.1 → xPair h (rDst i.w) e.1 = BitVec.ofNat 64 e.2)) ∧
      (∀ a, (∀ l, l ∈ T → a < at0 l ∨ at0 l + n ≤ a) → tm.locBytes a 1 = x.tm.locBytes a 1))

/-- O10. CVT converts one element of A in each lane that takes part into the place of DST that PD names; QNT quantises the 128
elements of a span. Stochastic rounding uses draws of the core's generator in a free order (log entry 95). -/
def Obligations.ConversionsAndQuantisation : Prop :=
  ∀ (i : Issue) (s : State) (x : Iss),
    let fs := encMod i.w 19 15
    let fd := encMod i.w 14 10
    let T := takers i.w x.g
    let pr := (x.g.ur (rB i.w)).toNat
    (Issues .cvt i s x → x.rangeBad (xNamed .cvt i.w) = false → fs ≤ 4 → fd ≤ 4 → s.fmtEnabled x.tm.part fs = true →
      s.fmtEnabled x.tm.part fd = true →
      ∃ t h d, exec (.cvt i) s = .next t ∧ (x.g.stack.length ≤ 8 → Outside i s t (isFmt i.core)) ∧ (t.core i.core).group i.grp = some h ∧
        (rDst i.w ≠ 255 → ∀ e, e ∈ cvtLanes i.w (s.rndOf i.core (encMod i.w 9 9 = 1)) d x.g 0 T →
          h.xr (rDst i.w) e.1 = BitVec.ofNat 32 (setBits (x.g.xr (rDst i.w) e.1).toNat
            (elemBits fd * encMod i.w 6 5 + elemBits fd - 1) (elemBits fd * encMod i.w 6 5) e.2.code)) ∧
        Wrote x.g h (fun r l => r = rDst i.w ∧ l ∈ T) none1 none2) ∧
    (Issues .qnt i s x → AllLanes x → x.rangeBad (xNamed .qnt i.w) = false → profBad pr = false → s.fmtEnabled x.tm.part fs = true →
      (s.profile x pr).policy ≠ 2 →
      let v := (List.range 128).map (fun k => (f32 (x.g.xr (rA i.w + k % 4) (k / 4))).mul (f32 (x.g.ur (rB i.w + 2))))
      let given := fun b => (x.g.xr (rDst i.w + 1) b).toNat % 256
      ∀ e, elemOf fs = some e →
        (isMx fs = true → ∃ t d h, exec (.qnt i) s = .next t ∧ (x.g.stack.length ≤ 8 → Outside i s t (isFmt i.core)) ∧
          (t.core i.core).group i.grp = some h ∧
          Wrote (qntWrite x.g fs (rDst i.w) (mxSpan fs e (s.profile x pr) d v given).1) h none2 none1 none2) ∧
        (isFacet fs = true → ∃ t d h, exec (.qnt i) s = .next t ∧ (x.g.stack.length ≤ 8 → Outside i s t (isFmt i.core)) ∧
          (t.core i.core).group i.grp = some h ∧
          Wrote (qntWrite x.g fs (rDst i.w) (facetSpan e (s.profile x pr) d v given (f32 (x.g.ur (rB i.w + 1))) []).1) h none2 none1 none2))

/-- O11. MMA writes the tile D := C + A × B of fragments whose formats are enabled and of one rate; the order in which the groups of
terms are added is a free value (R86, log entry 95). -/
def Obligations.MatrixMultiplyAccumulates : Prop :=
  ∀ (i : Issue) (s : State) (x : Iss), Issues .mma i s x → AllLanes x → x.rangeBad (xNamed .mma i.w) = false → s.mmaBad x = false →
    let half := encMod i.w 9 9
    let rowA := fun r => fragRow x.g (runsA i.w) half r
    let rowB := fun r => fragRow x.g (runsB i.w) half r
    ∃ t h, exec (.mma i) s = .next t ∧ (x.g.stack.length ≤ 8 → Outside i s t (isFmt i.core)) ∧ (t.core i.core).group i.grp = some h ∧
      (∀ l, l < 32 → ∀ j, j < 8 → h.xr (rDst i.w + j) l =
        mmaElem (encMod i.w 19 15) s.freeCtr (16 * (l / 2) + (8 * (l % 2) + j)) (rowA (l / 2)) (rowB (8 * (l % 2) + j))
          (if encMod i.w 8 8 = 1 then 0 else x.g.xr (rC i.w + j) l)) ∧
      Wrote x.g h (fun r _ => rDst i.w ≤ r ∧ r < rDst i.w + 8) none1 none2

/-- O12. LD and RMW make their accesses outstanding as one request of the group, and ST puts its bytes into the store queue or the
merging buffer; no register and no byte of memory changes yet. Where a clause rests on a choice of the model: log entries 24, 98, 100.
-/
def Obligations.AccessesBecomeOutstanding : Prop :=
  ∀ (i : Issue) (s : State) (x : Iss),
    let size := sizeBytes (encMod i.w 19 17)
    let n := if encMod i.w 15 15 = 1 then 8 else 4
    let T := takers i.w x.g
    -- a release of a scope has nothing to wait for, or has waited
    let free := fun scope => s.relWaits x scope = [] ∨ x.waited = true
    (Goes .ld i s x → s.lanesGood x (uaMem i.w) false size → ∃ t h r, exec (.ld i) s = .next t ∧
      (x.g.stack.length ≤ 8 → Outside i s t none1) ∧ OthersSame i s t ∧ (t.core i.core).group i.grp = some h ∧ Wrote x.g h none2 none1 none2 ∧
      (t.core i.core).reqs = (s.core i.core).reqs ++ [r] ∧ r.team = x.g.team ∧ r.gidx = x.g.gidx ∧
      r.kind = .ld size (encMod i.w 16 16 = 1) ∧ r.dst = rDst i.w ∧ r.cnt = sizeRegs size ∧ r.got = [] ∧
      r.acq = (encMod i.w 15 15 == 1) ∧ r.lanes = s.pieces (T.map (s.accessOf x (uaMem i.w) size))) ∧
    (Goes .rmw i s x → s.lanesGood x (uaRmw i.w) true n → (2 ≤ encMod i.w 14 13 → free (encMod i.w 12 11)) → ∃ t h r, exec (.rmw i) s = .next t ∧
      (x.g.stack.length ≤ 8 → Outside i s t none1) ∧ OthersSame i s t ∧ (t.core i.core).group i.grp = some h ∧ Wrote x.g h none2 none1 none2 ∧
      (t.core i.core).reqs = (s.core i.core).reqs ++ [r] ∧ r.team = x.g.team ∧ r.gidx = x.g.gidx ∧
      r.kind = .rmw (aopOf (encMod i.w 19 16)) (encMod i.w 15 15 = 1) (rDst i.w ≠ 255) ∧ r.dst = rDst i.w ∧ r.got = [] ∧
      r.lanes = T.map (fun l => { s.accessOf x (uaRmw i.w) n l with
        b := leNat (x.g.runBytes (rB i.w) n l), c := leNat (x.g.runBytes (rC i.w) n l) })) ∧
    (Goes .st i s x → s.lanesGood x (uaMem i.w) true size →
      let blocks := gather ((s.pieces (T.map (s.accessOf x (uaMem i.w) size))).map (fun a =>
        (a, ((x.g.runBytes (rB i.w) size a.lane).drop a.off).take a.n)))
      let wtm := blocks.filter (fun b => b.merges)
      let rest := blocks.filter (fun b => !b.merges)
      let k := s.core i.core
      (encMod i.w 15 15 = 1 → free (encMod i.w 14 13)) →
      k.sq.length + rest.length ≤ 128 → (wtm = [] ∨ k.mergeRoom x wtm = true) →
      ∃ t h, exec (.st i) s = .next t ∧
        (x.g.stack.length ≤ 8 → Outside i s t none1) ∧ OthersSame i s t ∧ (t.core i.core).group i.grp = some h ∧ Wrote x.g h none2 none1 none2 ∧
        (t.core i.core).reqs = (s.core i.core).reqs ∧
        (t.core i.core).sq = (k.enqueue x rest).sq ∧
        (t.core i.core).mb = (wtm.foldl (fun k b => k.merge x b) (k.enqueue x rest)).mb) ∧
    (Goes .st i s x → s.lanesGood x (uaMem i.w) true size → encMod i.w 15 15 = 1 → ¬ free (encMod i.w 14 13) →
      ∃ t, exec (.st i) s = .next t ∧ Outside i s t none1 ∧ OthersSame i s t ∧
        (t.core i.core).group i.grp = some { x.g with hold := .after (s.relWaits x (encMod i.w 14 13)) } ∧
        (t.core i.core).reqs = (s.core i.core).reqs ∧ (t.core i.core).sq = (s.core i.core).sq ∧
        (t.core i.core).mb = if 1 < encMod i.w 14 13 then ((s.core i.core).closeWrote x.g).mb else (s.core i.core).mb)

/-- O13. STQ puts the planes of a quantised span into the store queue or the merging buffer, and MLD makes the reads of a fragment
outstanding, where the descriptor is readable and right and every translation is at hand. Where a clause rests on a choice of the
model: log entries 16, 32. -/
def Obligations.QuantisedStoresAndFragmentLoads : Prop :=
  ∀ (i : Issue) (s : State) (x : Iss),
    let u := s.fetched x
    (Issues .stq i s x → AllLanes x → x.rangeBad (xNamed .stq i.w) = false → (s.core i.core).acquiring x.g = false →
      let da := uPair x.g (rB i.w)
      let row := (x.g.ur (rC i.w)).toNat
      let span := (x.g.ur (rC i.w + 1)).toNat
      ∀ u1 d u2 l, da.toNat % 8 = 0 → u.loadNow x da 64 = (u1, .bytes d) → u1.stqBad x row span d = false →
      u1.xlateStores x (stqStores x.g (rA i.w) row span d) = (u2, l, [], []) →
      let wtm := l.filter (fun b => b.merges)
      let rest := l.filter (fun b => !b.merges)
      (u2.core i.core).sq.length + rest.length ≤ 128 → (wtm = [] ∨ (u2.core i.core).mergeRoom x wtm = true) →
      ∃ t, exec (.stq i) s = .next t ∧
        (t.core i.core).sq = ((u2.core i.core).enqueue x rest).sq ∧
        (t.core i.core).mb = (wtm.foldl (fun k b => k.merge x b) ((u2.core i.core).enqueue x rest)).mb ∧
        (x.g.stack.length ≤ 8 → t.mem = u2.mem ∧ t.l2 = u2.l2)) ∧
    (Issues .mld i s x → AllLanes x → (s.core i.core).acquiring x.g = false →
      let da := uPair x.g (rA i.w)
      let rw0 := (x.g.ur (rB i.w)).toNat
      let k0 := (x.g.ur (rB i.w + 1)).toNat
      ∀ u1 d u2 tags0 u3 slots u4 q, da.toNat % 8 = 0 → u.loadNow x da 64 = (u1, .bytes d) → u1.mldBad x d rw0 k0 = false →
      mldRange x (dFmt d) = [] →
      (encMod i.w 19 12 ≠ 255 → (u1.core i.core).pendingWrite x.g [(encMod i.w 19 12, escLen (dFmt d))] = false) →
      let rows := (List.range 16).filter (fun r => rw0 + r < dRows d)
      u1.loadNums x (if isFacet (dFmt d) then rows.map (fun r => tagAt d (rw0 + r) k0) else []) = (u2, .nums tags0) →
      let tags := tags0.map (fun t => t % 2 ^ (depthOf (dFmt d) / 8))
      let esc := escBlocks (dFmt d) tags
      (esc = [] ∨ encMod i.w 19 12 ≠ 255) →
      u2.loadNums x (esc.map (fun e => (entryAt d (rw0 + e.1) k0 e.2.1 e.2.2, 4))) = (u3, .nums slots) →
      u3.xlateReads x (rows.flatMap (fun r => [2 * r, 2 * r + 1].flatMap (fun lane =>
        laneReads d (rw0 + r) k0 lane
          ((esc.zip slots).filterMap (fun e => if e.1.1 = r && e.1.2.1 = lane % 2 then some (e.1.2.2, e.2) else none))))) =
        (u4, ⟨q, [], []⟩) → (∀ a, a ∈ q → a.ty = .wtm → x.tm.priv = true) →
      ∃ t r, exec (.mld i) s = .next t ∧ (t.core i.core).reqs = (u4.core i.core).reqs ++ [r] ∧
        r.kind = .mld i.w d rw0 k0 tags ∧ r.dst = rDst i.w ∧ r.lanes = u4.pieces q ∧ r.got = [] ∧
        (x.g.stack.length ≤ 8 → t.mem = u4.mem ∧ t.l2 = u4.l2))

/-- O14. Branches move the paths of Table 03.3; with LINK, BR writes the address of the next instruction to a u pair. -/
def Obligations.BranchesMoveThePath : Prop :=
  ∀ (i : Issue) (s : State) (x : Iss),
    let T := takeMask i.w x.g
    let N := x.g.act &&& ~~~ T
    let pN := nextPc i.w x.g
    let pT := pcPlus x.g.pc (brTgt i.w)
    let r := pcPlus x.g.pc (brRcv i.w)
    (Goes .br i s x → ∃ t h, exec (.br i) s = .next t ∧ (x.g.stack.length ≤ 6 → OnlyGroup i s t) ∧
      (t.core i.core).group i.grp = some h ∧
      (encMod i.w 19 19 = 0 → h.u = x.g.u) ∧
      (encMod i.w 19 19 = 1 → uPair h (rDst i.w) = pN ∧ ∀ q, q ≠ rDst i.w → q ≠ rDst i.w + 1 → h.ur q = x.g.ur q) ∧
      h.x = x.g.x ∧ h.p = x.g.p ∧ h.live = x.g.live ∧ h.hold = x.g.hold ∧
      (x.g.stack = [] →
        (T = 0 → h.pc = pN ∧ h.act = x.g.act ∧ h.stack = [] ∧ h.bb = x.g.bb) ∧
        (T ≠ 0 → h.bb = if brTgt i.w ≤ 0 then (if x.g.act = x.g.live then 0 else x.g.bb + 1) else x.g.bb) ∧
        (T ≠ 0 → N = 0 → h.pc = pT ∧ h.act = x.g.act ∧ h.stack = []) ∧
        (T ≠ 0 → N ≠ 0 → pT ≠ r → pN ≠ r → pT ≠ pN → h.pc = pT ∧ h.act = T ∧ h.stack = [⟨false, pN, N⟩, ⟨true, r, x.g.act⟩]) ∧
        (T ≠ 0 → N ≠ 0 → pT = r → pN ≠ r → h.pc = pN ∧ h.act = N ∧ h.stack = [⟨true, r, x.g.act⟩]) ∧
        (T ≠ 0 → N ≠ 0 → pT ≠ r → pN = r → h.pc = pT ∧ h.act = T ∧ h.stack = [⟨true, r, x.g.act⟩]))) ∧
    (Goes .bri i s x → ∃ t h, exec (.bri i) s = .next t ∧ (t.core i.core).group i.grp = some h ∧
      h.x = x.g.x ∧ h.u = x.g.u ∧ h.p = x.g.p ∧ h.live = x.g.live ∧ h.hold = x.g.hold ∧
      (x.g.stack = [] →
        (∀ v, x.g.act ≠ 0 → (∀ l, l ∈ lanesOf x.g.act → briTarget x l = v) → h.pc = v ∧ h.act = x.g.act ∧ h.stack = []) ∧
        (∀ v w : W64, ∀ a b : W32, targetGroups ((lanesOf x.g.act).map (fun l => (l, briTarget x l))) = [(v, a), (w, b)] →
          v ≠ r → w ≠ r → v ≠ w → h.pc = v ∧ h.act = a ∧ h.stack = [⟨false, w, b⟩, ⟨true, r, x.g.act⟩])))

/-- O15. EXIT ends the lanes whose predicate is true: they leave the live mask, the active path and every entry of the stack; where
others of the active path remain they run on, else the path of a PENDING on top does. YIELD, due at 64 backward branches, sets the
count to zero, counts in CORE_YIELD_CNT and lets a PENDING on top run. -/
def Obligations.ExitAndYield : Prop :=
  (∀ (i : Issue) (s : State) (x : Iss), Goes .exit i s x →
    let T := takeMask i.w x.g
    (x.g.act &&& ~~~ T ≠ 0 → x.g.stack = [] → ∃ t h, exec (.exit i) s = .next t ∧ OnlyGroup i s t ∧ (t.core i.core).group i.grp = some h ∧
      h.live = x.g.live &&& ~~~ T ∧ h.act = x.g.act &&& ~~~ T ∧ h.pc = nextPc i.w x.g ∧ h.stack = [] ∧
      h.x = x.g.x ∧ h.u = x.g.u ∧ h.p = x.g.p ∧ h.hold = x.g.hold) ∧
    (∀ (pc : W64) (m : W32), x.g.act &&& ~~~ T = 0 → x.g.stack = [⟨false, pc, m⟩] →
      ∃ t h, exec (.exit i) s = .next t ∧ OnlyGroup i s t ∧ (t.core i.core).group i.grp = some h ∧
      h.live = x.g.live &&& ~~~ T ∧ h.act = m &&& (x.g.live &&& ~~~ T) ∧ h.pc = pc ∧ h.stack = [] ∧
      h.x = x.g.x ∧ h.u = x.g.u ∧ h.p = x.g.p)) ∧
  (∀ (c : Fin 256) (g : Fin 64) (s : State) (gr : Group), s.runs = true → (s.core c).group g = some gr → 64 ≤ gr.bb → gr.hold = .none →
    (gr.stack = [] → ∃ t, exec (.yield c g) s = .next t ∧ (t.core c).group g = some { gr with bb := 0 } ∧
      t.reg (0x100300 + 0x1000 * c.val) = (s.bump (Fld.CORE_YIELD_CNT_COUNT c) 1).reg (0x100300 + 0x1000 * c.val) ∧
      ∀ o, o ≠ 0x100300 + 0x1000 * c.val → t.reg o = s.reg o) ∧
    (∀ (pc : W64) (m : W32), gr.stack = [⟨false, pc, m⟩] → pc ≠ gr.pc → ∃ t, exec (.yield c g) s = .next t ∧
      (t.core c).group g = some { gr with bb := 0, pc := pc, act := m, stack := [⟨false, gr.pc, gr.act⟩] }))

/-- O16. FENCE and XWAIT go on at once where nothing is outstanding, else they hold the group; LWAIT writes the outcome of a Landing
entry that has ended and waits on an ARMED one. Where a clause rests on a choice of the model: log entry 14. -/
def Obligations.WaitsOfAGroup : Prop :=
  ∀ (i : Issue) (s : State) (x : Iss),
    let kind := encMod i.w 17 16
    let scope := encMod i.w 19 18
    let loads := ((s.core i.core).reqs.filter (fun r => r.team == x.g.team && r.gidx == x.g.gidx)).map (·.id)
    let stores := if kind = 1 then [] else s.releaseWaits i.core x.tm.tag x.g scope
    let n := encMod i.w 4 0
    let e := if encMod i.w 19 19 = 1 then (x.g.ur (rA i.w)).toNat % 256 else encMod i.w 7 0
    let N := s.fld (Fld.NWL_FLIGHT_N x.tm.part)
    (Goes .fence i s x → loads = [] → stores = [] → ∃ t h, exec (.fence i) s = .next t ∧ (t.core i.core).group i.grp = some h ∧
      Wrote x.g h none2 none1 none2 ∧ (x.g.stack = [] → h.pc = nextPc i.w x.g) ∧ (x.g.stack.length ≤ 8 → Outside i s t none1)) ∧
    (Goes .fence i s x → takers i.w x.g ≠ [] → ¬ (loads = [] ∧ stores = []) → ∃ t, exec (.fence i) s = .next t ∧
      (t.core i.core).group i.grp = some { x.g with hold := .fence loads stores } ∧ Outside i s t none1) ∧
    (Goes .xwait i s x → (s.core i.core).xferLeft x.g ≤ n → (n = 0 → (s.core i.core).xfersOf x.g = []) →
      ∃ t h, exec (.xwait i) s = .next t ∧ (t.core i.core).group i.grp = some h ∧ Wrote x.g h none2 none1 none2 ∧
        (x.g.stack = [] → h.pc = nextPc i.w x.g) ∧ (x.g.stack.length ≤ 8 → Outside i s t none1)) ∧
    (Goes .xwait i s x → takers i.w x.g ≠ [] → n < (s.core i.core).xferLeft x.g → ∃ t, exec (.xwait i) s = .next t ∧
      (t.core i.core).group i.grp = some { x.g with hold := .xwait n } ∧ Outside i s t none1) ∧
    (Goes .lwait i s x → takers i.w x.g ≠ [] → (N ≤ e ∨ (s.flight x.tm.part e).st ≠ .armed) → ∃ t, exec (.lwait i) s = .next t ∧
      WritesX i s x (fun _ => if N ≤ e then 3 else match (s.flight x.tm.part e).st with | .fired => 0 | .cancelled => 1 | _ => 2) t) ∧
    (Goes .lwait i s x → takers i.w x.g ≠ [] → e < N → (s.flight x.tm.part e).st = .armed → ∃ t, exec (.lwait i) s = .next t ∧
      (t.core i.core).group i.grp = some { x.g with hold := .lwait e (rDst i.w) (takeMask i.w x.g) } ∧ OnlyGroup i s t)

/-- O17. XFER hands one transfer to the core's engine and writes its sequence number to the low half of the u register DST; it waits
while 16 of the group's transfers are outstanding. Where a clause rests on a choice of the model: log entry 25. -/
def Obligations.TransfersAreHandedOver : Prop :=
  ∀ (i : Issue) (s : State) (x : Iss), Goes .xfer i s x → takers i.w x.g ≠ [] → shapeOk (x.g.ur (rC i.w + 1)) = true →
    ((s.core i.core).xferLeft x.g < 16 → (s.core i.core).acquiring x.g = false → ∃ t h f, exec (.xfer i) s = .next t ∧
      (t.core i.core).xfers = (s.core i.core).xfers ++ [f] ∧ f.team = x.g.team ∧ f.gidx = x.g.gidx ∧ f.seq = x.g.xseq ∧
      f.sl = (encMod i.w 19 19 == 1) ∧ f.dl = (encMod i.w 18 18 == 1) ∧ f.hint = encMod i.w 17 16 ∧
      f.src = uPair x.g (rA i.w) ∧ f.dst = uPair x.g (rB i.w) ∧ f.len = (x.g.ur (rC i.w)).toNat ∧ f.shape = x.g.ur (rC i.w + 1) ∧
      f.done = 0 ∧ f.pend = [] ∧ f.failed = false ∧
      (t.core i.core).group i.grp = some h ∧ h.xseq = (x.g.xseq + 1) % 2 ^ 16 ∧
      (x.g.xseq < 2 ^ 16 → (h.ur (rDst i.w)).toNat = (x.g.ur (rDst i.w)).toNat / 2 ^ 16 * 2 ^ 16 + x.g.xseq) ∧
      (∀ r, r ≠ rDst i.w → h.ur r = x.g.ur r) ∧ h.x = x.g.x ∧ h.p = x.g.p ∧ (x.g.stack.length ≤ 8 → Outside i s t none1)) ∧
    (16 ≤ (s.core i.core).xferLeft x.g → ∃ t, exec (.xfer i) s = .next t ∧ (t.core i.core).xfers = (s.core i.core).xfers ∧
      (t.core i.core).group i.grp = (s.core i.core).group i.grp)

/-- O18. A converged group that arrives at a barrier whose phase does not end with it: TBR_WAIT holds it there, TBR_PASS lets it go
on; the phase records its arrival. -/
def Obligations.BarrierArrivals : Prop :=
  ∀ (i : Issue) (s : State) (x : Iss),
    let n := encMod i.w 18 15
    let want := if encMod i.w 14 14 = 1 then none else some (encMod i.w 13 8)
    let b := x.tm.bar n
    let live := ((s.core i.core).liveGroups x.g.team).length
    let need := match want with | some k => k | none => live
    let arrivals := if b.arrivals.contains x.g.gidx then b.arrivals else b.arrivals ++ [x.g.gidx]
    let tm : Team := { x.tm.setBar n ⟨true, want, arrivals⟩ with arrs := x.g.gidx :: x.tm.arrs.filter (· != x.g.gidx) }
    Goes .tbr i s x → SMap.wf noGroup (s.core i.core).groups = true → x.g.converged = true → takers i.w x.g ≠ [] → (b.active = true → b.expect = want) →
    ((s.core i.core).reqIds x.g = [] ∨ x.waited = true) → arrivals.length < need →
    (∀ j, j < 16 → j ≠ n → (x.tm.bar j).done live = false) →
    (encMod i.w 19 19 = 0 → (∃ e, e ∈ (s.core i.core).liveGroups x.g.team ∧ e.1 ≠ i.grp.val ∧ ∀ m, e.2.hold ≠ .tbr m) →
      ∃ t, exec (.tbrWait i) s = .next t ∧ (t.core i.core).group i.grp = some { x.g with hold := .tbr n } ∧
        (t.core i.core).team x.g.team = some tm) ∧
    (encMod i.w 19 19 = 1 → ∃ t h, exec (.tbrPass i) s = .next t ∧ (t.core i.core).group i.grp = some h ∧
      Wrote x.g h none2 none1 none2 ∧ (x.g.stack = [] → h.pc = nextPc i.w x.g) ∧ (t.core i.core).team x.g.team = some tm)

/-- O19. A load, fragment load or atomic whose accesses have all been made writes its registers in its group and leaves; a buffered
store that its target performs leaves; a transfer that has moved all its bytes leaves its engine. Where nothing ends that has waited,
nothing else follows. Where a clause rests on a choice of the model: log entries 77, 78, 79. -/
def Obligations.AnswersOfMemory : Prop :=
  ∀ (c : Fin 256) (k : Nat) (s : State), s.runs = true →
    (∀ r u got, (s.core c).reqs.find? (fun q => q.id == k) = some r → (s.core c).pendingAny r.after = false →
      (s.core c).olderReq r = false →
      (match r.kind with | .rmw op w64 _ => s.rmwStep c (s.teamPart c r.team) r op w64 | _ => s.loadStep c (s.teamPart c r.team) r) = (u, got) →
      (∀ n, n < r.lanes.length → gotAt got n ≠ none) → (∀ e, e ∈ got → e.2 ≠ none) →
      let full : MemReq := { r with got := got }
      let t := (u.modCore c (fun q => { q with reqs := q.reqs.filter (fun y => y.id != r.id) })).modGroup c r.team r.gidx full.deliver
      Quiet t → (t.core c).liveGroups r.team ≠ [] →
      exec (.loadResponse c k false) s = .next t ∧ (∀ q, q ∈ (t.core c).reqs → q.id ≠ r.id) ∧
        (∀ n g, (u.core c).group n = some g →
          (t.core c).group n = some (if g.team = r.team ∧ g.gidx = r.gidx then full.deliver g else g))) ∧
    (∀ r u got, (s.core c).reqs.find? (fun q => q.id == k) = some r → (s.core c).pendingAny r.after = false →
      (s.core c).olderReq r = false →
      (match r.kind with | .rmw op w64 _ => s.rmwStep c (s.teamPart c r.team) r op w64 | _ => s.loadStep c (s.teamPart c r.team) r) = (u, got) →
      (∃ n, n < r.lanes.length ∧ gotAt got n = none) →
      exec (.loadResponse c k false) s = .next (u.modCore c (fun q =>
        { q with reqs := q.reqs.map (fun y => if y.id = r.id then { y with got := got } else y) }))) ∧
    (∀ e u, (s.core c).sq.find? (fun e => e.id == k) = some e → e.sent = false →
      (s.core c).storeHeld k e.tgt e.after [(e.team, e.gidx)] = false →
      s.storeTo e.part e.tgt e.ty.pol e.bytes (some c.val) (.store c k) = (u, some .done) →
      (u.core c).sq.find? (fun e => e.id == k) ≠ none →
      let t := (u.modCore c (fun q => { q with sq := q.sq.filter (fun y => y.id != k) })).noteWrite e.q e.seq
      Quiet t → exec (.storeAcknowledgement c k false) s = .next t ∧ ∀ y, y ∈ (t.core c).sq → y.id ≠ k) ∧
    (∀ e u, (s.core c).sq.find? (fun e => e.id == k) = none → (s.core c).mb.find? (fun e => e.id == k) = some e →
      e.closed = true → e.sent = false → (s.core c).storeHeld k e.tgt [] (e.grps.map MergeBy.grp) = false →
      s.storeTo e.part e.tgt MType.wtm.pol e.list (some c.val) (.merge c k) = (u, some .done) →
      (u.core c).sq.find? (fun e => e.id == k) = none → (u.core c).mb.find? (fun e => e.id == k) ≠ none →
      let t := e.cmds.foldl (fun (t : State) m => t.noteWrite m.1 m.2) (u.modCore c (fun q => { q with mb := q.mb.filter (fun y => y.id != k) }))
      Quiet t → exec (.storeAcknowledgement c k false) s = .next t ∧ ∀ y, y ∈ (t.core c).mb → y.id ≠ k) ∧
    (∀ x y u, (s.core c).xfReady = [x] → s.xf (.core c x.id) = some x → s.xfRun (.core c x.id) (x.total + 1) = u →
      u.xf (.core c x.id) = some y → y.total ≤ y.done → y.pend = [] → y.failed = false →
      let t := u.modCore c (fun q => { q with xfers := q.xfers.filter (fun z => z.id != x.id) })
      Quiet t → (t.core c).liveGroups y.team ≠ [] →
      exec (.transferComplete (.core c) false) s = .next t ∧ t.xf (.core c x.id) = none) ∧
    (∀ (n : Fin 32) x y u, s.chan n = some x → s.xfRun (.chan n) (x.total + 1) = u → u.chan n = some y → y.total ≤ y.done →
      y.pend = [] → y.failed = false →
      exec (.transferComplete (.channel n) false) s = .next (((u.setChan n none).endCmd y.team y.seq 0 0).sweepCmds)) ∧
    (∀ r, (s.core c).reqs.find? (fun q => q.id == k) = some r → (s.core c).pendingAny r.after = false →
      (s.core c).olderReq r = false → exec (.loadResponse c k true) s = .next (s.failReq c k)) ∧
    (∀ e, (s.core c).sq.find? (fun e => e.id == k) = some e → e.sent = false →
      (s.core c).storeHeld k e.tgt e.after [(e.team, e.gidx)] = false →
      exec (.storeAcknowledgement c k true) s = .next (s.ackStore c k .bad)) ∧
    (∀ x, (s.core c).xfReady = [x] → s.xf (.core c x.id) = some x →
      exec (.transferComplete (.core c) true) s = .next ((s.xfFail (.core c x.id) x.dst.toNat).xferOver c x.id))

/-- O20. Placement: the next team of a command enters a free team slot of a core that can supply all it needs; its groups start at the
entry with every thread live and every register zero but the launch values, and it keeps its coordinates in the grid. Where a clause
rests on a choice of the model: log entry 33. -/
def Obligations.TeamsArePlaced : Prop :=
  ∀ (c : Fin 256) (slot : Fin 16) (q : Fin 4096) (seq : W32) (s : State) (m : Cmd),
    s.inService = true → Quiet s → s.cmd q seq.toNat = some m → s.placeable q m c slot = true → s.placeNext q m c slot = true →
    ∃ t tm d, exec (.teamPlacement c slot q seq) s = .next t ∧ (t.core c).team slot = some tm ∧
      tm.st = .running ∧ tm.tag = (s.sq q).tag ∧ tm.part = (s.sq q).part ∧ tm.cls = (s.sq q).cls ∧ tm.q = q.val ∧ tm.seq = m.seq ∧
      tm.g = kG m.blk ∧ tm.tx = m.placed % kX m.blk ∧ tm.ty = m.placed / kX m.blk % kY m.blk ∧
      tm.tz = m.placed / (kX m.blk * kY m.blk) ∧ tm.loc = [] ∧ tm.bars = [] ∧
      tm.units.length = kG m.blk * ceilDiv (kR m.blk) 8 ∧ (∀ u, u ∈ tm.units → u < 256 ∧ u ∉ (s.core c).regUnits) ∧
      tm.lunits.length = ceilDiv (kL m.blk) 1024 ∧ (∀ u, u ∈ tm.lunits → u < 256 ∧ u ∉ (s.core c).locUnits) ∧
      (∀ n, n < kG m.blk → ∃ p g, (s.core c).group p = none ∧ (t.core c).group p = some g ∧ g.team = slot.val ∧ g.gidx = n ∧
        g.live = allLanes ∧ g.act = allLanes ∧ g.pc = BitVec.ofNat 64 (kEntry m.blk) ∧ g.stack = [] ∧ g.hold = .none ∧
        (∀ r l, g.xr r l = 0) ∧ (∀ r, g.ur r = m.args.getD r 0) ∧ g.p = []) ∧
      (∀ p g, (s.core c).group p = some g → (t.core c).group p = some g) ∧
      (∀ e, e ≠ c.val → t.core e = s.core e) ∧ t.mem = s.mem ∧
      t.cmd q seq.toNat = some d ∧ d.placed = m.placed + 1

/-- O21. A recorded core fault is in the four registers of its core and its team is gone; the record waits for no other stores. -/
def Obligations.CoreFaultsAreRecorded : Prop :=
  ∀ (c : Fin 256) (s : State) (f : FaultRec) (tm : Team),
    s.runs = true → (s.core c).fault = some f → (s.core c).team f.team = some tm → (s.core c).spent f.team tm = true →
    f.team < 16 → f.ctx < 4 → f.grp < 64 → f.code < 256 → f.tag < 2 ^ 16 →
    Quiet ((s.recordFault c f).freeTeamAt c f.team) →
    ∃ t, exec (.coreFaultRecord c) s = .next t ∧
      t.fld (Fld.CORE_FAULT_INFO_VALID c) = 1 ∧ t.fld (Fld.CORE_FAULT_INFO_TEAM c) = f.team ∧
      t.fld (Fld.CORE_FAULT_INFO_CONTEXT c) = f.ctx ∧ t.fld (Fld.CORE_FAULT_INFO_GROUP c) = f.grp ∧
      t.fld (Fld.CORE_FAULT_INFO_CODE c) = f.code ∧ t.fld (Fld.CORE_FAULT_PC_TAG c) = f.tag ∧
      t.fld (Fld.CORE_FAULT_PC_PC c) = f.pc.toNat % 2 ^ 48 ∧ t.fld (Fld.CORE_FAULT_MASK_MASK c) = f.mask.toNat ∧
      t.fld (Fld.CORE_FAULT_ADDR_ADDR c) = f.addr.toNat ∧
      (t.core c).fault = none ∧ (t.core c).team f.team = none ∧
      (∀ p g, (t.core c).group p = some g → g.team ≠ f.team) ∧ (∀ r, r ∈ (t.core c).reqs → r.team ≠ f.team) ∧
      (∀ e, e ≠ c.val → t.core e = s.core e) ∧ t.mem = s.mem ∧ t.l2 = s.l2

/-- O22. Preemption and resume: PREEMPT starts the save of the teams it names where all can be preempted, PREEMPT_COMPLETE ends it,
RESUME starts the restore of preempted teams, RESUME_RESTORE puts the saved groups into free slots, and DISCARD frees. Where a clause
rests on a choice of the model: log entries 17, 18, 33. -/
def Obligations.TeamsAreSavedAndRestored : Prop :=
  ∀ (a : Agent) (c : Fin 256) (teams : BitVec 16) (s : State),
    let bit := fun (n : Nat) => n < 16 && teams.getLsbD n
    let goP := 2 ^ 31 + teams.toNat
    let goD := 2 ^ 31 + 2 ^ 30 + teams.toNat
    (∀ r, WriteOk a s r (Reg.CORE_PREEMPT c) goP → s.fldB (Fld.CORE_PREEMPT_GO c) = false → (s.frame c).isSome = true →
      (s.core c).holding = false → (∀ n tm, bit n = true → (s.core c).team n = some tm → tm.preemptable = true) →
      (∃ n tm, bit n = true ∧ (s.core c).team n = some tm) →
      ∃ t, exec (.preempt a c teams) s = .next t ∧
        (∀ n, (t.core c).team n = if bit n then ((s.core c).team n).map (fun tm => { tm with st := .saving }) else (s.core c).team n) ∧
        (t.core c).groups = (s.core c).groups ∧ t.fld (Fld.CORE_PREEMPT_GO c) = 1 ∧ t.mem = s.mem ∧ ∀ e, e ≠ c.val → t.core e = s.core e) ∧
    (s.runs = true → SMap.wf noGroup (s.core c).groups = true → s.fldB (Fld.CORE_PREEMPT_GO c) = true → ∀ n tm, (s.core c).teamList = [(n, tm)] → tm.st = .saving →
      (∀ p g, (s.core c).group p = some g → g.team = n) →
      ∃ t tm2, exec (.preemptComplete c) s = .next t ∧ t.fldB (Fld.CORE_PREEMPT_GO c) = false ∧ (t.core c).team n = some tm2 ∧
        tm2 = { tm with
          st := .preempted, saved := ((s.core c).groupsOf n).map (fun g => g.2.forSave), gslots := ((s.core c).groupsOf n).map (·.1) } ∧
        (∀ p, (t.core c).group p = none) ∧
        t.fld (Fld.CORE_PREEMPT_CNT_COUNT c) = (s.fld (Fld.CORE_PREEMPT_CNT_COUNT c) + 1) % 2 ^ 48) ∧
    (∀ r, WriteOk a s r (Reg.CORE_RESUME c) goP → s.fldB (Fld.CORE_RESUME_GO c) = false →
      (∃ n tm, bit n = true ∧ (s.core c).team n = some tm ∧ tm.st = .preempted) →
      ∃ t, exec (.resume a c teams) s = .next t ∧
        (∀ n tm, (s.core c).team n = some tm → (t.core c).team n =
          some (if bit n = true ∧ tm.st = .preempted then { tm with st := .restoring } else tm)) ∧
        (t.core c).groups = (s.core c).groups ∧ t.fld (Fld.CORE_RESUME_GO c) = 1 ∧ t.mem = s.mem) ∧
    (∀ r n tm, WriteOk a s r (Reg.CORE_RESUME c) goD → s.fldB (Fld.CORE_RESUME_GO c) = false → bit n = true →
      (∀ j, bit j = true → j = n) → (s.core c).team n = some tm → tm.st = .preempted →
      let t := (((s.written a r (Reg.CORE_RESUME c) goD).endCmd tm.q tm.seq 6 0).dropTeam c n).setFldB (Fld.CORE_RESUME_GO c) false
      Quiet t → exec (.discard a c teams) s = .next t ∧ t.fldB (Fld.CORE_RESUME_GO c) = false ∧
        (t.core c).team n =
          if (s.core c).writing n || (s.core c).reqs.any (fun r => r.team == n && r.isAtomic) then
            some { tm with st := .stopping, units := [], lunits := [], saved := [], gslots := [] }
          else none) ∧
    (∀ (slot : Fin 16) tm, s.runs = true → (s.core c).team slot = some tm → tm.st = .restoring → tm.err = false →
      (s.core c).answered slot = true → s.walksOver c slot = true →
      (s.core c).fits tm.saved.length 1 0 = true → (s.core c).fits 1 (8 * tm.g * ceilDiv tm.r 8) tm.l = true →
      s.framePoison c slot tm = none →
      ∀ v tr, s.fromFrame c tm = (v, tr) → (∀ g, g ∈ tr.saved → g.stack.length ≤ 8) →
      let t' : Team := { tr with
        st := .running, saved := [], gslots := [], units := (s.core c).freeRegs.take (tm.g * ceilDiv tm.r 8),
        lunits := (s.core c).freeLocs.take (ceilDiv tm.l 1024) }
      let u := v.setCore c (((tr.saved.zip (s.core c).freeGroups).foldl (fun k e => k.setGroup e.2 (some e.1)) ((s.core c).setTeam slot (some t'))).takeAreas
        ((tr.saved.zip (s.core c).freeGroups).map (·.2)))
      Quiet u → (u.core c).liveGroups slot ≠ [] → (∀ j, j < 16 → (tm.bar j).done ((u.core c).liveGroups slot).length = false) →
      ∃ t, exec (.resumeRestore c slot) s = .next t ∧ t.core c = u.core c ∧ (t.core c).team slot = some t' ∧
        (∀ p, p ∈ tr.saved.zip (s.core c).freeGroups → (t.core c).group p.2 = some p.1) ∧ t.mem = s.mem)

/-- O23. CNT_CLR sets the five format counters of a core to zero, FMT_SR_SEED seeds its generator, MERGE_ENTRY_TIMEOUT closes an entry
of the merging buffer, and PEER_TIMEOUT drops a store to a dead peer, logs it and notes it in GSTATUS. -/
def Obligations.CountersSeedsAndTimeouts : Prop :=
  ∀ (a : Agent) (c : Fin 256) (s : State),
    (∀ r, WriteOk a s r (Reg.FMT_GUARD_CTL c) (s.reg (Reg.FMT_GUARD_CTL c) &&& 0x31F3 ||| 8) →
      ∃ t, exec (.cntClr a c) s = .next t ∧ t.fld (Fld.FMT_BLOCK_CNT_COUNT c) = 0 ∧ t.fld (Fld.FMT_CLIP_CNT_COUNT c) = 0 ∧
        t.fld (Fld.FMT_FLAG_CNT_COUNT c) = 0 ∧ t.fld (Fld.FMT_ESC_CNT_COUNT c) = 0 ∧ t.fld (Fld.FMT_ESC_REFUSED_CNT_COUNT c) = 0 ∧
        t.fld (Fld.FMT_GUARD_CTL_CNT_CLR c) = 0 ∧ t.cores = s.cores ∧ t.mem = s.mem ∧
        ∀ o, ¬ (0x100C00 + 0x1000 * c.val ≤ o ∧ o < 0x100C40 + 0x1000 * c.val) → t.reg o = s.reg o) ∧
    (∀ r (seed : W64), WriteOk a s r (Reg.FMT_SR_SEED c) seed.toNat →
      ∃ t, exec (.fmtSrSeed a c seed) s = .next t ∧ (t.core c) = { s.core c with sr := if seed = 0 then 0x9E3779B97F4A7C15 else seed } ∧
        (∀ e, e ≠ c.val → t.core e = s.core e) ∧ t.mem = s.mem ∧ ∀ o, o ≠ Reg.FMT_SR_SEED c → t.reg o = s.reg o) ∧
    (∀ k, s.runs = true → ∃ t, exec (.mergeEntryTimeout c k) s = .next t ∧
      (t.core c).mb = (s.core c).mb.map (fun e => if e.id = k then { e with closed := true } else e) ∧
      t = { s with cores := t.cores } ∧ ∀ e, e ≠ c.val → t.core e = s.core e) ∧
    (∀ k e, s.runs = true → s.peerWaited c k = true → (s.core c).sq.find? (fun e => e.id == k) = some e →
      let chip := (s.peerOf e.tgt).getD 0
      let t := ((s.modCore c (fun q => { q with sq := q.sq.filter (fun y => y.id != k) })).unitErr 0x14 1 0 c (tgtAddr e.tgt) chip
        (s.corePart c)).modGroup c e.team e.gidx (fun g => g.peerDrop chip)
      Quiet t → exec (.peerTimeout c k) s = .next t)

/-- O24. Errors of the arrays: an instruction line with a parity error is invalidated, and so is an L1 line, whose way is disabled at
its fourth error in a window; a multi-bit error of dirty L2 data, of the Gallery, or of HBM poisons the sector; an error of the
memory-side cache in what a line holds drops a clean line, loses a sector of a dirty line as poison in HBM, and is Fatal in a tag of a dirty line. Scrubbing
and refresh change nothing by themselves. The bank that is logged is a free value (log entry 10). -/
def Obligations.ErrorsOfTheArrays : Prop :=
  (∀ (s : State), s.runs = true →
     (∀ (c : Fin 256) (set : Fin 128) (way : Fin 4), let l := SMap.get l1Default (s.core c).ic (set * 8 + way)
       (l.valid = true → exec (.icacheParityError c set way) s = .next
         ((s.modCore c (fun k => { k with ic := SMap.set l1Default k.ic (set * 8 + way) L1Line.empty })).parityErr
           ⟨1, 0, 0, c, l.line * 128, way, s.corePart c⟩)) ∧
       (l.valid = false → exec (.icacheParityError c set way) s = .next s)) ∧
     (∀ (c : Fin 256) (set : Fin 128) (way : Fin 8) (cycle : Nat), let l := SMap.get l1Default (s.core c).l1 (set * 8 + way)
       let n := SMap.get noCount (s.core c).l1cnt way
       let new_ := n.1 = 0 ∨ n.2 + 2 ^ 24 ≤ cycle
       (l.valid = true → new_ → exec (.l1ParityError c set way cycle) s = .next
         ((s.modCore c (fun k => { k with l1 := SMap.set l1Default k.l1 (set * 8 + way) L1Line.empty, l1cnt := SMap.set noCount k.l1cnt way (1, cycle) })).parityErr
           ⟨2, 0, 0, c, l.line * 128, way, s.corePart c⟩)) ∧
       (l.valid = true → ¬ new_ → n.1 ≠ 3 → exec (.l1ParityError c set way cycle) s = .next
         ((s.modCore c (fun k => { k with l1 := SMap.set l1Default k.l1 (set * 8 + way) L1Line.empty, l1cnt := SMap.set noCount k.l1cnt way (n.1 + 1, n.2) })).parityErr
           ⟨2, 0, 0, c, l.line * 128, way, s.corePart c⟩)) ∧
       (l.valid = true → ¬ new_ → n.1 = 3 → ∃ u : State, exec (.l1ParityError c set way cycle) s =
           .next (u.parityErr ⟨2, 0, 0, c, l.line * 128, way + 0x8000, s.corePart c⟩) ∧
         way.val ∉ u.l1Ways c ∧ (∀ e, e ∈ (u.core c).l1 → e.1 % 8 ≠ way.val) ∧ u.mem = s.mem)) ∧
     (∀ (slice : Fin 64) (set : Fin 1024) (way : Fin 16) (sec : Fin 2), let k := l2Key slice set way
       let l := s.l2At k
       let pa := l.line * 128 + 64 * sec
       let x := l.sec pa
       (l.valid = true → x.st ≠ .i → (s.escalate ⟨3, 0, 1, slice, l.line * 128, way, s.linePart pa⟩).1 = 0 →
         exec (.l2Error slice set way sec .dataSingle) s = .next (s.parityErr ⟨3, 0, 1, slice, l.line * 128, way, s.linePart pa⟩)) ∧
       (l.valid = true → x.st = .m → exec (.l2Error slice set way sec .dataMulti) s = .next
         ((s.setL2 k (l.setSec pa { x with poison := true })).raiseErr ⟨0x10, 1, 1, slice, pa, way, s.linePart pa⟩)) ∧
       (l.valid = true → x.st ≠ .i → x.st ≠ .m → exec (.l2Error slice set way sec .dataMulti) s = .next
         ((s.refetch pa).parityErr ⟨3, 0, 1, slice, l.line * 128, way, s.linePart pa⟩)) ∧
       (l.valid = true → l.dirty = true → exec (.l2Error slice set way sec .tagParity) s =
         .next (s.raiseErr ⟨0x30, 3, 1, slice, 0, way, none⟩)) ∧
       (l.valid = true → l.dirty = false → exec (.l2Error slice set way sec .tagParity) s =
         .next ((s.refetchLine l).parityErr ⟨3, 0, 1, slice, l.line * 128, way, s.linePart pa⟩))) ∧
     (∀ (bank : Fin 256) (w : BitVec 23), w.toNat < s.tier0W → let a := galleryLin + bank * 0x800000 + w.toNat / 64 * 64
       exec (.galleryError bank w true) s = .next
         (({ s with gpoison := SMap.set noPoison s.gpoison (a / 64) true } : State).raiseErr ⟨0x11, 1, 2, bank, s.paOf a, 0, s.partOfAddr a⟩) ∧
       ((s.escalate ⟨4, 0, 2, bank, s.paOf a, 0, s.partOfAddr a⟩).1 = 0 →
         exec (.galleryError bank w false) s = .next (s.raiseErr ⟨4, 0, 2, bank, s.paOf a, 0, s.partOfAddr a⟩))) ∧
     (∀ (addr : BitVec 46), let a := addr.toNat / 64 * 64
       let st := s.stackOf a
       (a < s.hbmCap → isHbm a = true → s.poisonUsed st < 1024 → ∃ u : State, exec (.hbmError addr true) s =
           .next (u.raiseErr ⟨0x13, 1, 3, st, u.paOf a, u.poisonUsed st, u.partOfAddr a⟩) ∧ u.arrPoison a = true ∧
           u = { s with hpoison := SMap.set noPoison s.hpoison (a / 64) true, regs := u.regs }) ∧
       (a < s.hbmCap → (s.escalate ⟨6, 0, 3, st, s.paOf a, 0, s.partOfAddr a⟩).1 = 0 →
         exec (.hbmError addr false) s = .next (s.raiseErr ⟨6, 0, 3, st, s.paOf a, 0, s.partOfAddr a⟩)))) ∧
  (∀ (s : State), s.runs = true →
     (∀ (addr : BitVec 46) (kind : MscErr), let a := addr.toNat / 64 * 64
       let v : State := { s with freeCtr := s.freeCtr + 1 }
       let bank := (Config.freeByte s.freeCtr).toNat
       (∀ k, s.mscFind a = some k →
         let l := s.mscAt k
         (kind = .data → l.sec a = none → exec (.mscError addr kind) s = .next s) ∧
         (l.dirty = false → kind = .tag ∨ l.sec a ≠ none → exec (.mscError addr kind) s = .next ((v.setMscLine k MscLine.empty).parityErr
           ⟨5, 0, 2, bank, s.paOf (l.line * 128), 0, s.partOfAddr (l.line * 128)⟩)) ∧
         (l.dirty = true → exec (.mscError addr .tag) s = .next (v.raiseErr ⟨0x31, 3, 2, bank, 0, 0, none⟩)) ∧
         (∀ x, l.dirty = true → l.sec a = some x → exec (.mscError addr .data) s =
           .next (((v.writeArr a x.data true).setMscLine k (l.setSec a none)).raiseErr
             ⟨0x12, 1, 2, bank, ((v.writeArr a x.data true).setMscLine k (l.setSec a none)).paOf a, 0,
               ((v.writeArr a x.data true).setMscLine k (l.setSec a none)).partOfAddr a⟩))) ∧
       (s.mscFind a = none → exec (.mscError addr kind) s = .next s)) ∧
     (∀ addr, exec (.patrolScrub addr) s = .next s) ∧
     (∀ stack, exec (.hbmRefresh stack) s = .next s))

/-- O25. An error is logged at the next index of the error log with its class after escalation, counted by class, and signalled where
ERR_CTL enables it. Here: a Corrected error with no open entry of its unit, HEAD as the place of the next entry, and no trace. -/
def Obligations.CorrectedErrorsAreLogged : Prop :=
  ∀ (s : State) (e : ErrIn), e.cls = 0 → s.sameUnitOpen e.ukind e.unit = false → s.fldB Fld.ERR_TRACE_CTL_EN = false →
    s.fldB Fld.ERR_CTL_ALERT_EN = false →
    s.logFree →
    ∃ y, SMap.get noErr (s.raiseErr e).errs (s.errSeq.toNat % 512) = some y ∧ y.code = e.code ∧ y.cls = 0 ∧ y.esc = false ∧ y.opn = false ∧
      y.pinned = false ∧ y.nested = !s.openErrs.isEmpty ∧ y.part = e.part ∧ y.ukind = e.ukind ∧ y.unit = e.unit ∧ y.addr = e.addr ∧
      y.info = e.info ∧ y.newel = s.aon.newel ∧ y.seq = s.errSeq.toNat ∧ (s.raiseErr e).errSeq = s.errSeq + 1 ∧
      (s.raiseErr e).fld Fld.ERR_CORR_CNT_COUNT = (s.fld Fld.ERR_CORR_CNT_COUNT + 1) % 2 ^ 48 ∧
      (s.fldB Fld.ERR_CTL_EN_CORR = true →
        ((s.raiseErr e).reg (Reg.EP_INT_PEND (s.fld Fld.ERR_CTL_VEC / 32))).testBit (s.fld Fld.ERR_CTL_VEC % 32) = true) ∧
      (s.raiseErr e).cores = s.cores ∧ (s.raiseErr e).mem = s.mem ∧ (s.raiseErr e).aon = s.aon ∧ (s.raiseErr e).sqs = s.sqs

/-- O26. The five range operations: an accepted one sets GO and clears its count, a rejected one ends at once with result 1, an
invalidate on channel 6 or 7 with result 2; MAINTENANCE_DONE ends the operation, and a clean leaves no dirty sector in range. -/
def Obligations.RangeMaintenance : Prop :=
  ∀ (a : Agent) (ch : Fin 8) (part : Fin 16) (s : State),
    let o := Reg.L2C_MNT_CMD ch
    let go := Fld.L2C_MNT_CMD_GO ch
    let begun := fun (t : State) => JustRegs { s with mntPos := t.mntPos } t ∧ t.mntDone ch = 0
    let starts := fun (i : Instr) (op : Nat) => ∀ r, WriteOk a s r o (2 ^ 31 + part.val * 2 ^ 16 + op) →
      (s.rangeOk ch part = true → (op ≠ 1 ∨ ch.val < 6) → ∃ t, exec i s = .next t ∧ begun t ∧ t.fld go = 1 ∧ t.mntOp ch = op ∧
        t.mntPart ch = part.val ∧ t.reg (Reg.L2C_MNT_COUNT ch) = 0 ∧ t.mntAddr ch = s.mntAddr ch ∧ t.mntLen ch = s.mntLen ch) ∧
      (s.rangeOk ch part = false → (op ≠ 1 ∨ ch.val < 6) → ∃ t, exec i s = .next t ∧ begun t ∧
        Ended t go (Fld.L2C_MNT_STATUS_DONE ch) (Fld.L2C_MNT_STATUS_RESULT ch) 1) ∧
      (op = 1 → 6 ≤ ch.val → ∃ t, exec i s = .next t ∧ begun t ∧
        Ended t go (Fld.L2C_MNT_STATUS_DONE ch) (Fld.L2C_MNT_STATUS_RESULT ch) 2)
    starts (.clean a ch part) 0 ∧ starts (.invalidate a ch part) 1 ∧ starts (.cleanAndInvalidate a ch part) 2 ∧
    starts (.preloadAndLock a ch part) 3 ∧ starts (.unlock a ch part) 4 ∧
    (s.runs = true → s.fldB go = true → (s.mntRun ch).ok = true → ∃ t, exec (.maintenanceDone ch) s = .next t ∧
      Ended t go (Fld.L2C_MNT_STATUS_DONE ch) (Fld.L2C_MNT_STATUS_RESULT ch)
        (if 0 < (s.mntRun ch).s.fld (Fld.L2C_MNT_COUNT_SHORT ch) + (s.mntRun ch).short then 3 else if (s.mntRun ch).pois then 4 else 0) ∧
      t.l2 = (s.mntRun ch).s.l2 ∧ t.mem = (s.mntRun ch).s.mem ∧
      (s.mntOp ch = 0 → s.fldB Fld.ERR_TRACE_CTL_EN = false →
        ∀ k, k ∈ s.mntLines ch → (t.l2At k).valid = true → (t.l2At k).dirty = false))

/-- O27. Way power: a request that no lock, no partition's two ways and no fence forbids sets CHANGING to the ways that change, any
other is refused; WAY_POWER_DONE takes the target over, and no valid line is left in a way that is off. -/
def Obligations.WayPower : Prop :=
  ∀ (a : Agent) (target : BitVec 16) (s : State),
    let p := s.fld Fld.L2C_WAY_STATE_POWERED
    let bad := (∃ e, e ∈ s.l2 ∧ e.2.lock ≠ none ∧ p.testBit (e.1 % 16) = true ∧ target.getLsbD (e.1 % 16) = false) ∨
      (∃ q, q ∈ s.partsOf ∧ popBits 16 (s.fld (Fld.L2C_PART_WAYS_MASK q) &&& target.toNat) < 2) ∨ target.toNat &&& s.fence 0x21 2 ≠ 0
    (∀ r, WriteOk a s r Reg.L2C_WAY_PWR (2 ^ 31 + target.toNat) → s.fldB Fld.L2C_WAY_PWR_GO = false →
      (¬ bad → ∃ t, exec (.wayPowerRequest a target) s = .next t ∧ JustRegs s t ∧ t.fld Fld.L2C_WAY_PWR_GO = 1 ∧
        t.fld Fld.L2C_WAY_PWR_TARGET = target.toNat ∧ t.fld Fld.L2C_WAY_STATE_CHANGING = target.toNat ^^^ p ∧
        t.fld Fld.L2C_WAY_STATE_POWERED = p) ∧
      (bad → ∃ t, exec (.wayPowerRequest a target) s = .next t ∧ JustRegs s t ∧ t.fld Fld.L2C_WAY_PWR_GO = 0 ∧
        t.fld Fld.L2C_WAY_PWR_REFUSED = 1 ∧ t.fld Fld.L2C_WAY_STATE_POWERED = p)) ∧
    (s.runs = true → s.fldB Fld.L2C_WAY_PWR_GO = true → ∃ t, exec .wayPowerDone s = .next t ∧ t.fld Fld.L2C_WAY_PWR_GO = 0 ∧
      t.fld Fld.L2C_WAY_STATE_CHANGING = 0 ∧ t.fld Fld.L2C_WAY_STATE_POWERED = s.fld Fld.L2C_WAY_PWR_TARGET ∧
      ∀ e, e ∈ s.l2 → (s.fld Fld.L2C_WAY_PWR_TARGET).testBit (e.1 % 16) = false → (t.l2At e.1).valid = false)

/-- O28. RDS, RDM and UPG at the home, by the state of the entry (Table 08.3): DataS, DataM or GrantM from the home, a forward to the
owner or to a nearer sharer, a back-invalidate snoop of a host that owns the line, or invalidations of the other sharers. Where a
clause rests on a choice of the model: log entries 11, 21. -/
def Obligations.RequestsAtTheHome : Prop :=
  ∀ (s u : State) (m : Msg),
    let g := msgLocal m
    let k := m.span.val
    let x := m.txn.toNat
    let e := u.dirGet g
    let v := u.starved m
    let dp := v.curSec g
    let req := peerReq m
    (Admitted s m 0x10 .rds u →
      (e.st ≠ .m → (e.st = .s → u.nearest e k = none) → exec (.rds m) s = .next
        (((v.dirPut g (({ e with st := .s } : DirEnt).add k)).sendPeer 0x30 k g k x dp.1 dp.2).opens { mkTxn (req .rds) [] with granted := true })) ∧
      (∀ n, e.st = .s → u.nearest e k = some n → exec (.rds m) s = .next
        ((v.sendPeer 0x20 n g k x zero64 false).opens { mkTxn (req .rds) [] with granted := true, fwd := true })) ∧
      (∀ n, e.st = .m → e.h = false → e.ptrs.head? = some n → u.memberOk n = true → exec (.rds m) s = .next
        ((v.sendPeer 0x20 n g k x zero64 false).opens { mkTxn (req .rds) [.wbS n] with granted := true })) ∧
      (e.st = .m → e.h = true → u.ep.cont = .normal → exec (.rds m) s = .next
        (((v.bump Fld.HOME_BISNP_CNT_COUNT 1).hostSend (.bisnp g 1)).opens (mkTxn (req .rds) [.biRsp])))) ∧
    (∀ op, (op = .rdm ∧ Admitted s m 0x11 .rdm u) ∨ (op = .upg ∧ Admitted s m 0x12 .upg u) →
      let c : Instr := if op = .rdm then .rdm m else .upg m
      let own : DirEnt := { DirEnt.empty with st := .m, ptrs := [k] }
      (e.st ≠ .m → e.h = false → e.cv = false → e.ptrs = [] → exec c s = .next
        ((((v.homeTake g).dirPut g own).sendPeer 0x31 k g k x dp.1 dp.2).opens { mkTxn (req op) [] with granted := true })) ∧
      (e.st = .s → e.h = false → e.cv = false → e.ptrs = [k] → exec c s = .next
        ((((v.homeTake g).dirPut g own).sendPeer 0x32 k g k x zero64 false).opens { mkTxn (req op) [] with granted := true, inX := true })) ∧
      (∀ w y, e.st ≠ .m → e.h = false → v.askInv (k, x) g ((v.holders e).filter (fun n => n != k)) = (w, y) → y ≠ [] → exec c s = .next
        (w.opens { mkTxn (req op) y with inX := e.st == .s && (op == .upg || !e.cv) && (v.holders e).contains k })) ∧
      (∀ n, e.st = .m → e.h = false → e.ptrs.head? = some n → u.memberOk n = true → exec c s = .next
        ((v.sendPeer 0x21 n g k x zero64 false).opens { mkTxn (req op) [.fwdAck n] with granted := true })) ∧
      (e.st = .m → e.h = true → u.ep.cont = .normal → exec c s = .next
        (((v.bump Fld.HOME_BISNP_CNT_COUNT 1).hostSend (.bisnp g 2)).opens (mkTxn (req op) [.biRsp]))))

/-- O29. Writes at the home: WBM of the owner puts its data into the home and frees the entry, one of a member that owns the line no
more is only acknowledged; WRF and WRP of a line that no one else holds are merged at the home; EVS takes a sharer out. Where a clause
rests on a choice of the model: log entry 21. -/
def Obligations.WritesAtTheHome : Prop :=
  ∀ (s u : State) (m : Msg),
    let g := msgLocal m
    let k := m.span.val
    let x := m.txn.toNat
    let e := u.dirGet g
    let v := u.starved m
    let alone := e.st ≠ .m ∧ e.h = false ∧ e.cv = false ∧ e.ptrs = []
    (Admitted s m 0x13 .wbm u →
      (e.st = .m → e.h = false → e.ptrs = [k] → exec (.wbm m) s = .next
        (((v.homeData g m.data m.poison).dirPut g DirEnt.empty).sendPeer 0x37 k g k x zero64 false)) ∧
      (¬ (e.st = .m ∧ e.h = false ∧ e.ptrs = [k]) → exec (.wbm m) s = .next (v.sendPeer 0x37 k g k x zero64 false))) ∧
    (Admitted s m 0x15 .wrf u → alone → exec (.wrf m) s = .next
      (((v.homeMerge g (maskBytes (BitVec.allOnes 64) m.data) m.poison).dirPut g DirEnt.empty).sendPeer 0x38 k g k x zero64 false)) ∧
    (Admitted s m 0x16 .wrp u → alone → exec (.wrp m) s = .next
      (((v.homeMerge g (maskBytes m.mask m.data) m.poison).dirPut g DirEnt.empty).sendPeer 0x38 k g k x zero64 false)) ∧
    (∀ n, e.st = .m → e.h = false → e.ptrs.head? = some n → u.memberOk n = true →
      (Admitted s m 0x15 .wrf u → exec (.wrf m) s = .next ((v.sendPeer 0x23 n g k x zero64 false).opens (mkTxn (peerReq m .wrf) [.rclData n]))) ∧
      (Admitted s m 0x16 .wrp u → exec (.wrp m) s = .next ((v.sendPeer 0x23 n g k x zero64 false).opens (mkTxn (peerReq m .wrp) [.rclData n])))) ∧
    (Arrives s m 0x14 u → u.fromMember m = true → u.blocked g = false →
      (e.st = .s → k ∈ e.ptrs → exec (.evs m) s = .next ((u.dirPut g (e.drop k)).serveAll (u.conflict.length + 1)).settle) ∧
      (¬ (e.st = .s ∧ k ∈ e.ptrs) → exec (.evs m) s = .next u))

/-- O30. Answers at the home: while a transaction waits for others it stays open; with the last answer it grants, or ends where the
owner has granted in the home's place and Done has come. Data that comes back is written at the home first. Where a clause rests on a
choice of the model: log entry 35. -/
def Obligations.AnswersAtTheHome : Prop :=
  ∀ (s u : State) (m : Msg) (t : HTxn) (k : Nat),
    let g := msgLocal m
    let replies := fun (c : Instr) (opc : Nat) (w : HWait) (data : Bool) => Awaited s m opc k w u t →
      let d := if data then u.homeData g m.data m.poison else u
      let v := if w = .wbS k then d.dirPut g (d.dirGet g).shared else d
      let t' : HTxn := { t with waits := t.waits.erase w }
      v.txns = u.txns → v.biConf = [] → v.flip = none →
      (t'.waits ≠ [] → exec c s = .next (v.retxn g t')) ∧
      (t'.waits = [] → t.granted = true → t.done = false → exec c s = .next (v.retxn g t')) ∧
      (t'.waits = [] → t.granted = true → t.done = true → (((v.retxn g t').grantEnd t').dropTxn g).conflict = [] →
        exec c s = .next ((((v.retxn g t').grantEnd t').dropTxn g).dirTrim g).settle) ∧
      (∀ y, t'.waits = [] → t.granted = false → (v.retxn g t').homeServe t' = (y, false) →
        exec c s = .next (y.retxn g { t' with granted := true }).settle)
    replies (.wbs m) 0x33 (.wbS k) true ∧ replies (.rcldata m) 0x34 (.rclData k) true ∧
    (((g, k) ∉ u.lateInv) → replies (.invack m) 0x35 (.invAck k) false) ∧ replies (.fwdack m) 0x36 (.fwdAck k) false ∧
    (Arrives s m 0x35 u → u.replier m = some k → (g, k) ∈ u.lateInv → u.awaits g (.invAck k) = false →
      exec (.invack m) s = .next { u with lateInv := u.lateInv.erase (g, k) }) ∧
    (Arrives s m 0x3A u → u.txns.find? (fun y => y.req.gran == g && y.granted && !y.done && y.req.rq.peerOf == some (m.span.val, m.txn.toNat)) = some t →
      (t.waits ≠ [] → exec (.done m) s = .next
        { u with txns := u.txns.map (fun y => if y.req.gran = g then { y with done := true } else y) }) ∧
      (t.waits = [] → u.conflict = [] → exec (.done m) s = .next
        ((((if t.fwd then u.bump Fld.HOME_FWD_CNT_COUNT 1 else u).grantEnd t).dropTxn g).dirTrim g).settle)) ∧
    (∀ (addr : BitVec 46) n y, let gg := canon addr.toNat / 64 * 64
      let err := fun (z : State) => z.memErr 0x15 1 1 (sliceOf gg) gg n
      let t' : HTxn := { t with waits := [], granted := false, fwd := false }
      s.runs = true → s.txns.find? (fun y => y.req.gran == gg) = some t → t.waits = [.invAck n] → t.granted = false → t.lost = false →
      ((((err (s.bump Fld.HOME_TIMEOUT_CNT_COUNT 1)).retxn gg t').dirPut gg ((s.dirGet gg).drop n)).homeServe t') = (y, false) →
      exec (.homeTxnTimeout addr) s = .next (y.retxn gg { t' with granted := true }).settle)

/-- O31. A chip as a peer answers its home: FwdS, FwdM, RclS, RclI and Inv (Table 08.4), at once, or when the minimum hold of the
granule ends. Where a clause rests on a choice of the model: log entry 22. -/
def Obligations.ForwardsToAPeer : Prop :=
  ∀ (s u : State) (m : Msg),
    let g := msgGran m
    let home := fun (t : State) (opc : Nat) (x : Sector) => t.replyHome m opc x.data x.poison
    let void : Sector := ⟨.i, false, zero64⟩
    (g ∉ u.inHold →
      (Arrives s m 0x24 u → exec (.inv m) s = .next (home (u.peerDown g false) 0x35 void)) ∧
      (∀ x, u.peerCopy g = some x →
        (Arrives s m 0x20 u → x.st ≠ .m → exec (.fwds m) s = .next (u.grantTo m 0x30 x)) ∧
        (Arrives s m 0x20 u → x.st = .m → exec (.fwds m) s = .next (home ((u.grantTo m 0x30 x).peerDown g true) 0x33 x)) ∧
        (Arrives s m 0x21 u → exec (.fwdm m) s = .next (home ((u.grantTo m 0x31 x).peerDown g false) 0x36 void)) ∧
        (Arrives s m 0x22 u → exec (.rcls m) s = .next (home (u.peerDown g true) 0x34 x)) ∧
        (Arrives s m 0x23 u → exec (.rcli m) s = .next (home (u.peerDown g false) 0x34 x)))) ∧
    (g ∈ u.inHold →
      let w := ({ u with delayed := u.delayed ++ [m] } : State).bump Fld.HOME_HOLD_WAIT_CNT_COUNT 1
      (Arrives s m 0x20 u → exec (.fwds m) s = .next w) ∧ (Arrives s m 0x21 u → exec (.fwdm m) s = .next w) ∧
      (Arrives s m 0x22 u → exec (.rcls m) s = .next w) ∧ (Arrives s m 0x23 u → exec (.rcli m) s = .next w) ∧
      (Arrives s m 0x24 u → exec (.inv m) s = .next w)) ∧
    (∀ (addr : BitVec 56) (d : Msg), let gg := addr.toNat / 64 * 64
      s.runs = true → gg ∈ s.inHold → s.delayed.filter (fun y => msgGran y == gg) = [d] →
      exec (.holdEnd addr) s = .next
        (({ s with inHold := s.inHold.filter (· != gg), delayed := s.delayed.filter (fun y => msgGran y != gg) } : State).answerFwd d))

/-- O32. A chip as a requester: DATAS, DATAM and GRANTM end its request, place the sector and send Done, and begin the minimum hold;
WBACK and WRACK end a write; RETRY makes the request wait, and RETRY_RESEND sends it again, with STARVE from the fourth time on. Where
a clause rests on a choice of the model: log entry 21. -/
def Obligations.GrantsToARequester : Prop :=
  ∀ (s u : State) (m : Msg) (r : PReq),
    let g := msgGran m
    let asks := fun (p : PReq → Bool) => u.preqs.find? (fun q => q.gran == g && q.txn == m.txn.toNat && p q) = some r
    let v : State := { u with preqs := u.preqs.erase r }
    let held := fun (t : State) => let t' := t.sendHome 0x3A g m.txn.toNat zero64 false
      if t'.fld Fld.HOME_TIMING_HOLD = 0 ∨ g ∈ t'.inHold then t' else { t' with inHold := t'.inHold ++ [g] }
    (Arrives s m 0x30 u → asks (fun q => q.op == .rds || ((q.op == .rdm || q.op == .upg) && m.poison)) →
      (r.op = .rds → exec (.datas m) s =
        .next (held (v.placeSec g (if m.poison then none else r.age) r.part ⟨.s, m.poison, m.data⟩)).settle) ∧
      (r.op ≠ .rds → exec (.datas m) s = .next (v.placeSec g none r.part ⟨.i, true, m.data⟩).settle)) ∧
    (Arrives s m 0x31 u → asks (fun q => q.op == .rdm || q.op == .upg) →
      exec (.datam m) s = .next (held (v.placeSec g r.age r.part ⟨.m, m.poison, m.data⟩)).settle) ∧
    (Arrives s m 0x32 u → asks (fun q => q.op == .rdm || q.op == .upg) →
      (∀ x, u.l2Sec g = some x → exec (.grantm m) s = .next (held (v.setL2Sec g { x with st := .m }))) ∧
      (u.l2Sec g = none → exec (.grantm m) s = .next (held { v with
        rbuf := v.rbuf.map (fun (e : Nat × Sector) => if e.1 = g then (g, { e.2 with st := .m }) else e) }))) ∧
    (Arrives s m 0x37 u → exec (.wback m) s = .next
      { u with wbuf := u.wbuf.eraseP (fun w => w.gran == g && w.txn == m.txn.toNat) }) ∧
    (Arrives s m 0x38 u → asks (fun q => q.op == .wrf || q.op == .wrp) → exec (.wrack m) s = .next (v.ackWho r.who .ok).settle) ∧
    (Arrives s m 0x39 u → ∃ t, exec (.retry m) s = .next t ∧ t = { u with preqs := t.preqs, wbuf := t.wbuf } ∧
      t.preqs = u.preqs.map (fun q => if q.gran = g ∧ q.txn = m.txn.toNat then { q with retries := q.retries + 1, waiting := true } else q) ∧
      t.wbuf = u.wbuf.map (fun q => if q.gran = g ∧ q.txn = m.txn.toNat then { q with retries := q.retries + 1, waiting := true } else q)) ∧
    (∀ (addr : BitVec 56), let gg := addr.toNat / 64 * 64
      s.runs = true → s.starving gg = false → s.preqs.find? (fun q => q.gran == gg && q.waiting) = some r →
      ∃ t x, exec (.retryResend addr) s = .next (t.send x) ∧ x.opc.toNat = r.op.opc ∧ x.txn = BitVec.ofNat 12 r.txn ∧
        x.starve = decide (4 ≤ r.retries) ∧ x.mask = r.mask ∧ x.dst = BitVec.ofNat 10 (gg / 2 ^ 46) ∧ x.addr = BitVec.ofNat 56 gg ∧
        t = { s with preqs := s.preqs.map (fun q => if q = r then { q with waiting := false, starve := decide (4 ≤ r.retries) } else q) })

/-- O33. Host requests at the home (Table 08.3, Table 08.5): a read gives data and the completion of its MetaValue and leaves the
entry that it names, MemInv changes the entry without data, a write is merged, and a hint is dropped. Where a clause rests on a choice
of the model: log entries 37, 42, 49. -/
def Obligations.HostRequests : Prop :=
  ∀ (s : State) (addr : BitVec 46) (mv : Meta) (data : List Byte) (mask : W64) (poison : Bool),
    let g := canon addr.toNat / 64 * 64
    let e := s.dirGet g
    let req := fun (op : HOp) (mv : Meta) (d : List Byte) (w : W64) (po : Bool) => (⟨g, .host mv, op, false, false, w, d, po⟩ : HReq)
    let alone := e.st ≠ .m ∧ e.cv = false ∧ e.ptrs = []
    let took := if mv = .a then s.homeTake g else s
    let after := hostEntry mv (if mv = .a then DirEnt.empty else e.peersOnly)
    let cmp := match mv with | .a => 2 | .s => 1 | .i => 0
    (HostAdmitted s addr.toNat (req .hostRead mv zero64 0 false) → alone → exec (.memRd addr mv) s = .next
      (((took.dirPut g after).hostSend (.drs g (s.curSec g).1 (s.curSec g).2)).hostSend (.ndr g cmp))) ∧
    (HostAdmitted s addr.toNat (req .hostRead .s zero64 0 false) → alone → exec (.memRdData addr) s = .next
      (((s.dirPut g (hostEntry .s e.peersOnly)).hostSend (.drs g (s.curSec g).1 (s.curSec g).2)).hostSend (.ndr g 1))) ∧
    (HostAdmitted s addr.toNat (req .hostInv mv zero64 0 false) → alone →
      let t := (took.dirPut g after).hostSend (.ndr g cmp)
      exec (.memInv addr mv) s = .next t ∧ exec (.memInvNT addr mv) s = .next t ∧ exec (.memClnEvct addr mv) s = .next t) ∧
    (HostAdmitted s addr.toNat (req .memWr mv data 0 poison) → alone →
      let w := s.homeMerge g (maskBytes (BitVec.allOnes 64) data) poison
      exec (.memWr addr mv data poison) s = .next
        (((if mv = .a then w.homeTake g else w).dirPut g (hostEntry mv DirEnt.empty)).hostSend (.ndr g 0)).settle) ∧
    (HostAdmitted s addr.toNat (req .memWrPtl mv data mask false) → alone →
      let w := s.homeMerge g (maskBytes mask data) false
      exec (.memWrPtl addr mv data mask) s = .next
        (((if mv = .a then w.homeTake g else w).dirPut g (hostEntry mv DirEnt.empty)).hostSend (.ndr g 0)).settle) ∧
    (∀ n, HostAdmitted s addr.toNat (req .hostRead mv zero64 0 false) → e.st = .m → e.h = false → e.ptrs.head? = some n →
      s.memberOk n = true → exec (.memRd addr mv) s = .next
        ((s.sendPeer (if mv = .a then 0x23 else 0x22) n g s.spanIdx 0 zero64 false).opens (mkTxn (req .hostRead mv zero64 0 false) [.rclData n]))) ∧
    (s.hostHere = true → s.memReady g = false → exec (.memRd addr mv) s = .next ((s.hostSend (.drs g zero64 true)).hostSend (.ndr g 0)) ∧
      exec (.memWr addr mv data poison) s = .next (s.hostSend (.ndr g 0))) ∧
    (s.hostHere = true → s.memReady g = true → s.hostDenied g = true → exec (.memRd addr mv) s = .next
      (((s.bump Fld.SEC_HOST_DENY_CNT_COUNT 1).hostSend (.drs g zero64 true)).hostSend (.ndr g 0))) ∧
    exec (.memSpecRd addr) s = .next s

/-- O34. The host link of the coherence: an answer to a back-invalidate snoop goes to the transaction that waits for it, or is late;
host snoops follow Table 08.7. Where a clause rests on a choice of the model: log entry 23. -/
def Obligations.HostSnoopsAndAnswers : Prop :=
  ∀ (s : State) (addr : BitVec 46), s.hostHere = true → s.flip = none → s.biConf = [] →
    let g := canon addr.toNat / 64 * 64
    (∀ t y, s.txns.find? (fun t => t.req.gran == g && t.waits.contains .biRsp) = some t → t.waits = [.biRsp] → t.granted = false →
      let t' : HTxn := { t with waits := [] }
      (s.retxn g t').homeServe t' = (y, false) →
      let out := (y.retxn g { t' with granted := true }).settle
      exec (.biRspI addr) s = .next out ∧ exec (.biRspS addr) s = .next out ∧ exec (.biRspE addr) s = .next out) ∧
    (s.awaits g .biRsp = false → let out := ((s.bump Fld.HOME_LATE_CNT_COUNT 1).memErr 0x16 1 1 (sliceOf g) g 0x8000).settle
      exec (.biRspI addr) s = .next out ∧ exec (.biRspS addr) s = .next out ∧ exec (.biRspE addr) s = .next out) ∧
    (∀ (h : BitVec 52), let p := s.paOf (s.snoopName h.toNat)
      (s.l2Sec p = none → (∀ x, x ∈ s.rbuf → x.1 ≠ p) → let t := s.hostSend (.d2hRsp h.toNat 0 [])
        exec (.snpInv h) s = .next t ∧ exec (.snpData h) s = .next t ∧ exec (.snpCur h) s = .next t) ∧
      (∀ x, s.l2Sec p = some x → let d := if x.st = .m then x.data else []
        exec (.snpInv h) s = .next ((s.peerDown p false).hostSend (.d2hRsp h.toNat (if x.st = .m then 2 else 1) d)) ∧
        exec (.snpData h) s = .next ((s.peerDown p true).hostSend (.d2hRsp h.toNat (if x.st = .m then 4 else 3) d)) ∧
        exec (.snpCur h) s = .next (s.hostSend (.d2hRsp h.toNat (if x.st = .m then 6 else 5) d))))

/-- O35. A BIConflict of the host: BIConflictAck goes out only when no earlier request of the host for the line is left, and each one
counts (R253). -/
def Obligations.ConflictsOfTheHost : Prop :=
  ∀ (s : State) (addr : BitVec 46), s.hostHere = true → s.flip = none → s.biConf = [] →
    let g := canon addr.toNat / 64 * 64
    let host := fun (r : HReq) => r.gran = g ∧ ∃ mv, r.rq = .host mv
    let earlier : Prop := (∃ x, x ∈ s.txns ∧ host x.req) ∨ ∃ r, r ∈ s.conflict ∧ host r
    s.inWait = [] → ∃ t, exec (.biConflict addr) s = .next t ∧ t = { s with regs := t.regs, biConf := t.biConf, ep := t.ep } ∧
      t.fld Fld.HOME_BICONFLICT_CNT_COUNT = (s.fld Fld.HOME_BICONFLICT_CNT_COUNT + 1) % 2 ^ 48 ∧
      (earlier → t.biConf = [g] ∧ t.ep = s.ep) ∧ (¬ earlier → t.biConf = [] ∧ t.ep = { s.ep with tx := s.ep.tx ++ [.ndr g 3] })

/-- O36. Answers of the host to requests of the L2: data takes its place in the state that the request asks for (a Shared read in S),
a completion ends a write, or puts a whole sector into the L2 in M; an error ends a read in poison, with no copy kept, and a store in
an error; a hand-back is served by the home. Where a clause
rests on a choice of the model: log entries 26, 39. -/
def Obligations.HostCacheAnswers : Prop :=
  ∀ (s : State) (addr : BitVec 52) (r : HcReq), s.hostHere = true →
    let v : State := { s with hcReqs := s.hcReqs.erase r }
    let placed := (v.placeSec (v.paOf r.addr) r.age r.part ⟨.m, false, r.data⟩).afterWrite (v.paOf r.addr) r.who.core?
    let owned := (if r.lock then (placed.l2Lock r.part (v.paOf r.addr)).1 else placed).ackWho r.who .ok
    let asked := fun (p : HcReq → Bool) => s.hcReqs.find? (fun q => s.hostName q.addr == addr.toNat && p q) = some r
    (∀ st d po, asked (fun q => q.op.reads) → r.op = .rdShared →
      exec (.cxlCacheResponse addr (.data st d po)) s = .next (v.placeSec (v.paOf r.addr) r.age r.part ⟨.s, po, d⟩).settle) ∧
    (∀ st d po, asked (fun q => q.op.reads) → r.op = .rdOwn →
      exec (.cxlCacheResponse addr (.data st d po)) s = .next (v.placeSec (v.paOf r.addr) r.age r.part ⟨.e, po, d⟩).settle) ∧
    (asked (fun q => !q.op.reads) → r.op ≠ .rdOwnNoData → exec (.cxlCacheResponse addr .completion) s = .next (v.ackWho r.who .ok).settle) ∧
    (asked (fun q => !q.op.reads) → r.op = .rdOwnNoData → exec (.cxlCacheResponse addr .completion) s = .next owned.settle) ∧
    (asked (fun _ => true) → r.op.reads = true →
      exec (.cxlCacheResponse addr .error) s = .next (v.placeSec (v.paOf r.addr) none r.part ⟨.i, true, zero64⟩).settle) ∧
    (asked (fun _ => true) → r.op.reads = false → exec (.cxlCacheResponse addr .error) s = .next (v.ackWho r.who .bad).settle) ∧
    (∀ (loc : BitVec 46) (grant : Coh), let g := canon loc.toNat / 64 * 64
      s.hcReqs.find? (fun q => q.addr == g && q.op.reads) = some r →
      exec (.memRdFwd loc grant) s = .next (((v.readBelow g).1.placeSec ((v.readBelow g).1.paOf r.addr) r.age r.part
        ⟨grant, (v.readBelow g).2.2, (v.readBelow g).2.1⟩)).settle) ∧
    (∀ (loc : BitVec 46), let g := canon loc.toNat / 64 * 64
      s.hcReqs.find? (fun q => q.addr == g && !q.op.reads && q.op != .clflush) = some r →
      (r.op = .rdOwnNoData → exec (.memWrFwd loc) s = .next owned.settle) ∧
      (r.op = .woWrInvF → exec (.memWrFwd loc) s = .next ((v.homeMerge g (maskBytes (BitVec.allOnes 64) r.data) false).ackWho r.who .ok).settle) ∧
      (r.op = .woWrInv → exec (.memWrFwd loc) s = .next ((v.homeMerge g (maskBytes r.mask r.data) false).ackWho r.who .ok).settle) ∧
      (r.op = .dirtyEvict → exec (.memWrFwd loc) s = .next ((v.writeMem g r.data false).ackWho r.who .ok).settle))

/-- O37. Bias flips and the walk after a containment: a flip over whole pages of partitions in compatibility mode starts when no
transaction of its pages is open, any other ends with its result; the walk that ends lets the next begin. Where a clause rests on a
choice of the model: log entries 40, 131. -/
def Obligations.BiasFlipsAndPurges : Prop :=
  (∀ (a : Agent) (pages : BitVec 16) (s : State) (r : RRow),
    let adr := s.fld Fld.HOME_BIAS_ADDR_ADDR
    let n := pages.toNat
    let b := biasBase adr
    let ok := n ≠ 0 ∧ adr % 0x10000 = 0 ∧ ∀ i j, i < n → j < 128 →
      s.holdsMem (canon (b + 0x10000 * i + 512 * j)) = true ∧ s.compat (canon (b + 0x10000 * i + 512 * j)) = true
    let acts := fun (c : Instr) (w : Nat) (toHost : Bool) => WriteOk a s r Reg.HOME_BIAS_CMD w →
      (¬ ok → ∃ t, exec c s = .next t ∧ JustRegs s t ∧
        Ended t Fld.HOME_BIAS_CMD_GO Fld.HOME_BIAS_STATUS_DONE Fld.HOME_BIAS_STATUS_RESULT 1) ∧
      (ok → s.ep.cont ≠ .normal → ∃ t, exec c s = .next t ∧ JustRegs s t ∧
        Ended t Fld.HOME_BIAS_CMD_GO Fld.HOME_BIAS_STATUS_DONE Fld.HOME_BIAS_STATUS_RESULT 2) ∧
      (ok → s.ep.cont = .normal → (∃ t, t ∈ s.txns ∧ covers b (0x10000 * n) t.req.gran = true) →
        ∃ t, exec c s = .next t ∧ t.flip = some ⟨b, n, toHost, false⟩ ∧ t.fld Fld.HOME_BIAS_CMD_GO = 1) ∧
      (ok → s.ep.cont = .normal → s.txns = [] →
        ∃ t, exec c s = .next t ∧ t.flip = some ⟨b, n, toHost, true⟩ ∧ t.fld Fld.HOME_BIAS_CMD_GO = 1 ∧
          t.hcReqs = s.hcReqs ++ if toHost then [] else
            (List.range (1024 * n)).map (fun i => ⟨canon (b + 64 * i), .clflush, none, 0, [], 0, .nobody, false⟩))
    acts (.biasFlipToHost a pages) (2 ^ 31 + 2 ^ 30 + n) true ∧ acts (.biasFlipToDevice a pages) (2 ^ 31 + n) false) ∧
  (∀ (s : State) (f : BiasFlip), s.runs = true → s.flip = some f → f.started = true → f.toHost = false → f.pages = 1 →
    (∀ q, q ∈ s.hcReqs → q.op ≠ .clflush) → s.conflict = [] → s.biConf = [] → ∃ t, exec .biasFlipDone s = .next t ∧ t.flip = none ∧
      Ended t Fld.HOME_BIAS_CMD_GO Fld.HOME_BIAS_STATUS_DONE Fld.HOME_BIAS_STATUS_RESULT 0) ∧
  (∀ (s : State), s.runs = true → s.biConf = [] → s.flip = none →
    (s.purges = [] → exec .purgeWalkDone s = .next s) ∧
    (∀ who rest, s.purges = who :: rest → s.dir = [] → s.conflict = [] → (∀ k, who = some k → s.spanState k ≠ 2) → ∃ t, exec .purgeWalkDone s = .next t ∧
      t.purges = rest ∧ (rest = [] → t.reg Reg.HOME_PURGE = 0) ∧ t.txns = s.txns ∧ t.mem = s.mem ∧ t.cores = s.cores) ∧
    (∀ k n e, s.purges = [some k] → s.dir = [(n, e)] → s.txns = [] → s.conflict = [] → s.spanState k ≠ 2 → e.st = .m → e.h = false → k ∈ e.ptrs →
      ∃ t u : State, exec .purgeWalkDone s = .next t ∧ u = (s.poisonGran e.gran).dirPut e.gran DirEnt.empty ∧ t.purges = [] ∧ t.dir = u.dir ∧
        t.mem = u.mem ∧ t.l2 = u.l2))

/-- O38. The translation commands: CREATE, the prefetches and ADVISE begin, INVALIDATE_TAG, INVALIDATE_EVERY_TAG, DESTROY and SET_ROOT
drop the translations at once and end when the old accesses have retired or the drain limit passes; tag zero is refused. -/
def Obligations.TranslationCommands : Prop :=
  ∀ (a : Agent) (ch : Fin 4) (tag : W16) (s : State),
    let go := Fld.XLT_CMD_GO ch
    let done := Fld.XLT_CMD_STATUS_DONE ch
    let res := Fld.XLT_CMD_STATUS_RESULT ch
    let word := fun (op : Nat) => 2 ^ 31 + op * 2 ^ 26 + tag.toNat
    let ok := fun (w : Nat) => ∃ r, WriteOk a s r (Reg.XLT_CMD ch) w
    let begins := fun (c : Instr) (w op : Nat) => ok w → tag ≠ 0 → ∃ t, exec c s = .next t ∧ t.xop ch = .run 0 0 ∧ t.fld go = 1 ∧
      t.fld (Fld.XLT_CMD_OP ch) = op ∧ t.fld (Fld.XLT_CMD_TAG ch) = tag.toNat ∧ t.fld (Fld.XLT_CMD_PARTITION ch) = bits w 24 21 ∧
      t.fld (Fld.XLT_CMD_PRIV ch) = bits w 25 25 ∧ t.fld (Fld.XLT_CMD_ADVICE ch) = bits w 20 18 ∧ JustRegs { s with xops := t.xops } t
    let refused := fun (c : Instr) (w v : Nat) => ok w → ∃ t, exec c s = .next t ∧ Ended t go done res v ∧ t.tlbs = s.tlbs ∧ t.ctxs = s.ctxs
    let drops := fun (c : Instr) (w : Nat) (d : Bool) => ok w → ∃ t, exec c s = .next t ∧ t.fld go = 1 ∧
      t.xop ch = .inval false tag.toNat d (s.oldAccs false tag.toNat) ∧ (∀ b e, e ∈ t.tlb b → e.tag ≠ tag.toNat) ∧
      (∀ e, e ∈ t.stlb → e.tag ≠ tag.toNat) ∧ t.mem = s.mem
    let la := s.fld (Fld.XLT_CMD_ADDR_ADDR ch)
    let c := s.ctx tag.toNat
    (∀ (part : Fin 16) (priv : Bool), begins (.create a ch tag part priv) (word 2 + priv.toNat * 2 ^ 25 + part.val * 2 ^ 21) 2 ∧
      (tag = 0 → refused (.create a ch tag part priv) (word 2 + priv.toNat * 2 ^ 25 + part.val * 2 ^ 21) 2)) ∧
    begins (.translationPrefetch a ch tag) (word 4) 4 ∧ begins (.dataPrefetch a ch tag) (word 5) 5 ∧
    begins (.dataPrefetchAndLock a ch tag) (word 6) 6 ∧
    (∀ adv, begins (.advise a ch tag adv) (word 7 + adviceCode adv * 2 ^ 18) 7) ∧
    (tag ≠ 0 → drops (.invalidateTag a ch tag) (word 0) false) ∧ (tag = 0 → refused (.invalidateTag a ch tag) (word 0) 2) ∧
    (ok (2 ^ 31 + 2 ^ 26) → ∃ t, exec (.invalidateEveryTag a ch) s = .next t ∧ t.stlb = [] ∧ (∀ b, t.tlb b = []) ∧ t.fld go = 1 ∧
      ∃ n, t.xop ch = .inval true n false (s.oldAccs true n)) ∧
    (tag ≠ 0 → c.valid = true → s.tagUsed tag.toNat = false → drops (.destroy a ch tag) (word 3) true) ∧
    (tag ≠ 0 → c.valid = true → s.tagUsed tag.toNat = true → refused (.destroy a ch tag) (word 3) 2) ∧
    (tag ≠ 0 → c.valid = false → refused (.destroy a ch tag) (word 3) 1 ∧ refused (.setRoot a ch tag) (word 8) 1) ∧
    (tag ≠ 0 → c.valid = true → s.rootOk c.part la = true → drops (.setRoot a ch tag) (word 8) false ∧
      (ok (word 8) → ∃ t, exec (.setRoot a ch tag) s = .next t ∧ t.ctx tag.toNat = { c with root := s.paOf la })) ∧
    (s.inService = true → ∀ all n d olds, s.xop ch = .inval all n d olds →
      (s.oldLeft olds = [] → ∃ t, exec (.invalidationDone ch) s = .next t ∧ Ended t go done res 0 ∧ t.xop ch = .none ∧
        (d = true → t.ctx n = Ctx.empty) ∧ (d = false → t.ctxs = s.ctxs) ∧ exec (.drainLimit ch) s = .next s) ∧
      (s.oldLeft olds ≠ [] → exec (.invalidationDone ch) s = .next s ∧ ∃ t, exec (.drainLimit ch) s = .next t ∧
        Ended t go done res 3 ∧ t.xop ch = .none ∧ (d = true → t.ctx n = Ctx.empty))) ∧
    (∀ n k, s.inService = true → s.xop ch = .run n k → s.fld (Fld.XLT_CMD_TAG ch) = tag.toNat →
      let p := s.fld (Fld.XLT_CMD_PARTITION ch)
      let priv := s.fldB (Fld.XLT_CMD_PRIV ch)
      (s.fld (Fld.XLT_CMD_OP ch) = 2 → c.valid = false → (ch.val < 2 ∨ (priv = false ∧ s.hostMay p 0 = true)) → s.rootOk p la = true →
        ∃ t, exec (.translationCommandDone ch) s = .next t ∧ t.ctx tag.toNat = ⟨true, p, priv, s.paOf la⟩ ∧ Ended t go done res 0) ∧
      (s.fld (Fld.XLT_CMD_OP ch) = 2 → c.valid = true → ∃ t, exec (.translationCommandDone ch) s = .next t ∧ t.ctxs = s.ctxs ∧ Ended t go done res 2) ∧
      (s.fld (Fld.XLT_CMD_OP ch) = 7 → c.valid = true → s.fld (Fld.XLT_CMD_ADVICE ch) ≠ 0 → s.pages = [] →
        ∃ t, exec (.translationCommandDone ch) s = .next t ∧ Ended t go done res 0) ∧
      (4 ≤ s.fld (Fld.XLT_CMD_OP ch) → s.fld (Fld.XLT_CMD_OP ch) ≤ 6 → s.fld (Fld.XLT_CMD_LEN_LEN ch) = 0 →
        ∃ t, exec (.translationCommandDone ch) s = .next t ∧ Ended t go done res 1 ∧ t.stlb = s.stlb))

/-- O39. Faults: a walk that ends in a leaf fills the buffers and serves its request, one that faults leaves a record; replies and the
stall limit close the record, the ring takes the records in order, and enabling it numbers them from zero. Where a clause rests on a
choice of the model: log entries 31, 43. -/
def Obligations.FaultsAndTheirRing : Prop :=
  ∀ (a : Agent) (s : State),
    (∀ (k : Nat) r u, s.inService = true → s.walks = [r] → r.id = k → r.st = .walking → r.started = true → u.walks = s.walks →
      (∀ l, s.walk r.tag r.va = (u, .leaf l) → (r.write = true → l.w = true) → ∃ t, exec (.pageTableWalk k) s = .next t ∧
        t.walks = [{ r with st := .leaf l }] ∧ (r.only = false → { l with used := true } ∈ t.tlb r.buf ∧ { l with used := true } ∈ t.stlb) ∧
        t.mem = u.mem) ∧
      (∀ kind level, s.walk r.tag r.va = (u, .fault kind level) → kind < 3 → u.frecs.length < 4096 → (∀ f, f ∈ u.frecs → f.opn = false) →
        ∃ t f, exec (.pageTableWalk k) s = .next t ∧ t.frecs = u.frecs ++ [f] ∧ f.seq = u.fseq.toNat ∧ f.va = r.va ∧ f.kind = kind ∧
          f.level = level ∧ f.tag = r.tag ∧ f.write = r.write ∧ f.fetch = r.fetch ∧ f.failed = false ∧ f.opn = true ∧ f.part = r.part ∧
          f.cls = r.cls ∧ f.newel = u.aon.newel ∧ t.fseq = u.fseq + 1 ∧ t.walks = [{ r with st := .stalled f.seq, faulted := true }])) ∧
    (∀ (k q : Nat) r n, s.inService = true → s.walks = [r] → r.id = k → r.faulted = true → r.st = .stalled q → r.stream = .chan n →
      ∃ t, exec (.faultStallLimit k) s = .next t ∧ t.walks = [{ r with st := .failed }] ∧ (∀ f, f ∈ t.frecs → f.seq = q → f.opn = false) ∧
        t.fld Fld.XLT_LIMIT_FAIL_CNT_COUNT = (s.fld Fld.XLT_LIMIT_FAIL_CNT_COUNT + 1) % 2 ^ 48) ∧
    (∀ (seq : W32) rr, let act := fun (n : Nat) => n * 2 ^ 62 + seq.toNat
      let stale := (s.fld Fld.XLT_STALE_RESP_CNT_COUNT + 1) % 2 ^ 48
      (WriteOk a s rr Reg.XLT_FAULT_RESP (act 1) → (∀ f, f ∈ s.frecs → f.opn = true → f.seq ≠ seq.toNat) →
        ∃ t, exec (.faultRespRetry a seq) s = .next t ∧ t.fld Fld.XLT_STALE_RESP_CNT_COUNT = stale ∧ t.frecs = s.frecs ∧ t.walks = s.walks) ∧
      (WriteOk a s rr Reg.XLT_FAULT_RESP (act 2) → (∀ f, f ∈ s.frecs → f.opn = true → f.seq ≠ seq.toNat) →
        ∃ t, exec (.fail a seq) s = .next t ∧ t.fld Fld.XLT_STALE_RESP_CNT_COUNT = stale ∧ t.frecs = s.frecs ∧ t.walks = s.walks) ∧
      (∀ r f, s.walks = [r] → r.st = .stalled seq.toNat → f ∈ s.frecs → f.opn = true → f.seq = seq.toNat →
        (WriteOk a s rr Reg.XLT_FAULT_RESP (act 1) → ∃ t, exec (.faultRespRetry a seq) s = .next t ∧
          t.walks = [{ r with st := .walking, started := true, only := false }] ∧ ∀ g, g ∈ t.frecs → g.seq = seq.toNat → g.opn = false) ∧
        (∀ n, r.stream = .chan n → WriteOk a s rr Reg.XLT_FAULT_RESP (act 2) → ∃ t, exec (.fail a seq) s = .next t ∧
          t.walks = [{ r with st := .failed }] ∧ ∀ g, g ∈ t.frecs → g.seq = seq.toNat → g.opn = false))) ∧
    (∀ (tag : W16) rr, WriteOk a s rr Reg.XLT_FAULT_RESP (3 * 2 ^ 62 + tag.toNat * 2 ^ 32) →
      ((∀ f, f ∈ s.frecs → f.opn = true → f.tag ≠ tag.toNat) → ∃ t, exec (.retryTag a tag) s = .next t ∧
        t.fld Fld.XLT_STALE_RESP_CNT_COUNT = (s.fld Fld.XLT_STALE_RESP_CNT_COUNT + 1) % 2 ^ 48 ∧ t.frecs = s.frecs) ∧
      (∀ r f, s.frecs = [f] → f.opn = true → f.tag = tag.toNat → s.walks = [r] → r.st = .stalled f.seq → ∃ t, exec (.retryTag a tag) s = .next t ∧
        t.walks = [{ r with st := .walking, started := true, only := false }] ∧ ∀ g, g ∈ t.frecs → g.opn = false)) ∧
    (∀ (size : BitVec 5) (vec : BitVec 11) rr, WriteOk a s rr Reg.XLT_RING_CTL (2 ^ 31 + size.toNat * 2 ^ 16 + vec.toNat) →
      s.fldB Fld.XLT_RING_CTL_EN = false → ∃ t, exec (.ringEnable a size vec) s = .next t ∧ t.fld Fld.XLT_RING_CTL_EN = 1 ∧
        t.fld Fld.XLT_RING_CTL_SIZE = size.toNat ∧ t.fld Fld.XLT_RING_CTL_VEC = vec.toNat ∧ t.fld Fld.XLT_RING_PROD_PROD = 0 ∧
        t.frecs.map (·.seq) = List.range s.frecs.length ∧ (∀ f, f ∈ t.frecs → f.written = false) ∧
        t.frecs.map (·.va) = s.frecs.map (·.va) ∧ t.fseq = BitVec.ofNat 32 s.frecs.length) ∧
    (∀ (v : W32) rr, WriteOk a s rr Reg.XLT_RING_CONS v.toNat →
      let ahead := distance 32 v.toNat (s.fld Fld.XLT_RING_PROD_PROD)
      (ahead ≤ 2 ^ s.fld Fld.XLT_RING_CTL_SIZE → ∃ t, exec (.ringConsWrite a v) s = .next t ∧ t.fld Fld.XLT_RING_CONS_CONS = v.toNat) ∧
      (2 ^ s.fld Fld.XLT_RING_CTL_SIZE < ahead → ∃ t, exec (.ringConsWrite a v) s = .next t ∧ t.fld Fld.XLT_FAULT_STATUS_BAD_CONS = 1 ∧
        t.fld Fld.XLT_RING_CONS_CONS = s.fld Fld.XLT_RING_CONS_CONS)) ∧
    (∀ f u, let size := s.fld Fld.XLT_RING_CTL_SIZE
      let base := s.fld Fld.XLT_RING_BASE_BASE
      s.inService = true → s.fldB Fld.XLT_RING_CTL_EN = true → s.frecs.filter (fun g => !g.written) = [f] →
      distance 32 (s.fld Fld.XLT_RING_CONS_CONS) (s.fld Fld.XLT_RING_PROD_PROD) < 2 ^ size → s.ep.hold = [] → s.unitOk base (32 * 2 ^ size) = true →
      (isHostRange base = false → s.unitWrite 0 (.ring (f.seq + 1)) (base + 32 * (f.seq % 2 ^ size)) (frecBytes size f) = (u, true) →
        u.walks = [] → u.frecs = s.frecs → ∃ t, exec (.faultBatch false) s = .next t ∧ t.fld Fld.XLT_RING_PROD_PROD = (f.seq + 1) % 2 ^ 32 ∧
          (∀ g, g ∈ t.frecs → g.written = true ∧ g.opn = true) ∧ t.mem = u.mem) ∧
      (∃ t, exec (.faultBatch true) s = .next t ∧ t.fld Fld.XLT_RING_CTL_EN = 0 ∧ t.fld Fld.XLT_FAULT_STATUS_RING_ERR = 1 ∧ t.mem = s.mem))

/-- O40. Remote windows: a refresh drops the unit's copies, and ends when the accesses that used them are performed; a request that its entry allows is performed here and answered, any other
is counted and answered with WErr; an answer serves the access that waits for it. Where a clause rests on a choice of the model: log
entries 29, 43. -/
def Obligations.RemoteWindows : Prop :=
  ∀ (s u : State) (m : Msg),
    let idx := (winOf m).1
    let off := (winOf m).2
    let src := m.src.toNat
    let back := fun (t : State) (opc aux : Nat) (d : List Byte) => mkMsg opc src t.chip m.txn.toNat m.addr.toNat aux d
    let refuses := fun (c : Instr) (opc len : Nat) (wr : Bool) => ∀ e v, s.inService = true → Arrives s m opc u → u.wins.find? (fun y => y.idx == idx) = some e →
      u.winRefuse e src off len wr = some v → exec c s = .next
        ((((u.bump Fld.XLT_WIN_REFUSED_CNT_COUNT 1).setReg Reg.XLT_WIN_LAST (v * 2 ^ 29 + src * 2 ^ 12 + idx)).send (back u 0x53 v zero64)))
    let bs := maskBytes m.mask m.data
    let wlen := ((bs.getLast?.map (·.1)).getD 0) + 1
    let n := if m.aux.getLsbD 4 then 8 else 4
    refuses (.wrd m) 0x40 (m.aux.toNat % 64 + 1) false ∧ refuses (.wwr m) 0x41 wlen true ∧ refuses (.watom m) 0x42 n true ∧
    (∀ e, s.inService = true → u.wins.find? (fun y => y.idx == idx) = some e →
      let la := bits e.hi 45 0 + off
      let p := bits e.lo 11 8
      let ty := (leafType (bits e.lo 4 2)).getD .wb
      (∀ v d po, Arrives s m 0x40 u → u.winRefuse e src off (m.aux.toNat % 64 + 1) false = none →
        u.winRead1 la p (m.aux.toNat % 64 + 1) ty = (v, some (some (d, po))) →
        exec (.wrd m) s = .next (v.send { back v 0x50 0 (patch zero64 0 d) with poison := po }).settle) ∧
      (∀ v, Arrives s m 0x41 u → u.winRefuse e src off wlen true = none → bs ≠ [] → isHostRange (la + (bs.headD (0, 0)).1) = false →
        u.writeSec p (u.unitPa la) ty.pol bs none (.win src m.txn.toNat m.addr.toNat) = (v, .done) →
        exec (.wwr m) s = .next (v.send (back v 0x51 0 zero64)).settle) ∧
      (∀ v w d, let pa := u.unitPa la
        let old := at' d (pa % 64) n
        let new_ := aopFn (aopOf (bits m.aux.toNat 3 0)) (8 * n) old (at' m.data 0 n) (at' m.data 8 n)
        Arrives s m 0x42 u → u.winRefuse e src off n true = none → la % n = 0 → isHostRange la = false → u.ownSec p pa = (v, some (d, false)) →
        v.writeSec p pa (.alloc 1) ((natLe n new_).zipIdx.map (fun b => (pa % 64 + b.2, b.1))) none .nobody = (w, .done) →
        exec (.watom m) s = .next (w.send (back v 0x52 0 (patch zero64 0 (natLe n old)))).settle)) ∧
    (∀ q, u.winOut.find? (fun y => y.txn == m.txn.toNat && y.chip == src && y.ans.isNone) = some q →
      let gone : State := { u with winOut := u.winOut.erase q }
      let answered := fun (ans : Option (List Byte × Bool)) => ({ u with winOut := u.winOut.map (fun y => if y = q then { y with ans := some ans } else y) } : State)
      (q.wr = false → u.ioAlive q.owner = true →
        (Arrives s m 0x50 u → exec (.wrdrsp m) s = .next (answered (some (m.data.take q.len, m.poison)))) ∧
        (Arrives s m 0x52 u → exec (.watomrsp m) s = .next (answered (some (m.data.take q.len, m.poison)))) ∧
        (Arrives s m 0x53 u → exec (.werr m) s = .next (answered none))) ∧
      (q.wr = true → (Arrives s m 0x51 u → exec (.wwrack m) s = .next (gone.ackWho q.who .ok).settle) ∧
        (Arrives s m 0x53 u → m.aux.toNat ≠ 7 → exec (.werr m) s = .next (gone.ackWho q.who .bad).settle))) ∧
    (∀ (a : Agent) (all : Bool) (k : BitVec 12) r, WriteOk a s r Reg.XLT_WIN_CMD (2 ^ 31 + all.toNat * 2 ^ 30 + k.toNat) →
      ∃ t, exec (.windowRefresh a all k) s = .next t ∧ t.fld Fld.XLT_WIN_CMD_GO = 1 ∧
        t.wins = if all then [] else s.wins.filter (fun e => e.idx != k.toNat)) ∧
    (s.inService = true → s.fldB Fld.XLT_WIN_CMD_GO = true →
      ((∀ w, w ∈ s.winOld → w ∉ s.winPends) → ∃ t, exec .windowRefreshDone s = .next t ∧ JustRegs s t ∧
        t.fld Fld.XLT_WIN_CMD_GO = 0 ∧ t.fld Fld.XLT_WIN_STATUS_DONE = 1) ∧
      ((∃ w, w ∈ s.winOld ∧ w ∈ s.winPends) → exec .windowRefreshDone s = .next s))

/-- `got` is a set on which the link may train where the modules `works` work (Table 01.7, R318): all four, else module 0 and one other
that works, else module 0 alone. -/
def Trained (works got : BitVec 4) : Prop :=
  got.getLsbD 0 = true ∧ (works = 15 → got = 15) ∧ (works ≠ 15 → (∀ k, 0 < k → k < 4 → got.getLsbD k = true → works.getLsbD k = true) ∧
    (∀ k j, 0 < k → 0 < j → got.getLsbD k = true → got.getLsbD j = true → k = j) ∧
    ((∃ k, 0 < k ∧ k < 4 ∧ works.getLsbD k = true) → ∃ k, 0 < k ∧ got.getLsbD k = true))

/-- O41. Containment: every event of Table 10.8 freezes the endpoint; a retrain only pauses traffic; the hold limit poisons the oldest
held request; a release is refused while the link is down, a cause stands or a walk is busy, else held requests leave, CXL.io requests
not in D3hot or without Bus Master Enable, or are dropped. Where a clause
rests on a choice of the model: log entries 27, 28, 44, 45. -/
def Obligations.ContainmentOfTheHost : Prop :=
  ∀ (a : Agent) (s : State),
    (HostQuiet s →
      (∃ t, exec .linkDown s = .next t ∧ Froze s t Fld.EP_CONT_STATUS_LINK_DOWN ∧ t.ep.linkUp = false ∧ t.ep.modules = 0) ∧
      (∃ t, exec .uncorr s = .next t ∧ Froze s t Fld.EP_CONT_STATUS_UNCORR) ∧
      (∃ t, exec .viral s = .next t ∧ Froze s t Fld.EP_CONT_STATUS_VIRAL ∧ (t.cfgRead 0x164).getLsbD 30 = true) ∧
      (s.ep.ideSec = 1 → ∃ t, exec .ideFail s = .next t ∧ Froze s t Fld.EP_CONT_STATUS_IDE_FAIL ∧ t.ep.ideSec = 0 ∧
        t.ep.ideKeys = s.ep.ideKeys &&& 2 ∧ (t.cfgRead 0x104).getLsbD 28 = true)) ∧
    (s.runs = true → s.ep.linkUp = false → exec .linkDown s = .next s ∧ exec .uncorr s = .next s ∧ exec .viral s = .next s ∧
      exec .ideFail s = .next s) ∧
    (∀ m : BitVec 4, s.runs = true → s.ep.linkUp = false → m.getLsbD 0 = true → ∃ t, exec (.linkUp m) s = .next t ∧
      t.ep.linkUp = true ∧ t = { s with ep := { s.ep with linkUp := true, modules := t.ep.modules, failed := ~~~m } } ∧
      (s.aon.dev = .vestibule → t.ep.modules = 1) ∧ (s.aon.dev = .service → Trained (m &&& s.modulesIn) t.ep.modules)) ∧
    (∀ m : Fin 4, s.runs = true → s.ep.linkUp = true → s.ep.modules.getLsbD m = true →
      (m = 0 → exec (.moduleRetrain m) s = .next s) ∧
      (m ≠ 0 → ∃ t, exec (.moduleRetrain m) s = .next t ∧
        t.ep = { s.ep with retrain := true, modules := t.ep.modules, failed := s.ep.failed ||| (1#4 <<< m.val) } ∧
        Trained (s.modulesIn &&& ~~~t.ep.failed) t.ep.modules ∧
        t.fld Fld.EP_RETRAIN_CNT_COUNT = (s.fld Fld.EP_RETRAIN_CNT_COUNT + 1) % 2 ^ 48 ∧ t.cores = s.cores ∧ t.mem = s.mem)) ∧
    (s.runs = true → s.ep.retrain = true → s.inWait = [] → s.ep.cont = .normal → s.biConf = [] → s.flip = none →
      (∀ h, h ∈ s.ep.hold → h.bad = false ∧ h.who = .nobody) → let stays := fun (h : Held) => s.ioBarred && h.msg.isIo
      ∃ t, exec .retrainDone s = .next t ∧ t.ep = { s.ep with
        retrain := false, hold := s.ep.hold.filter stays, tx := s.ep.tx ++ (s.ep.hold.filter (fun h => !stays h)).map (·.msg) } ∧
        JustRegs { s with ep := t.ep } t) ∧
    (s.runs = true → s.ep.cont = .normal → exec .holdLimit s = .next s) ∧
    (∀ h rest x d, s.runs = true → s.ep.cont = .frozen → s.biConf = [] → s.flip = none → s.ep.hold = h :: rest → h.msg = .memWr x d →
      h.who = .nobody → (∀ e, e ∈ s.ep.hold → e.bad = false) → ∃ t, exec .holdLimit s = .next t ∧ t.ep = { s.ep with hold := rest } ∧
        t.fld Fld.EP_HELD_POISON_CNT_COUNT = (s.fld Fld.EP_HELD_POISON_CNT_COUNT + 1) % 2 ^ 48 ∧
        t.fld Fld.EP_CONT_HELD_POISONED = min (s.fld Fld.EP_CONT_HELD_POISONED + 1) 65535) ∧
    (∀ r w, (w = 0xA5000000 ∨ w = 0xA5000001) → WriteOk a s r Reg.EP_CONT_RELEASE w →
      let c : Instr := if w = 0xA5000000 then .releaseResume a 0xA5 else .releaseDiscard a 0xA5
      ((s.ep.linkUp = false ∨ bits (s.reg Reg.EP_CONT_STATUS) 3 0 ≠ 0 ∨ s.purges ≠ [] ∨ s.ideBad = true) →
        ∃ t, exec c s = .next t ∧ t.fld Fld.EP_CONT_STATUS_REL_REFUSED = 1 ∧ t.ep = s.ep ∧ JustRegs s t) ∧
      (s.ep.linkUp = true → bits (s.reg Reg.EP_CONT_STATUS) 3 0 = 0 → s.purges = [] → s.ideBad = false → s.ep.retrain = false →
        s.biConf = [] → s.flip = none →
        (w = 0xA5000000 → (∀ h, h ∈ s.ep.hold → h.bad = false ∧ h.who = .nobody) → (s.ioBarred = true → ∀ h, h ∈ s.ep.hold → h.msg.isIo = false) →
          ∃ t, exec c s = .next t ∧
          t.ep = { s.ep with cont := .normal, hold := [], tx := s.ep.tx ++ s.ep.hold.map (·.msg) } ∧ t.fld Fld.EP_CONT_STATUS_STATE = 0) ∧
        (∀ h rest, w = 0xA5000000 → s.ioBarred = true → s.ep.hold = h :: rest → h.bad = false → h.msg.isIo = true → ∃ t, exec c s = .next t ∧
          t.ep = { s.ep with cont := .releasing } ∧ t.fld Fld.EP_CONT_STATUS_STATE = 2) ∧
        (∀ h x d, w = 0xA5000001 → s.ep.hold = [h] → h.msg = .memWr x d → h.who = .nobody → h.bad = false → ∃ t, exec c s = .next t ∧
          t.ep = { s.ep with cont := .normal, hold := [] } ∧ t.fld Fld.EP_CONT_STATUS_STATE = 0 ∧
          t.fld Fld.EP_HELD_POISON_CNT_COUNT = (s.fld Fld.EP_HELD_POISON_CNT_COUNT + 1) % 2 ^ 48)))

/-- O42. The host's CXL.io requests: configuration words, doorbells, completion-queue consumer writes and the Gallery aperture, each
refused while the endpoint is frozen; vectors that are not masked leave, and a completion or its timeout ends the read of its tag.
Where a clause rests on a choice of the model: log entries 12, 49, 66. -/
def Obligations.HostAccesses : Prop :=
  ∀ (s : State),
    (∀ (off : BitVec 12) (v : W32), s.ioHere = true → off.toNat % 4 = 0 →
      exec (.configRequest false off .b4 v) s = .next (s.hostSend (.cfgRsp (s.cfgRead off.toNat)))) ∧
    (∀ v : W32, HostServed s → s.ep.hold = [] → s.biConf = [] → s.flip = none →
      (∃ t, exec (.configRequest true 4 .b4 v) s = .next t ∧ t.memEnable = v.getLsbD 1 ∧ t.busMaster = v.getLsbD 2 ∧
        t.cfgRead 4 = (s.cfgRead 4 &&& 0xFFFFFEB9 &&& ~~~(v &&& 0xF9000000)) ||| (v &&& 0x0146) ∧
        ∀ o, o ≠ 4 → t.cfgRead o = s.cfgRead o) ∧
      (∃ t, exec (.configRequest true 0x44 .b1 v) s = .next t ∧ (v.toNat % 4 = 3 → t.inD3 = true) ∧ (v.toNat % 4 = 0 → t.inD3 = false) ∧
        (v.toNat % 4 = 1 ∨ v.toNat % 4 = 2 → t.ep.cfg = s.ep.cfg))) ∧
    (∀ (q : Fin 4096) (v : W64), HostServed s → s.ideBad = false →
      let n := v.toNat % 2 ^ 32
      let d := s.sq q
      let dist := distance 32 d.tail.toNat n
      let bad : Prop := ∃ t, exec (.doorbell q v) s = .next t ∧ t.sqs = s.sqs ∧
        t.fld Fld.SQ_DB_BAD_CNT_COUNT = (s.fld Fld.SQ_DB_BAD_CNT_COUNT + 1) % 2 ^ 48
      ((d.st ≠ .enabled ∨ d.drain = true) → bad) ∧
      (d.st = .enabled → d.drain = false → dist = 0 → exec (.doorbell q v) s = .next s) ∧
      (d.st = .enabled → d.drain = false → 2 ^ 31 ≤ dist → bad) ∧
      (d.st = .enabled → d.drain = false → 0 < dist → dist < 2 ^ 31 → distance 32 d.head.toNat n ≤ 2 ^ d.log2 →
        ∃ t, exec (.doorbell q v) s = .next t ∧ t.sq q = { d with tail := BitVec.ofNat 32 n, dbs := d.dbs ++ [(BitVec.ofNat 32 n, s.aon.newel)] } ∧
          t.fld Fld.SQ_DB_CNT_COUNT = (s.fld Fld.SQ_DB_CNT_COUNT + 1) % 2 ^ 48 ∧ ∀ p, p ≠ q.val → t.sq p = s.sq p) ∧
      (d.st = .enabled → d.drain = false → 0 < dist → dist < 2 ^ 31 → 2 ^ d.log2 < distance 32 d.head.toNat n →
        ∃ t, exec (.doorbell q v) s = .next t ∧ t.sq q = { d with st := .error, half := none, miss := none, ret := 0 } ∧
          t.fld Fld.SQ_QERR_CNT_COUNT = (s.fld Fld.SQ_QERR_CNT_COUNT + 1) % 2 ^ 48)) ∧
    (∀ (q : Fin 4096) (v : W64), HostServed s →
      let n := v.toNat % 2 ^ 32
      let d := s.cq q
      (d.en = true → distance 32 n d.seq.toNat ≤ 2 ^ d.log2 → ∃ t, exec (.cqCons q v) s = .next t ∧ t.cq q = { d with cons := BitVec.ofNat 32 n } ∧
        t = { s with cqs := t.cqs } ∧ ∀ p, p ≠ q.val → t.cq p = s.cq p) ∧
      (d.en = false ∨ 2 ^ d.log2 < distance 32 n d.seq.toNat → ∃ t, exec (.cqCons q v) s = .next t ∧ JustRegs s t ∧
        t.fld Fld.SQ_DB_BAD_CNT_COUNT = (s.fld Fld.SQ_DB_BAD_CNT_COUNT + 1) % 2 ^ 48)) ∧
    (∀ (off : BitVec 31) (size : AccSize) (v : W64) (q : Fin 4096), s.ioHere = true → s.memEnable = true → s.inD3 = false → s.ep.cont = .frozen →
      exec (.doorbell q v) s = .next s.refused ∧ exec (.cqCons q v) s = .next s.refused ∧ exec (.bar4Write off size v) s = .next s.refused ∧
        exec (.bar4Read off size) s = .next s.refused.sendCa) ∧
    (∀ (off : BitVec 31) (size : AccSize), HostServed s → let l := bar4Bytes off.toNat size.bytes
      (s.tier0W * 256 < off.toNat + size.bytes → exec (.bar4Read off size) s = .next s.refused.sendCa) ∧
      (off.toNat + size.bytes ≤ s.tier0W * 256 → (∀ x, x ∈ l → s.hostDenied x = false) → exec (.bar4Read off size) s = .next
        (s.hostSend (.cpl (l.map s.byteAt) (l.any s.arrPoison))))) ∧
    (∀ (off : BitVec 31) (v : W64), let x := canon (galleryBase + off.toNat)
      let g := x / 64 * 64
      let b : Byte := BitVec.ofNat 8 v.toNat
      HostServed s → off.toNat < s.tier0W * 256 → s.hostDenied x = false → s.compat g = false → s.blocked g = false → s.conflict = [] →
      (s.dirGet g).st ≠ .m → (s.dirGet g).h = false → (s.dirGet g).cv = false → (s.dirGet g).ptrs = [] →
      exec (.bar4Write off .b1 v) s = .next (((s.homeMerge g [(x % 64, b)] false).dirPut g DirEnt.empty).settle)) ∧
    (∀ v : Fin 2048, let f := Fld.EP_INT_PEND_PEND (v.val / 32)
      s.runs = true → s.ep.linkUp = true → s.ep.retrain = false →
      ((s.fld f).testBit (v.val % 32) = true → s.intMode ≠ 0 → s.intBlocked = false → s.vecMasked v = false → s.ep.cont = .normal →
        exec (.vectorDelivery v) s = .next ((s.setFldBit f (v.val % 32) false).hostSend (s.vecMsg v))) ∧
      ((s.fld f).testBit (v.val % 32) = false ∨ s.intMode = 0 ∨ s.intBlocked = true ∨ s.vecMasked v = true →
        exec (.vectorDelivery v) s = .next s)) ∧
    (∀ (tag : Nat) (bytes : List Byte) y, s.ioHere = true → s.pulls = [] → s.staging = false → s.ioSent tag = some y → y.owner = .unit →
      let ans := fun (u : State) (r : Option (List Byte × Bool)) =>
        ({ u with ep := { u.ep with tags := u.ep.tags.map (fun z => if z = y then { z with ans := some r } else z) } } : State)
      (y.len ≤ bytes.length → exec (.cxlIoCompletion tag bytes true) s = .next (ans s (some (bytes.take y.len, false)))) ∧
      exec (.cxlIoCompletion tag bytes false) s =
        .next (ans (({ s with freeCtr := s.freeCtr + 1 } : State).cfgStatus 0x04 (28 + (Config.freeByte s.freeCtr).toNat % 2)) none) ∧
      exec (.completionTimeout tag) s = .next (ans ((s.cfgStatus 0x104 14).bump Fld.EP_CPL_TIMEOUT_CNT_COUNT 1) none)) ∧
    (∀ (k : Fin 2) (tr : BitVec 384), s.ioHere = true → let b : BitVec 2 := 1#2 <<< k.val
      (s.rot.sess = [] → ∀ sec, exec (.ideKm k sec tr) s = .next s) ∧
      (s.rot.sess ≠ [] → exec (.ideKm k false tr) s = .next { s with ep := { s.ep with ideKeys := s.ep.ideKeys ||| b } } ∧
        (s.ep.ideKeys &&& b = 0 → exec (.ideKm k true tr) s = .next s) ∧
        (s.ep.ideKeys &&& b ≠ 0 → exec (.ideKm k true tr) s = .next
          (({ s with ep := { s.ep with ideSec := s.ep.ideSec ||| b } } : State).hmExtend 7 0x0031 0 (natBe 48 tr.toNat)))))

/-- O43. Submission: descriptors are accepted in SEQ order, fetched again after a mismatch, and end the queue in an error at the
eighth; a command starts, waits for its Landing, or ends with its status; each type of descriptor then does its work. Where a clause
rests on a choice of the model: log entries 58, 62, 66, 121, 122, 134. -/
def Obligations.SubmissionOfCommands : Prop :=
  ∀ (s : State) (q : Fin 4096), s.inService = true →
    let v := s.sq q
    let at_ := v.base + 128 * (v.head.toNat % 2 ^ v.log2)
    -- the two parts in which a descriptor is read, as they find it in state x
    let rd := fun (x : State) => x.unitRead v.part at_ 64
    let rd2 := fun (x : State) => x.unitRead v.part (at_ + 64) 64
    let full := fun (w : State) (b : List Byte) (n : Nat) (c : Instr) => ∃ t, exec c s = .next t ∧ t.mem = w.mem ∧ t.sq q =
      { v with head := v.head + 1, half := none, miss := none, ret := 0, dbs := v.dbs.filter (fun e => e.1 != v.head + 1),
               cmds := v.cmds ++ [newCmd v.head.toNat b n (v.dbTime v.head.toNat)] }
    let accepts := fun (c : Instr) (x : State) (n : Nat) => ∀ u d, rd x = (u, some (some (d, false))) → u.sqs = x.sqs → at' d 0 4 = v.head.toNat →
      (∀ w e, rd2 u = (w, some (some (e, false))) → w.sqs = x.sqs → full w (d ++ e) n c) ∧
      (∀ w, rd2 u = (w, none) → w.sqs = x.sqs → ∃ t, exec c s = .next t ∧ t.sq q = { x.sq q with half := some d })
    let errs := fun (c : Instr) (u : State) (why : Nat) => ∃ t, exec c s = .next t ∧
      t.sq q = { v with st := .error, half := none, miss := none, ret := 0 } ∧
      t.fld Fld.SQ_QERR_CNT_COUNT = (u.fld Fld.SQ_QERR_CNT_COUNT + 1) % 2 ^ 48 ∧
      ∃ r, (t.cq v.cq).recs = (u.cq v.cq).recs ++ [r] ∧ r.status = 7 ∧ r.detail = why ∧ r.seq = v.head.toNat
    (v.st = .enabled → v.drain = false → v.head ≠ v.tail → v.waiting.length ≤ 16 →
      (v.half = none → v.miss = none → accepts (.descriptorFetch q false) s 0 ∧ errs (.descriptorFetch q true) s 3 ∧
        ∀ u d, rd s = (u, some (some (d, false))) → u.sqs = s.sqs → at' d 0 4 ≠ v.head.toNat →
          ∃ t, exec (.descriptorFetch q false) s = .next t ∧ t.sq q = { v with miss := some 0 }) ∧
      (∀ n, v.half = none → v.miss = some n → v.ret < n → accepts (.descriptorFetch q false) s n) ∧
      (∀ d w e, v.half = some d → rd2 s = (w, some (some (e, false))) → w.sqs = s.sqs → full w (d ++ e) (v.miss.getD 0) (.descriptorFetch q false))) ∧
    (v.st = .disabled ∨ v.st = .error ∨ v.head = v.tail → ∀ e, exec (.descriptorFetch q e) s = .next s) ∧
    (∀ n, v.st = .enabled → v.drain = false → v.miss = some n → v.half = none → n < 8 →
      let b := (s.bump Fld.SQ_REFETCH_CNT_COUNT 1).setSq q { v with miss := some (n + 1) }
      accepts (.refetch q) b (n + 1) ∧ ∀ u d, rd b = (u, some (some (d, false))) → u.sqs = b.sqs → at' d 0 4 ≠ v.head.toNat →
        (v.ret < 7 → ∃ t, exec (.refetch q) s = .next t ∧ t.sq q = { v with miss := some (n + 1), ret := v.ret + 1 }) ∧
        (7 ≤ v.ret → errs (.refetch q) u 1)) ∧
    (v.miss = none ∨ v.half ≠ none ∨ v.miss = some 8 → exec (.refetch q) s = .next s) ∧
    (∀ c, NextUp s q c →
      let lst := (s.flight v.part (at' c.desc 7 1)).st
      let good : Prop := c.landed = false ∧ s.fieldBad q c.desc = none ∧ descType c.desc ≠ 1 ∧ (descType c.desc = 2 → s.modelBad q c.desc = none)
      let fired := (s.flight v.part (at' c.desc 7 1)).firedAt
      -- the start bound runs from the later of the doorbell and the firing of a Landing
      let from_ := fun (d : Cmd) => if descFlag c.desc 3 then (if (fired - d.db).toNat < 2 ^ 63 then fired else d.db) else d.ref
      let becomes := fun (f : Cmd → Cmd) => ∃ t, exec (.commandStart q) s = .next t ∧
        t.sq q = { v with cmds := v.cmds.map (fun d => if d.seq = c.seq then f d else d) } ∧ t.cores = s.cores ∧ t.mem = s.mem
      let ends := fun (status detail : Nat) => ∃ t, exec (.commandStart q) s = .next t ∧ Rejected s t q c status detail
      (∀ o, c.landed = false → s.fieldBad q c.desc = some o → ends 4 o) ∧
      (∀ o, c.landed = false → s.fieldBad q c.desc = none → descType c.desc = 2 → s.modelBad q c.desc = some o → ends 4 o) ∧
      (c.landed = true → v.cls ≠ 0 → becomes (fun d => { d with st := .running })) ∧
      (∀ u r, c.landed = false → s.fieldBad q c.desc = none → descType c.desc = 1 → s.virtRead v.part v.tag (at' c.desc 0x10 8) 32 = (u, r) → u.sqs = s.sqs →
        let starts := fun (b : List Byte) => descFlag c.desc 3 = false → v.cls ≠ 0 → ∃ t, exec (.commandStart q) s = .next t ∧
          t.sq q = { v with cmds := v.cmds.map (fun d => if d.seq = c.seq then { d with blk := b, st := .running } else d) } ∧ t.cores = u.cores ∧ t.mem = u.mem
        (r = none → exec (.commandStart q) s = .next u) ∧ (r = some none → starts []) ∧
        ∀ b, r = some (some b) → (blkBad b = none → starts b) ∧ (∀ o, blkBad b = some o → ∃ t, exec (.commandStart q) s = .next t ∧ Rejected u t q c 4 o) ∧
          ∀ e, blkBad b = none → descFlag c.desc 3 = false → v.cls = 0 →
            (u.modCmd q c.seq (fun d => { d with blk := b })).admission q c.desc = .error e → ∃ t, exec (.commandStart q) s = .next t ∧ Rejected u t q c 3 e) ∧
      (good → descFlag c.desc 3 = true → (lst = .armed → becomes (fun d => { d with blk := [], st := .waitLanding })) ∧ (lst = .cancelled → ends 8 1) ∧
        (lst = .empty → ends 8 2)) ∧
      (good → (descFlag c.desc 3 = true → lst = .fired) → v.cls ≠ 0 → becomes (fun d => { d with blk := [], ref := from_ d, st := .running })) ∧
      (∀ e, good → (descFlag c.desc 3 = true → lst = .fired) → v.cls = 0 → s.admission q c.desc = .error e → ends 3 e) ∧
      (good → (descFlag c.desc 3 = true → lst = .fired) → v.cls = 0 → s.admission q c.desc = .ok (0, 0) → s.heldCores = [] →
        becomes (fun d => { d with blk := [], ref := from_ d, st := .running, class0 := true, cores := [], bound := 0 }))) ∧
    (∀ c, s.startedCmd q c.seq 1 = some c → c.seq < 2 ^ 32 →
      (c.blk ≠ [] → ∃ t, exec (.kernel q (BitVec.ofNat 32 c.seq)) s = .next t ∧ t.mem = s.mem ∧ t.cores = s.cores ∧ t.sq q = { v with cmds := v.cmds.map (fun d =>
        if d.seq = c.seq then { d with args := kernelArgs q d.seq d.desc, begun := true, placed := 0, total := kX d.blk * kY d.blk * kZ d.blk } else d) }) ∧
      (c.blk = [] → exec (.kernel q (BitVec.ofNat 32 c.seq)) s = .next (s.endNow q c.seq 2 0))) ∧
    (∀ c i g w, s.startedCmd q c.seq 2 = some c → c.seq < 2 ^ 32 → c.taken = false → s.streamBusy (mStream c.desc) q c.seq = false →
      s.img (mImage c.desc) = some i → s.brokenAt (mStream c.desc) = none → s.lostFor c = none → s.page (.input (mStream c.desc)) 0 = some g →
      g.tier = 0 → (∀ m, m ∈ s.moves → m.owner ≠ .input (mStream c.desc)) → descFlag c.desc 4 = false →
      let b := (c.desc.drop 0x20).take (at' c.desc 6 1)
      b ≠ [] → s.unitWrite v.part .nobody g.phys b = (w, true) →
      let u := (w.modCmd q c.seq (fun d => { d with inlen := some b.length })).tierPump
      exec (.model q (BitVec.ofNat 32 c.seq)) s = .next ((List.range (min (u.fld Fld.TIER_CTL_LEAD) (mSteps c.desc * i.layers))).foldl (fun x g =>
        match x.cmd q c.seq with
        | some d => if d.cancel then x else x.fireEntry q d g
        | none => x) u)) ∧
    (∀ c n rest, s.startedCmd q c.seq 3 = some c → c.seq < 2 ^ 32 → s.xferNext q c = true → s.freeChans v.part = n :: rest → at' c.desc 6 1 ≠ 0 →
      ∃ t x, exec (.transfer q (BitVec.ofNat 32 c.seq)) s = .next t ∧ t.chan n = some x ∧ x.team = q ∧ x.seq = c.seq ∧ x.sl = true ∧ x.dl = false ∧
        x.len = at' c.desc 6 1 ∧ x.dst.toNat = at' c.desc 0x10 8 % 2 ^ 64 ∧ x.done = 0 ∧ t.mem = s.mem ∧
        t.sq q = { v with cmds := v.cmds.map (fun d => if d.seq = c.seq then { d with begun := true } else d) }) ∧
    (∀ c, s.startedCmd q c.seq 3 = some c → c.seq < 2 ^ 32 → s.freeChans v.part = [] ∨ s.xferNext q c = false → exec (.transfer q (BitVec.ofNat 32 c.seq)) s = .next s) ∧
    (∀ c, Alone s q v c 4 → c.seq < 2 ^ 32 → ∃ t r, exec (.nopDescriptor q (BitVec.ofNat 32 c.seq)) s = .next t ∧
      (t.sq q).cmds = [] ∧ t.cq v.cq = { s.cq v.cq with recs := (s.cq v.cq).recs ++ [r] } ∧ r.sq = q ∧ r.seq = c.seq ∧ r.status = 0 ∧
      r.user = BitVec.ofNat 64 (at' c.desc 8 8) ∧ t.cores = s.cores ∧ (descFlag c.desc 0 = false → t.mem = s.mem)) ∧
    (∀ c i longest, Alone s q v c 5 → c.seq < 2 ^ 32 → let h := at' c.desc 0x10 2 % 4096
      s.img h = some i → i.part = v.part → i.resident = true → (∀ n, n ∈ qLens c.desc → s.qualHolds v.part i n = true) →
      longest.length = (qLens c.desc).length →
      ∃ t r, exec (.qualify q (BitVec.ofNat 32 c.seq) longest false) s = .next t ∧ (t.sq q).cmds = [] ∧
        t.cert h = some ⟨v.part, qCores c.desc, (qLens c.desc).zip (longest.map stepBound)⟩ ∧ (t.cq v.cq).recs = (s.cq v.cq).recs ++ [r] ∧ r.status = 0) ∧
    (∀ c i longest full, Alone s q v c 5 → c.seq < 2 ^ 32 → s.img (at' c.desc 0x10 2 % 4096) = some i →
      i.part = v.part → i.resident = true → full = true ∨ (∃ n, n ∈ qLens c.desc ∧ s.qualHolds v.part i n = false) →
      ∃ t r, exec (.qualify q (BitVec.ofNat 32 c.seq) longest full) s = .next t ∧ t.certs = s.certs ∧
        (t.cq v.cq).recs = (s.cq v.cq).recs ++ [r] ∧ r.status = 9 ∧ r.detail = 0xFF) ∧
    (v.cls ≠ 2 → exec (.bgAge q) s = .next s) ∧
    (∀ c, v.cls = 2 → v.cmds.find? (fun d => (d.unplaced || d.wantsChan) && !d.aged) = some c → ∃ t, exec (.bgAge q) s = .next t ∧ t = { s with sqs := t.sqs } ∧
      t.sq q = { v with cmds := v.cmds.map (fun d => if d.seq = c.seq then { d with aged := true } else d) })

/-- O44. Completion queues and SQ_ commands: a record is written head first and its last eight bytes after, the vector follows the
coalescing rules, and create, destroy, reset, drain, cancel and read end with the result of Table 11.11. Where a clause rests on a
choice of the model: log entries 27, 62. -/
def Obligations.CompletionsAndQueueCommands : Prop :=
  ∀ (a : Agent) (ch : Fin 4) (q : Fin 4096) (s : State),
    let v := s.sq q
    let c := s.cq q
    let go := Fld.SQ_CMD_GO ch
    let done := Fld.SQ_CMD_STATUS_DONE ch
    let res := Fld.SQ_CMD_STATUS_RESULT ch
    let word := fun (op : Nat) => 2 ^ 31 + op * 2 ^ 27 + q.val
    let ok := fun (w : Nat) => ∃ r, WriteOk a s r (Reg.SQ_CMD ch) w
    let ends := fun (i : Instr) (r : Nat) (p : State → Prop) => ∃ t, exec i s = .next t ∧ Ended t go done res r ∧ p t ∧ t.mem = s.mem ∧ t.cores = s.cores
    let same := fun (t : State) => t.sqs = s.sqs ∧ t.cqs = s.cqs
    let base := s.fld (Fld.SQ_CMD_BASE_BASE ch)
    (s.inService = true → Quiet s → (∀ n e, e ∈ (s.core n).teamList → e.2.lent = false) → s.sqFree 4 →
      (c.recs = [] → exec (.completionRecord q) s = .next s) ∧
      (c.recs ≠ [] → c.en = false ∨ 2 ^ c.log2 ≤ distance 32 c.cons.toNat c.seq.toNat → exec (.completionRecord q) s = .next s) ∧
      (∀ r rest u w, c.recs = r :: rest → c.en = true → distance 32 c.cons.toNat c.seq.toNat < 2 ^ c.log2 → r.flags % 2 = 0 → c.vec < 2048 →
        let x := c.base + 32 * (c.seq.toNat % 2 ^ c.log2)
        isHostRange x = false → s.unitWrite c.part .nobody x (recHead r) = (u, true) →
        u.unitWrite c.part (.record q r.intr) (x + 0x18) (recTail r c.log2 c.seq.toNat) = (w, true) → w.cqs = s.cqs → w.sqFree 4 →
        ∃ t, exec (.completionRecord q) s = .next t ∧ t.mem = w.mem ∧ t.l2 = w.l2 ∧
          let now : Prop := r.intr = true ∨ (c.coalN ≠ 0 ∧ c.coalN ≤ c.unsig + 1)
          (now → t.cq q = { c with recs := rest, seq := c.seq + 1, unsig := 0 } ∧ (t.fld (Fld.EP_INT_PEND_PEND (c.vec / 32))).testBit (c.vec % 32) = true) ∧
          (¬ now → t.cq q = { c with recs := rest, seq := c.seq + 1, unsig := c.unsig + 1 } ∧ t.regs = w.regs))) ∧
    (s.inService = true → (c.coalT = 0 ∨ c.unsig = 0 → exec (.coalTimeout q) s = .next s) ∧
      (c.coalT ≠ 0 → 0 < c.unsig → c.vec < 2048 → ∃ t, exec (.coalTimeout q) s = .next t ∧ t.cq q = { c with unsig := 0 } ∧
        (t.fld (Fld.EP_INT_PEND_PEND (c.vec / 32))).testBit (c.vec % 32) = true)) ∧
    (∀ (cls : BitVec 2) (part : Fin 16) (log2 : BitVec 5), let p := part.val
      let w := word 0 + cls.toNat * 2 ^ 25 + p * 2 ^ 21 + log2.toNat * 2 ^ 16
      let i : Instr := .createSq a ch q cls part log2
      let tag := s.fld (Fld.SQ_CMD_ARG_TAG ch)
      let cq := s.fld (Fld.SQ_CMD_ARG_CQ ch)
      let seq := BitVec.ofNat 32 (s.fld (Fld.SQ_CMD_ARG_SEQ ch))
      ok w →
      (s.ringBad p base log2.toNat (128 * 2 ^ log2.toNat) = true ∨ (s.cq cq).en = false ∨ (s.cq cq).part ≠ p → ends i 1 same) ∧
      (s.ringBad p base log2.toNat (128 * 2 ^ log2.toNat) = false → (s.cq cq).en = true → (s.cq cq).part = p → tag = 0 →
        (a = .host ∨ (cls = 0 ∧ s.hasRes p = false) ∨ v.st ≠ .disabled → ends i 2 same) ∧
        (a = .firmware → (cls = 0 → s.hasRes p = true) → v.st = .disabled → ends i 0 (fun t =>
          t.sq q = ⟨.enabled, p, cls.toNat, 0, cq, base, log2.toNat, seq, seq, false, none, none, 0, [], false, []⟩)))) ∧
    (∀ (part : Fin 16) (log2 : BitVec 5), let p := part.val
      let i : Instr := .createCq a ch q part log2
      ok (word 1 + p * 2 ^ 21 + log2.toNat * 2 ^ 16) →
      let bad := s.ringBad p base log2.toNat (32 * 2 ^ log2.toNat)
      (bad = true → ends i 1 same) ∧ (bad = false → c.en = true → ends i 2 same) ∧
      (bad = false → c.en = false → a = .firmware ∨ s.hostMay p 1 = true → ends i 0 (fun t => t.sqs = s.sqs ∧ t.cq q = ⟨true, p, base, log2.toNat, 0, 0,
        s.fld (Fld.SQ_CMD_CQCFG_VEC ch), s.fld (Fld.SQ_CMD_CQCFG_COAL_N ch), s.fld (Fld.SQ_CMD_CQCFG_COAL_T ch), 0, []⟩))) ∧
    (ok (word 2) → (v.st = .disabled → ends (.destroySq a ch q) 1 same) ∧
      (v.st ≠ .disabled → v.cmds ≠ [] → ends (.destroySq a ch q) 3 same) ∧
      (v.st ≠ .disabled → v.cmds = [] → (∀ r, r ∈ (s.cq v.cq).recs → r.sq ≠ q.val) → ends (.destroySq a ch q) 0 (fun t => t.sq q = Sq.empty))) ∧
    (ok (word 3) → (c.en = false → ends (.destroyCq a ch q) 1 same) ∧ (c.en = true → c.recs ≠ [] → ends (.destroyCq a ch q) 3 same) ∧
      (c.en = true → c.recs = [] → (∀ e, e ∈ s.sqs → e.2.st ≠ .disabled → e.2.cq ≠ q.val) → ends (.destroyCq a ch q) 0 (fun t => t.cq q = Cq.empty))) ∧
    (ok (word 4) → (v.st = .disabled → ends (.resetSq a ch q) 1 same) ∧ (v.st ≠ .disabled → ends (.resetSq a ch q) 0 (fun t =>
      let n := BitVec.ofNat 32 (s.fld (Fld.SQ_CMD_ARG_SEQ ch))
      let run := v.cmds.filter (fun x => x.st == .running)
      t.sq q = { v with st := .enabled, head := n, tail := n, half := none, miss := none, ret := 0, drain := false, dbs := [], cmds := run }))) ∧
    (ok (word 5) → s.sqFree ch → (v.st = .disabled → ends (.drainSq a ch q) 1 same) ∧
      (v.st ≠ .disabled → (∀ x, x ∈ v.cmds → x.st ≠ .running) → (∀ r, r ∈ (s.cq v.cq).recs → r.sq ≠ q.val) →
        ∃ t, exec (.drainSq a ch q) s = .next t ∧ Ended t go done res 0 ∧ t.mem = s.mem ∧ t.cores = s.cores ∧
          t.sq q = { v with st := if v.st = .error then .error else .drained, drain := false }) ∧
      (∀ x, v.st ≠ .disabled → x ∈ v.cmds → x.st = .running → ∃ t, exec (.drainSq a ch q) s = .next t ∧ t.fld go = 1 ∧ t.sq q = { v with drain := true })) ∧
    (ok (word 6) → s.sqFree ch → (v.st = .disabled → ends (.cancelSq a ch q) 1 same) ∧
      (v.st ≠ .disabled → v.cls = 0 → v.waiting = [] → (∀ x, x ∈ v.cmds → x.cancel = false) → (∀ r, r ∈ (s.cq v.cq).recs → r.sq ≠ q.val) →
        ends (.cancelSq a ch q) 0 same) ∧
      (∀ x, v.st ≠ .disabled → v.cls = 0 → v.cmds = [x] → x.st = .fetched → ∃ t, exec (.cancelSq a ch q) s = .next t ∧ t.fld go = 1 ∧ Rejected s t q x 6 0)) ∧
    (ok (word 7) → ends (.readSq a ch q) 0 (fun t => same t ∧ t.fld (Fld.SQ_CMD_VIEW_HI ch) = v.tail.toNat ∧ t.fld (Fld.SQ_CMD_VIEW_LO ch) = v.head.toNat ∧
      t.fld (Fld.SQ_CMD_STATUS_QSTATE ch) = (match v.st with | .disabled => 0 | .enabled => 1 | .error => 2 | .drained => 3))) ∧
    (ok (word 8) → ends (.readCq a ch q) 0 (fun t => same t ∧ t.fld (Fld.SQ_CMD_VIEW_HI ch) = c.seq.toNat ∧ t.fld (Fld.SQ_CMD_VIEW_LO ch) = c.cons.toNat ∧
      t.fld (Fld.SQ_CMD_STATUS_QSTATE ch) = if c.en then 1 else 0))

/-- O45. Commands of the tier manager: a host without permission is refused, an undefined partition and an image handle above 4,095
are argument errors, and the commands complete: unregister, open stream, close stream, read image and read stream at once, register,
reside and extend at their last step, which TIER_COMMAND_DONE takes; each with its RESULT and its effect on images, streams and pages
(R359 to R365, R378, Table 12.3, TIER_CMD_STATUS). Where a clause rests on a choice of the model: log entries 58, 59, 65. -/
def Obligations.TierCommands : Prop :=
  ∀ (a : Agent) (ch : Fin 4) (id : W16) (part : Fin 16) (s : State),
    let n := id.toNat
    let p := part.val
    let go := Fld.TIER_CMD_GO ch
    let done := Fld.TIER_CMD_STATUS_DONE ch
    let res := Fld.TIER_CMD_STATUS_RESULT ch
    let word := fun (op : Nat) => 2 ^ 31 + op * 2 ^ 27 + p * 2 ^ 21 + n
    let val := s.fld (Fld.TIER_CMD_ADDR_ADDR ch)
    let may : Prop := (a = .firmware ∨ s.hostMay p 2 = true) ∧ s.definedPart p = true
    let does := fun (i : Instr) (w r : Nat) (q : State → Prop) => (∃ z, WriteOk a s z (Reg.TIER_CMD ch) w) →
      ∃ t, exec i s = .next t ∧ Ended t go done res r ∧ q t ∧ t.mem = s.mem
    let goes := fun (i : Instr) (w : Nat) (q : State → Prop) => (∃ z, WriteOk a s z (Reg.TIER_CMD ch) w) →
      ∃ t, exec i s = .next t ∧ t.fld go = 1 ∧ q t ∧ t.pages = s.pages ∧ t.streams = s.streams
    let same := fun (t : State) => t.imgs = s.imgs ∧ t.streams = s.streams ∧ t.pages = s.pages
    let all := fun (r : Nat) => (∀ (tier : BitVec 2) (src : Bool), does (.register a ch id tier part src)
          (word 0 + tier.toNat * 2 ^ 25 + if src then 2 ^ 20 else 0) r same) ∧
      does (.unregister a ch id part) (word 1) r same ∧ (∀ arg : BitVec 2, does (.reside a ch id part arg) (word 2 + arg.toNat * 2 ^ 25) r same) ∧
      does (.readImage a ch id part) (word 6) r same
    let ofStream := fun (r : Nat) => does (.openStream a ch id part) (word 3) r same ∧ does (.closeStream a ch id part) (word 4) r same ∧
      does (.extend a ch id part) (word 5) r same ∧ does (.readStream a ch id part) (word 7) r same
    (a = .host → s.hostMay p 2 = false → all 2 ∧ ofStream 2) ∧
    ((a = .firmware ∨ s.hostMay p 2 = true) → s.definedPart p = false → all 1 ∧ ofStream 1) ∧
    (may → 4095 < n → all 1) ∧
    (∀ tier : BitVec 2, may → n ≤ 4095 → let w := word 0 + tier.toNat * 2 ^ 25
      (s.img n ≠ none → does (.register a ch id tier part false) w 2 same) ∧
      ((∀ k, k < 4 → k ≠ ch.val → s.fldB (Fld.TIER_CMD_GO k) = false) → s.img n = none →
        (tier = 0 ∨ s.fld (Fld.TIER_CMD_LEN_LEN ch) < 128 → does (.register a ch id tier part false) w 1 same) ∧
        (tier = 1 ∨ tier = 2 → 128 ≤ s.fld (Fld.TIER_CMD_LEN_LEN ch) → goes (.register a ch id tier part false) w (fun t => JustRegs s t)) ∧
        (tier = 1 ∨ tier = 2 → 128 ≤ s.fld (Fld.TIER_CMD_LEN_LEN ch) → (∃ z, WriteOk a s z (Reg.TIER_CMD ch) (w + 2 ^ 20)) →
          ∃ u, JustRegs s u ∧ u.fld go = 1 ∧ exec (.register a ch id tier part true) s = .next (u.fetchStart ch)))) ∧
    (may → n ≤ 4095 → let i : Instr := .unregister a ch id part
      (s.img n = none → does i (word 1) 1 same) ∧
      (∀ m, s.img n = some m → m.part ≠ p → does i (word 1) 1 same) ∧
      (∀ m, s.img n = some m → m.part = p → s.imgBusy n = true → does i (word 1) 3 same) ∧
      (∀ m, s.img n = some m → m.part = p → s.imgBusy n = false → m.res = .home → s.streams = [] → s.certs = [] → s.pages = [] →
        does i (word 1) 0 (fun t => t.img n = none ∧ ∀ k, k ≠ n → t.img k = s.img k))) ∧
    (∀ (arg : BitVec 2) m, may → n ≤ 4095 → s.img n = some m → let i : Instr := .reside a ch id part arg
      let w := word 2 + arg.toNat * 2 ^ 25
      (m.part = p → s.imgBusy n = true → does i w 3 same) ∧
      (m.part = p → s.imgBusy n = false → m.res ≠ .changing → arg ≠ 0 → s.hasRes p = false → does i w 2 same) ∧
      (m.part = p → s.imgBusy n = false → arg = 0 → m.res = .home → does i w 0 same) ∧
      (m.part = p → s.imgBusy n = false → arg = 0 → m.res = .gallery ∨ m.res = .locked →
        goes i w (fun t => t.img n = some { m with res := .changing, was := m.res })) ∧
      (let fits := m.segPages.length ≤ s.galRes p - s.pagesIn (fun q t pool c => q == p && t == 0 && !pool && c) ∧
         m.segPages.length ≤ s.quota p 0 - s.quotaUsed p 0
       m.part = p → s.imgBusy n = false → s.hasRes p = true → arg = 1 → m.res = .home ∨ m.res = .locked →
        (fits → goes i w (fun t => t.img n = some { m with res := .changing, was := m.res })) ∧ (¬ fits → does i w 5 same)) ∧
      (let fits := (m.segs.map (·.slen)).sum ≤ s.fld (Fld.SQ_PART_RES_WAYS p) * 0x800000
       m.part = p → s.imgBusy n = false → s.hasRes p = true → arg = 2 → m.res = .home ∨ m.res = .gallery →
        (fits → goes i w (fun t => t.img n = some { m with res := .changing, was := m.res })) ∧ (¬ fits → does i w 5 same))) ∧
    (may → let i : Instr := .openStream a ch id part
      let h := s.fld (Fld.TIER_CMD_AUX_IMAGE ch)
      (s.img h = none → does i (word 3) 2 same) ∧ (s.strm n ≠ none → does i (word 3) 2 same) ∧
      (∀ m, s.img h = some m → s.strm n = none → m.part = p → val = 0 ∨ m.maxctx < val → does i (word 3) 1 same) ∧
      (∀ m, s.img h = some m → s.strm n = none → m.part = p → 0 < val → val ≤ m.maxctx →
        (∀ va, s.nextVa p (m.layers * ceilDiv val m.perPage + 1) = some va → does i (word 3) 0 (fun t =>
          t.strm n = some ⟨h, p, val, 0, false, va⟩ ∧ t.imgs = s.imgs ∧ t.pages = s.pages)) ∧
        (s.nextVa p (m.layers * ceilDiv val m.perPage + 1) = none → does i (word 3) 5 same))) ∧
    (may → let i : Instr := .closeStream a ch id part
      (s.strm n = none → does i (word 4) 1 same) ∧
      (∀ v, s.strm n = some v → v.part = p → s.strmBusy n = true → does i (word 4) 3 same) ∧
      (∀ v, s.strm n = some v → v.part = p → s.strmBusy n = false → does i (word 4) 0 (fun t => t.strm n = none ∧ t.imgs = s.imgs ∧
        t.pages = s.pages.filter (fun g => !(POwner.ofStream n g.owner))))) ∧
    (may → let i : Instr := .extend a ch id part
      (s.strm n = none → does i (word 5) 1 same) ∧
      (∀ v, s.strm n = some v → v.part ≠ p ∨ val ≤ v.pos ∨ v.maxpos < val → does i (word 5) 1 same) ∧
      (∀ v, s.strm n = some v → v.part = p → v.pos < val → val ≤ v.maxpos → goes i (word 5) (fun t => JustRegs s t))) ∧
    (may → n ≤ 4095 → let i : Instr := .readImage a ch id part
      (s.img n = none → does i (word 6) 0 (fun t => same t ∧ t.reg (Reg.TIER_CMD_VIEW ch) = 0 ∧ t.reg (Reg.TIER_CMD_VIEW2 ch) = 0)) ∧
      (∀ m, s.img n = some m → m.home < 4 → does i (word 6) 0 (fun t => same t ∧ t.fld (Fld.TIER_CMD_VIEW_RES ch) = m.res.code ∧
        t.fld (Fld.TIER_CMD_VIEW_HOME ch) = m.home ∧ t.fldB (Fld.TIER_CMD_VIEW_LOST ch) = m.lost ∧ t.fldB (Fld.TIER_CMD_VIEW_VALID ch) = true ∧
        t.fld (Fld.TIER_CMD_VIEW_VA ch) = m.va % 2 ^ 48))) ∧
    (may → let i : Instr := .readStream a ch id part
      (s.strm n = none → does i (word 7) 0 (fun t => same t ∧ t.reg (Reg.TIER_CMD_VIEW ch) = 0 ∧ t.reg (Reg.TIER_CMD_VIEW2 ch) = 0)) ∧
      (∀ v, s.strm n = some v → does i (word 7) 0 (fun t => same t ∧ t.fldB (Fld.TIER_CMD_VIEW_LOST ch) = v.broken ∧
        t.fldB (Fld.TIER_CMD_VIEW_VALID ch) = true ∧ t.fld (Fld.TIER_CMD_VIEW_VA ch) = v.va % 2 ^ 48 ∧ t.fld (Fld.TIER_CMD_VIEW2_POS ch) = v.pos % 2 ^ 32))) ∧
    (s.inService = true →
      let ends := fun (r : Nat) (q : State → Prop) => ∃ t, exec (.tierCommandDone ch) s = .next t ∧ Ended t go done res r ∧ q t
      let h := s.fld (Fld.TIER_CMD_ID ch)
      let op := s.fld (Fld.TIER_CMD_OP ch)
      -- no access still uses a page of the tier-0 copy
      let still := ∀ g, g ∈ s.pages → g.owner = .copy h → s.pageBusy g.phys = false
      (s.fldB go = false → exec (.tierCommandDone ch) s = .next s) ∧
      (∀ m, s.fldB go = true → op = 2 → s.img h = some m → s.fld (Fld.TIER_CMD_ARG ch) = 0 → still → ends 0 (fun t =>
        t.img h = some { m with res := .home, was := .home, lost := m.lost || s.pages.any (fun g => g.owner == .image h && g.lost) } ∧ t.pages = s.pages.filter (fun g => !(g.owner == .copy h)))) ∧
      (∀ m u, s.fldB go = true → op = 2 → s.img h = some m → s.fld (Fld.TIER_CMD_ARG ch) = 1 →
        (s.toGallery h m = (u, .go) → ends 0 (fun t => (∃ x, t.img h = some x ∧ x.res = .gallery ∧ x.part = m.part) ∧ t.pages = u.pages ∧ t.mem = u.mem)) ∧
        (∀ r, s.toGallery h m = (u, .fail r) → ends (r % 8) (fun t => (∃ x, t.img h = some x ∧ x.res = .home ∧ x.part = m.part) ∧
          t.pages = u.pages.filter (fun g => !(g.owner == .copy h)) ∧ t.mem = u.mem))) ∧
      (∀ m u v, s.fldB go = true → op = 2 → s.img h = some m → s.fld (Fld.TIER_CMD_ARG ch) = 2 → still → s.placeRun h m = (u, .go) →
        u.lockSegs h m = (v, .go) → ends 0 (fun t => (∃ x, t.img h = some x ∧ x.res = .locked ∧ x.part = m.part) ∧ t.l2 = v.l2 ∧ t.mem = v.mem)) ∧
      (∀ v m u, s.fldB go = true → op = 5 → s.strm h = some v → s.img v.image = some m →
        (∀ x y, s.takePages h v.part (m.newPages v.pos val) = (u, .got x y) → ends 0 (fun t => t.strm h = some { v with pos := val } ∧ t.pages = u.pages ∧
          t.mem = u.mem ∧ ∀ l k, (l, k) ∈ m.newPages v.pos val → t.page (.stream h l) k ≠ none)) ∧
        (s.takePages h v.part (m.newPages v.pos val) = (u, .noSpace) → ends 5 (fun t => t.strm h = u.strm h ∧ t.pages = u.pages))) ∧
      (∀ u, s.fldB go = true → op = 0 → s.regSource ch = (u, some none) → ends 6 (fun t => t.imgs = u.imgs)) ∧
      (∀ u b, s.fldB go = true → op = 0 → s.regSource ch = (u, some (some b)) →
        readHead (b.take 128) (s.fld (Fld.TIER_CMD_LEN_LEN ch)) = none → ends 1 (fun t => t.imgs = u.imgs)) ∧
      (∀ u v w b hd body segs x va, s.fldB go = true → op = 0 → s.regSource ch = (u, some (some b)) →
        let len := s.fld (Fld.TIER_CMD_LEN_LEN ch)
        let q := s.fld (Fld.TIER_CMD_PARTITION ch)
        let key := SMap.get noSlot (u.keys q).slots (u.fld (Fld.TIER_CMD_AUX_KEY ch))
        let c := ceilDiv (len - 128) 0x100000
        readHead (b.take 128) len = some hd → key ≠ [] → openChunks key (b.take 128) c c 0 (b.drop 128) = some body → sha384 body = hd.digest →
        readSegs hd (b.take 128 ++ body) = some segs → u.homePages h q (s.fld (Fld.TIER_CMD_ARG ch)) (ceilDiv len 0x10000) = (v, x) →
        (∃ y z, x = .got y z) → v.nextVa q (ceilDiv len 0x10000) = some va →
        v.writeImage h (patchImage hd va (b.take 128 ++ body)) (ceilDiv len 0x10000) = (w, true) →
        ends 0 (fun t => t.mem = w.mem ∧ ∃ i, t.img h = some i ∧ i.part = q ∧ i.home = s.fld (Fld.TIER_CMD_ARG ch) ∧ i.res = .home ∧ i.lost = false ∧
          i.digest = hd.digest ∧ i.va = va ∧ i.layers = hd.layers ∧ i.ilen = hd.ilen)))

/-- O46. Moves of pages, layers of a MODEL command and catalogue fetches: a move ends with the page in its new tier or is given up, a
layer is launched once its entry is complete, a fetch gathers its ranges, asks again for what is missing, and fails after the last
try. Where a clause rests on a choice of the model: log entries 58, 60, 61, 65. -/
def Obligations.MovesLayersAndFetches : Prop :=
  ∀ (s : State), s.inService = true →
    (∀ (k : Nat) (e : Bool), (s.moves[k]? = none → exec (.pageMove k e) s = .next s) ∧
      (∀ m, s.moves[k]? = some m → s.page m.owner m.idx = none → exec (.pageMove k e) s = .next (s.dropMove m))) ∧
    (∀ (k : Nat) m g, s.moves[k]? = some m → s.page m.owner m.idx = some g → s.still →
      exec (.pageMove k true) s = .next (s.dropMove m) ∧
      (s.pageBusy g.phys = true → exec (.pageMove k false) s = .next s) ∧
      (∀ u w b, s.pageBusy g.phys = false → m.toT < 2 → g.tier < 2 → s.unitRead g.part g.phys 0x10000 = (u, some (some (b, false))) →
        u.unitWrite g.part .nobody m.phys b = (w, true) → w.still →
        ∃ t, exec (.pageMove k false) s = .next t ∧ t.mem = w.mem ∧
          t.moves = w.moves.filter (fun x => !(x.owner == m.owner && x.idx == m.idx)) ∧
          t.pages = w.pages.map (fun y => if y.owner = m.owner ∧ y.idx = m.idx then
            { y with tier := m.toT, phys := m.phys, pool := m.pool, c0 := m.c0, nonce := [], tag := [] } else y) ∧
          (m.toT < g.tier → t.fld Fld.TIER_PROMOTE_CNT_COUNT = (w.fld Fld.TIER_PROMOTE_CNT_COUNT + 1) % 2 ^ 48) ∧
          (g.tier ≤ m.toT → t.fld Fld.TIER_DEMOTE_CNT_COUNT = (w.fld Fld.TIER_DEMOTE_CNT_COUNT + 1) % 2 ^ 48))) ∧
    (∀ (q : Fin 4096) (seq : W32) c i v, Quiet s → s.startedCmd q seq.toNat 2 = some c → s.img (mImage c.desc) = some i →
      s.strm (mStream c.desc) = some v →
      let g := c.step * i.layers + c.layer
      (c.taken = false → exec (.layerLaunch q seq) s = .next s ∧ exec (.tierLateLimit q seq) s = .next s) ∧
      (c.taken = true → v.maxpos ≤ v.pos → exec (.layerLaunch q seq) s = .next (s.tierEnd q c.seq (v.pos / i.perPage) true 0 6)) ∧
      (∀ x y z, c.taken = true → v.pos < v.maxpos → s.lostFor c = some (x, y, z) →
        exec (.layerLaunch q seq) s = .next (s.tierEnd q c.seq x y z 5)) ∧
      (∀ sg, c.taken = true → v.pos < v.maxpos → s.lostFor c = none → i.segs[c.layer]? = some sg → s.needs c g = [] →
        (∀ m, m ∈ s.moves → m.cmd ≠ some (q.val, c.seq, g)) → s.bringing q c.seq g = false → c.step = 0 ∨ c.layer ≠ 0 →
        exec (.layerLaunch q seq) s = .next (s.launchLayer q c i v sg)) ∧
      (∀ x rest, c.taken = true → s.needs c g = x :: rest → let w := x.place
        exec (.tierLateLimit q seq) s = .next (s.tierEnd q c.seq w.1 w.2.1 w.2.2 1)) ∧
      (c.taken = true → s.needs c g = [] → (∀ m, m ∈ s.moves → m.cmd ≠ some (q.val, c.seq, g)) →
        (s.bringing q c.seq g = true → exec (.tierLateLimit q seq) s = .next (s.tierEnd q c.seq c.layer false 1 1)) ∧
        (s.bringing q c.seq g = false → exec (.tierLateLimit q seq) s = .next s))) ∧
    (∀ (ch : Fin 4) (req : W32) (off : Nat) (bytes : List Byte), let mine := fun (x : Bool) (f : Fetch) => f.ch == ch.val && f.roce == x
      let ended : State := { s with fetches := s.fetches.filter (fun f => f.ch != ch.val) }
      let fails := fun (c : Instr) => exec c s = .next (ended.chanEnd (Fld.TIER_CMD_GO ch) (Fld.TIER_CMD_STATUS_DONE ch) (Fld.TIER_CMD_STATUS_RESULT ch) 6)
      ((∀ f, f ∈ s.fetches → mine false f = false) → exec (.data ch req off bytes) s = .next s ∧ (∀ c, exec (.error ch c) s = .next s) ∧
        exec (.srtRepeat ch) s = .next s) ∧
      ((∀ f, f ∈ s.fetches → mine true f = false) → exec (.rnrNak ch) s = .next s ∧ exec (.roceRetry ch) s = .next s ∧
        ∀ psn ce, exec (.rdmaReadResponse ch psn bytes ce) s = .next s) ∧
      (∀ f, s.fetches.find? (mine false) = some f →
        (∀ c, fails (.error ch c)) ∧
        (req.toNat < f.reqNo → bytes.length ≤ 4096 → off + bytes.length ≤ f.total → ceilDiv f.total 0x10000 ≤ f.asked →
          ∃ t g, exec (.data ch req off bytes) s = .next t ∧ g ∈ t.fetches ∧ g.ch = ch.val ∧ g.asked = f.asked ∧
            (∀ i, i < bytes.length → SMap.get noByte g.got (off + i) = bytes[i]?) ∧
            t.fld Fld.TIER_FETCH_BYTE_CNT_COUNT = (s.fld Fld.TIER_FETCH_BYTE_CNT_COUNT + bytes.length) % 2 ^ 48) ∧
        (f.reqNo ≤ req.toNat → exec (.data ch req off bytes) s = .next s) ∧
        (f.missing = [] → exec (.srtRepeat ch) s = .next s) ∧ (f.missing ≠ [] → f.spent 8 = true → fails (.srtRepeat ch)) ∧
        (f.missing ≠ [] → f.spent 8 = false → exec (.srtRepeat ch) s = .next (s.fetchAgain f Fld.ETH_SRT_RETX_CNT_COUNT))) ∧
      (∀ f, s.fetches.find? (mine true) = some f →
        (f.missing = [] → exec (.rnrNak ch) s = .next s ∧ exec (.roceRetry ch) s = .next s) ∧
        (f.missing ≠ [] → f.spent 7 = true → fails (.rnrNak ch) ∧ fails (.roceRetry ch)) ∧
        (f.missing ≠ [] → f.spent 7 = false → let t := s.fetchAgain f Fld.ETH_ROCE_RETRY_CNT_COUNT
          exec (.rnrNak ch) s = .next t ∧ exec (.roceRetry ch) s = .next t) ∧
        (∀ psn : BitVec 24, let o := distance 24 (at' f.entry 0xC 4 % 2 ^ 24) psn.toNat * 4096
          (psn.toNat ≠ f.psn → exec (.rdmaReadResponse ch psn bytes false) s = .next (s.setFetch f)) ∧
          (psn.toNat = f.psn → bytes.length = min 4096 (f.total - o) → o < 0x10000 * f.asked →
            exec (.rdmaReadResponse ch psn bytes false) s = .next (s.fetchGot { f with psn := (f.psn + 1) % 2 ^ 24 } o bytes)))))

/-- O47. Stairway ports: TRAIN, IDENT, KEY and UP follow one another, flits are accepted in SEQ order and acknowledged, credits
return, and every loss contains the port with its cause; the commands of STW_PORT_CMD do what R389 gives them. Where a clause rests on
a choice of the model: log entries 51, 52, 54. -/
def Obligations.PortsAndFlits : Prop :=
  ∀ (a : Agent) (p : Fin 8) (s : State), s.runs = true →
    let q := s.port p
    let now := fun (c : Instr) (x : Port) => ∃ t, exec c s = .next t ∧ PortNow s t p x
    let counts := fun (c : Instr) (x : Port) (f : FRef) => ∃ t, exec c s = .next t ∧ PortNow s t p x ∧ t.fld f = (s.fld f + 1) % 2 ^ 48
    let state := fun (c : Instr) (x : Port) => ∃ t, exec c s = .next t ∧ PortNow s t p x ∧ t.fld (Fld.STW_PORT_STATUS_STATE p) = x.st.code
    let contained := fun (c : Instr) (cause : Nat) => ∃ t, exec c s = .next t ∧ Contained s t p cause
    let fresh : Port := { Port.empty with nTray := q.nTray, tx := q.tx }
    let clk := s.aon.newel
    let nak := fun (seq : BitVec 12) => if q.naking = true ∧ seq ≠ q.rxSeq then q else ({ q with naking := true } : Port).emit clk false [.nak q.rxSeq]
    (q.st = .train → s.aon.serdesOk = true → state (.trainingComplete p) { fresh with st := .ident }) ∧
    (q.st ≠ .train → exec (.trainingComplete p) s = .next s) ∧
    ((q.st = .train → contained (.portStateTimeout p) 0) ∧ (q.st = .ident → contained (.portStateTimeout p) 4) ∧
      (q.st = .key → contained (.portStateTimeout p) 8) ∧ (q.st = .up → exec (.portStateTimeout p) s = .next s)) ∧
    (let x : Port := { q with tx := q.tx ++ [s.identFlit p q.matched], sentAck := q.matched, ownN := if q.matched = true ∧ q.ownN = none then some clk else q.ownN }
     (q.st ≠ .ident → exec (.identSend p) s = .next s) ∧ (q.st = .ident → q.matched = false ∨ q.rxAck = false → now (.identSend p) x) ∧
      (q.st = .ident → q.matched = true → q.rxAck = true → state (.identSend p) { x with epoch := 1, st := .key, prk := (s.setPort p x).linkPrk p, info := s.linkInfo p })) ∧
    (∀ d : IdentPayload, (q.st ≠ .ident ∨ d.crcOk = false → exec (.ident p d) s = .next s) ∧
      (let r := s.srec 0x0702 p
       let x : Port := { q with heard := true, nTray := some d.tray, matched := true, rxAck := (q.rxAck || d.acked), peerN := (if d.acked = true ∧ q.peerN = none then some d.newel else q.peerN) }
       q.st = .ident → d.crcOk = true → q.heard = true → d.stairwell.toNat = s.snat 0x0102 0 → 3 ≤ r.length → d.chip.toNat = at' r 0 2 →
        d.port.toNat = at' r 2 1 → d.major = 1 → s.roots = [] →
        (q.sentAck = false → ∃ t, exec (.ident p d) s = .next t ∧ PortNow s t p x ∧ t.fld (Fld.STW_PORT_STATUS_NCHIP p) = d.chip.toNat ∧
          t.fld (Fld.STW_PORT_STATUS_NPORT p) = d.port.toNat) ∧
        (q.sentAck = true → q.rxAck = true ∨ d.acked = true → (∃ y : Port, state (.ident p d) { y with epoch := 1, st := .key, matched := true, rxAck := true }) ∧
          ∃ t, exec (.ident p d) s = .next t ∧ (t.port p).info = t.linkInfo p ∧ (t.port p).prk = t.linkPrk p))) ∧
    (let x : Port := q.emit clk true []
     (q.st = .key → now (.keyswitchSend p) x) ∧ (q.st ≠ .key → exec (.keyswitchSend p) s = .next s) ∧
      (x.txSeq = q.txSeq + 1 ∧ x.txCnt = q.txCnt + 1 ∧ x.tx = q.tx ++ [q.wire ⟨q.txSeq, true, q.epoch, []⟩]) ∧
      (q.st = .up → counts (.keyRollover p) (({ q with epoch := q.epoch + 1 } : Port).emit clk true []) Fld.SEC_LINK_REKEY_CNT_COUNT) ∧
      (q.st ≠ .up → exec (.keyRollover p) s = .next s)) ∧
    (∀ (seq : BitVec 12) (ep : W32) (ms : List Msg), q.st = .key ∨ q.st = .up →
      counts (.keyswitch p seq ep .tag) (nak seq) Fld.STW_TAG_FAIL_CNT_COUNT ∧ counts (.normalFlit p seq .tag ms) (nak seq) Fld.STW_TAG_FAIL_CNT_COUNT ∧
      (∀ c, c = .fec ∨ c = .type → now (.keyswitch p seq ep c) (nak seq) ∧ now (.normalFlit p seq c ms) (nak seq)) ∧
      (seq ≠ q.rxSeq → now (.normalFlit p seq .good ms) (nak seq))) ∧
    (∀ (seq : BitVec 12) (ep : W32),
      (q.st = .key → ep ≠ 1 → counts (.keyswitch p seq ep .good) (nak seq) Fld.STW_TAG_FAIL_CNT_COUNT) ∧
      (q.st = .key → ep = 1 → seq = q.rxSeq → q.unacked < 63 → q.queue = [] → (∀ k, k < 64 → s.spanState k ≠ 2) →
        ∃ t, exec (.keyswitch p seq ep .good) s = .next t ∧
        t.port p = { q with st := .up, rxEpoch := 1, rxSeq := seq + 1, naking := false, unacked := q.unacked + 1 } ∧
        t.fld (Fld.STW_PORT_STATUS_STATE p) = 4 ∧ (∀ k, k ≠ p.val → t.port k = s.port k) ∧
        t.hm 6 = sha384 (s.hm 6 ++ hevBytes ⟨0x0030, 6, p, s.aon.newel, sha384 (s.srec 0x0904 p), s.rot.hmSeq⟩)) ∧
      (q.st = .up → seq ≠ q.rxSeq → q.rxEpoch.toNat ≤ ep.toNat → now (.keyswitch p seq ep .good) (nak seq)) ∧
      (q.st = .up → seq = q.rxSeq → q.rxEpoch.toNat ≤ ep.toNat → q.unacked < 63 →
        now (.keyswitch p seq ep .good) { q with rxEpoch := ep, rxSeq := seq + 1, naking := false, unacked := q.unacked + 1 })) ∧
    (∀ (seq : BitVec 12) (ms : List Msg), (q.st ≠ .up → q.st ≠ .key → exec (.normalFlit p seq .good ms) s = .next s) ∧
      (q.st = .key → seq = q.rxSeq → q.unacked < 63 → now (.normalFlit p seq .good ms) { q with rxSeq := seq + 1, naking := false, unacked := q.unacked + 1 }) ∧
      (q.st = .up → seq = q.rxSeq → q.unacked < 63 → (∀ m, m ∈ ms → m.dst.toNat = s.chip ∧ opcodeOk m.opc.toNat = true ∧ m.opc ≠ 0x60 ∧ m.opc ≠ 0x61) →
        ∃ t, exec (.normalFlit p seq .good ms) s = .next t ∧ t.inbox = s.inbox ++ ms.map (fun m => (p.val, m)) ∧
          t.port p = { q with rxSeq := seq + 1, naking := false, unacked := q.unacked + 1 } ∧ t = { s with ports := t.ports, inbox := t.inbox })) ∧
    (∀ seq : BitVec 12, ((q.st ≠ .up ∧ q.st ≠ .key) ∨ q.covered seq = 0 → exec (.ack p seq) s = .next s) ∧
      (q.st = .up → 0 < q.covered seq → q.queue = [] → now (.ack p seq) { q with replay := q.replay.drop (q.covered seq), nakCnt := 0 }) ∧
      (let n := if 0 < q.nakCnt ∧ q.nakSeq = seq then q.nakCnt + 1 else 1
       let rest := q.replay.drop (q.covered (seq - 1))
       (q.st = .up ∨ q.st = .key → n < 8 → counts (.nak p seq)
          (({ q with nakSeq := seq, nakCnt := n, replay := rest } : Port).resend rest) Fld.STW_REPLAY_CNT_COUNT) ∧
        (q.st = .key → 8 ≤ n → contained (.nak p seq) 2) ∧ (q.st = .up → Lonely s p → 8 ≤ n → contained (.nak p seq) 2) ∧
        (q.st = .down → exec (.nak p seq) s = .next s))) ∧
    (∀ (vc : Fin 6) (n : W16), (q.st = .up → q.queue = [] →
        now (.credit p vc n) { q with credits := SMap.set noCredit q.credits vc (SMap.get noCredit q.credits vc + n.toNat) }) ∧
      (q.st ≠ .up → exec (.credit p vc n) s = .next s) ∧
      (q.st = .up → Lonely s p → (∃ m, m ∈ q.queue ∧ vcOf m.opc.toNat = vc.val) → contained (.stall p vc) 3) ∧
      ((∀ m, m ∈ q.queue → vcOf m.opc.toNat ≠ vc.val) → exec (.stall p vc) s = .next s)) ∧
    (q.st = .up → 0 < q.unacked → now (.ackTimer p) (({ q with unacked := 0 } : Port).emit clk false [.ack (q.rxSeq - 1)])) ∧
    (q.unacked = 0 → exec (.ackTimer p) s = .next s) ∧
    (q.st = .up → Lonely s p → contained (.silent p) 1 ∧ contained (.loss p) 0 ∧ contained (.keyFlitLimit p) 8) ∧
    (q.st = .ident ∨ q.st = .key → contained (.loss p) 0) ∧ (q.st.live = false ∨ q.st = .train → exec (.loss p) s = .next s) ∧
    (q.st ≠ .up → exec (.silent p) s = .next s ∧ exec (.keyFlitLimit p) s = .next s) ∧
    (let ok := fun (op : Nat) => ∃ r, WriteOk a s r (Reg.STW_PORT_CMD p) (2 ^ 31 + op)
     let go := Fld.STW_PORT_CMD_GO p
     (ok 0 → s.fld (Fld.STW_PORT_STATUS_CAUSE p) ≠ 0 ∨ s.purges ≠ [] → ∃ t, exec (.retrain a p) s = .next t ∧ t.fld go = 0 ∧
        t.fld (Fld.STW_PORT_CMD_REFUSED p) = 1 ∧ t.ports = s.ports) ∧
      (ok 0 → s.fld (Fld.STW_PORT_STATUS_CAUSE p) = 0 → s.purges = [] → q.st = .contained → ∃ t, exec (.retrain a p) s = .next t ∧ t.fld go = 0 ∧
        t.port p = { fresh with st := .train } ∧ t.fld (Fld.STW_PORT_STATUS_STATE p) = 1) ∧
      (ok 1 → q.st ≠ .contained → Lonely s p → ∃ t, exec (.contain a p) s = .next t ∧ t.fld go = 0 ∧ Contained s t p 7) ∧
      (ok 2 → Lonely s p → ∃ t, exec (.disable a p) s = .next t ∧ t.fld go = 0 ∧ t.port p = { fresh with st := .disabled } ∧
        t.fld (Fld.STW_PORT_STATUS_STATE p) = 6) ∧
      (ok 3 → (∀ k, k < 8 → k ≠ p.val → (s.port k).st ≠ .up) → (q.st ≠ .up → ∃ t, exec (.portLeave a p) s = .next t ∧ t.fld go = 0 ∧ t.ports = s.ports) ∧
        (q.st = .up → ∃ t m, exec (.portLeave a p) s = .next t ∧ t.fld go = 0 ∧ t.port p = q.put clk m ∧ m.opc = 0x64 ∧
          at' m.data 0 2 = s.fld Fld.STW_CFG_TRAY % 2 ^ 16 ∧ m.src.toNat = s.chip % 2 ^ 10))) ∧
    (s.aon.vdd = true → s.aon.cold = false → s.aon.fast = true → (∀ k, k < 8 → (s.port k).st.live = false) →
      ∃ t, exec .refclkSerdesLoss s = .next t ∧ t.aon = { s.aon with serdesOk := false } ∧ t.ports = s.ports ∧
      ∀ e, e < 16 → (t.ethPort e).link = false ∧ t.fld (Fld.ETH_PORT_STATUS_LINK e) = 0)

/-- O48. Newel's exchanges, notices of trays and the Ethernet ports: the root follows PTP and others their upstream port, a notice is
flooded once, a SILENT member that joins is ACTIVE again, and a port answers what R408 lets it answer and counts what it drops. Where
a clause rests on a choice of the model: log entries 53, 55, 56, 57. -/
def Obligations.TimeTraysAndEthernet : Prop :=
  ∀ (s : State), s.runs = true →
    (∀ (p : Fin 8) (src : BitVec 10) (t1 : W64), ((s.port p).st ≠ .up → exec (.timeReq p src t1) s = .next s) ∧
      ((s.port p).st = .up → ∃ t m, exec (.timeReq p src t1) s = .next t ∧ PortNow s t p ((s.port p).put s.aon.newel m) ∧ m.opc = 0x61 ∧ m.dst = src ∧
        at' m.data 0 8 = t1.toNat ∧ at' m.data 8 8 = s.aon.newel.toNat ∧
        (∀ x, LinkMsg.stamp s.aon.newel (.routed m) = .routed x → at' x.data 16 8 = s.aon.newel.toNat))) ∧
    (∀ p, s.upPort = some p → ∃ t m, exec .timeExchange s = .next t ∧ t.port p = (s.port p).put s.aon.newel m ∧ m.opc = 0x60 ∧
      (∀ x, LinkMsg.stamp s.aon.newel (.routed m) = .routed x → at' x.data 0 8 = s.aon.newel.toNat) ∧ t.servo.pend = some p) ∧
    (s.upPort = none → ∃ t, exec .timeExchange s = .next t ∧ t = { s with regs := t.regs, servo := t.servo } ∧ t.fldB Fld.NWL_STATUS_ROOT = (s.root == some s.chip)) ∧
    (∀ (p : Fin 8) (t1 t2 t3 t4 : W64), (s.servo.pend ≠ some p.val ∨ (s.port p).t1 ≠ some t1 → exec (.timeRsp p t1 t2 t3 t4) s = .next s) ∧
      (let off := (sext 64 (t2 - t1).toNat - sext 64 (t4 - t3).toNat).tdiv 2 - sext 32 (s.snat 0x0804 p)
       let st := s.fld Fld.NWL_STATUS_STATE
       s.servo.pend = some p.val → (s.port p).t1 = some t1 → (s.port p).st = .up → ∃ t, exec (.timeRsp p t1 t2 t3 t4) s = .next t ∧ t.servo.pend = none ∧
          t.fld Fld.NWL_STATUS_OFFSET = wrapInt 16 (max (-32768) (min 32767 off)) ∧
          (off.natAbs ≤ 1 → st ≠ 2 → s.servo.good < 15 → t.servo.good = s.servo.good + 1 ∧ t.fld Fld.NWL_STATUS_STATE = 1) ∧
          (off.natAbs ≤ 1 → 15 ≤ s.servo.good → t.fld Fld.NWL_STATUS_STATE = 2) ∧
          (3 < off.natAbs → st = 2 → t.servo.good = 0 ∧ t.fld Fld.NWL_STATUS_STATE = 1) ∧
          (1000 < off.natAbs → s.armed = [] → t.aon.newel.toNat = wrapInt 64 (s.aon.newel.toNat + off) ∧ t.fld Fld.NWL_STATUS_STEPPED = 1) ∧
          (1000 < off.natAbs → s.armed ≠ [] → t.aon = s.aon ∧ t.servo.rate = if 0 < off then 100 else -100) ∧
          (off.natAbs ≤ 1000 → t.aon = s.aon ∧ t.servo.rate.natAbs ≤ max 100 s.servo.rate.natAbs))) ∧
    (∀ (g : Fin 16) (m : PtpMsg), ((s.ethPort g).link = false → exec (.ptpMessage g m) s = .next s) ∧
      ((s.ethPort g).link = true → s.fldB Fld.ETH_CFG_PTP_EN = false ∨ s.fld Fld.ETH_CFG_PTP_PORT ≠ g.val →
        ∃ t, exec (.ptpMessage g m) s = .next t ∧ JustRegs s t ∧ t.fld Fld.ETH_RX_DROP_CNT_COUNT = (s.fld Fld.ETH_RX_DROP_CNT_COUNT + 1) % 2 ^ 48)) ∧
    (∀ (g : Fin 16) (d : Byte) (seq n : W16) (t1 t2 t3 t4 : W64), s.fldB Fld.ETH_CFG_PTP_EN = true → s.fld Fld.ETH_CFG_PTP_PORT = g.val →
      (s.ethPort g).link = true → s.root = some s.chip →
      let c := s.servo.ptp
      let synced := fun (m : PtpMsg) (a b : W64) => ∃ t, exec (.ptpMessage g m) s = .next t ∧ t.aon = s.aon ∧ t.regs = s.regs ∧
        t.servo.ptp = ⟨none, some (a, b), some (c.next, s.aon.newel), c.next + 1⟩ ∧ (t.ethPort g).tx.length = (s.ethPort g).tx.length + 1
      let mine : Prop := d.toNat = at' (s.srec 0x0705 0) 2 1
      (¬ mine → (∀ x, exec (.ptpMessage g (.sync d seq x)) s = .next s) ∧ exec (.ptpMessage g (.followUp d seq t1)) s = .next s ∧
        exec (.ptpMessage g (.delayResp d seq t4)) s = .next s) ∧
      (mine → synced (.sync d seq (some t1)) t1 s.aon.newel ∧ exec (.ptpMessage g (.sync d seq none)) s = .next (s.modPtp (fun c => { c with sync := some (seq, s.aon.newel) }))) ∧
      (mine → c.sync = some (seq, t2) → synced (.followUp d seq t1) t1 t2) ∧
      (mine → c.dreq = some (n, t3) → n ≠ seq → exec (.ptpMessage g (.delayResp d seq t4)) s = .next s) ∧
      (let off := (sext 64 (t4 - t3).toNat - sext 64 (t2 - t1).toNat).tdiv 2
       mine → c.dreq = some (seq, t3) → c.pair = some (t1, t2) → ∃ t, exec (.ptpMessage g (.delayResp d seq t4)) s = .next t ∧ t.fld Fld.NWL_STATUS_PTP = 1 ∧
        t.fld Fld.NWL_STATUS_OFFSET = wrapInt 16 (max (-32768) (min 32767 off)) ∧
        (1000 < off.natAbs → s.armed = [] → t.aon.newel.toNat = wrapInt 64 (s.aon.newel.toNat + off)))) ∧
    (∀ (p : Fin 8) (m : Msg) u, Came s p m 0x65 u → let tray := at' m.data 0 2
      let origin := at' m.data 2 2
      ((tray, origin) ∈ u.leaves → exec (.leave p m) s = .next u) ∧
      ((tray, origin) ∉ u.leaves → tray ≠ u.fld Fld.STW_CFG_TRAY → (∀ k, k < 8 → u.port k = Port.empty) → u.armed = [] → origin ∉ u.left →
        u.spanOf origin = none → ∃ t, exec (.leave p m) s = .next t ∧ t.leaves = u.leaves ++ [(tray, origin)] ∧ t.left = u.left ++ [origin] ∧
          t.ports = u.ports ∧ t.fld Fld.STW_LEAVE_CNT_COUNT = (u.fld Fld.STW_LEAVE_CNT_COUNT + 1) % 2 ^ 48)) ∧
    (∀ (p : Fin 8) (m : Msg) u, Came s p m 0x64 u → (at' m.data 0 2, m.src.toNat) ∈ u.leaves → (u.port p).st = .up → Lonely u p →
      ∃ t, exec (.lastGasp p m) s = .next t ∧ Contained u t p 5 ∧ t.leaves = u.leaves) ∧
    (∀ (p : Fin 8) (m : Msg), s.takeFrom p m 0x64 = none → exec (.lastGasp p m) s = .next s) ∧
    (∀ (m : Msg) u, Arrives s m 0x66 u → let k := at' m.data 0 1
      (u.spanChip k = some m.src.toNat → u.spanState k = 2 → some k ∉ u.purges → ∃ t, exec (.join m) s = .next t ∧ t.spanState k = 1 ∧
        k ∉ t.joined ∧ t.mem = u.mem) ∧
      (u.spanChip k = some m.src.toNat → u.spanState k = 2 → some k ∈ u.purges → ∃ t, exec (.join m) s = .next t ∧ k ∈ t.joined ∧ t.regs = u.regs) ∧
      (u.spanChip k ≠ some m.src.toNat ∨ u.spanState k ≠ 2 → exec (.join m) s = .next u)) ∧
    (∀ (m : Msg) u, Arrives s m 0x67 u → exec (.mail m) s = .next u) ∧
    (∀ (g : Fin 16) (x src : BitVec 128) (bytes : List Byte), let e := s.ethPort g
      let drops := fun (c : Instr) => ∃ t, exec c s = .next t ∧ JustRegs s t ∧ t.fld Fld.ETH_RX_DROP_CNT_COUNT = (s.fld Fld.ETH_RX_DROP_CNT_COUNT + 1) % 2 ^ 48
      let sends := fun (c : Instr) (b : List Byte) => ∃ t, exec c s = .next t ∧ t.ethPort g = { e with tx := e.tx ++ [natBe 16 src.toNat ++ natBe 2 0 ++ natBe 2 0 ++ b] } ∧
        t = { s with eth := t.eth } ∧ ∀ k, k ≠ g.val → t.ethPort k = s.ethPort k
      (s.inService = true → s.ethExists g = true → s.aon.serdesOk = true → ∃ t, exec (.ethernetLinkUp g) s = .next t ∧ (t.ethPort g).link = true ∧
        t.fld (Fld.ETH_PORT_STATUS_LINK g) = 1) ∧
      (s.ethExists g = false → exec (.ethernetLinkUp g) s = .next s) ∧
      (∃ t, exec (.ethernetLinkDown g) s = .next t ∧ (t.ethPort g).link = false ∧ t.fld (Fld.ETH_PORT_STATUS_LINK g) = 0) ∧
      (e.link = false → exec (.neighborSolicitation g x src) s = .next s ∧ exec (.echoRequest g src bytes) s = .next s ∧ exec (.frameDrop g) s = .next s) ∧
      (e.link = true → drops (.frameDrop g) ∧ (natBe 16 x.toNat ≠ s.ethAddr g → drops (.neighborSolicitation g x src)) ∧
        (natBe 16 x.toNat = s.ethAddr g → sends (.neighborSolicitation g x src)
          ([136, 0] ++ natBe 2 0 ++ natBe 4 0x60000000 ++ natBe 16 x.toNat ++ [2, 1] ++ ethMac g)) ∧
        (bytes.length + echoHead ≤ maxFrame → sends (.echoRequest g src bytes) ([129, 0] ++ natBe 2 0 ++ bytes)) ∧
        (maxFrame < bytes.length + echoHead → drops (.echoRequest g src bytes)))) ∧
    (let e := s.loadRun (s.fld Fld.ETH_EP_BASE_BASE + 64 * s.fld Fld.ETH_CFG_TELEM_EP) 64
     (s.fld Fld.PWR_TELEM_CTL_PERIOD = 0 → exec .telemetry s = .next s) ∧
      (∀ p, s.inService = true → s.fld Fld.PWR_TELEM_CTL_PERIOD ≠ 0 → at' e 0 1 % 4 = 3 → s.epPort e = some p → ∃ t h, exec .telemetry s = .next t ∧
        (t.ethPort p).tx = (s.ethPort p).tx ++ [h ++ s.telemetry] ∧ t.pwr.telemN = (s.pwr.telemN + 1) % 2 ^ 32 ∧ t.pwr.droops = 0))

/-- O49. Landings: an entry is armed, cancelled, cleared and read by the commands of R400, fires when Newel reaches its TIME, and
moves by the Slip of its job; a cancelled job cancels its armed entries. Where a clause rests on a choice of the model: log entries
90, 91. -/
def Obligations.LandingsAndSlip : Prop :=
  ∀ (a : Agent) (k : Fin 2) (s : State),
    let p := s.fld (Fld.NWL_LAND_SEL_PARTITION k)
    let i := s.fld (Fld.NWL_LAND_SEL_INDEX k)
    let e := s.flight p i
    let w := fun (n : Nat) => s.reg (Reg.NWL_LAND_DATA k n)
    let job := bits (w 1) 47 32
    let slip := if job = 0 then 0 else s.slipFor job (bits (w 1) 31 0)
    let does := fun (c : Instr) (op r : Nat) (x : State → Prop) => (∃ z, WriteOk a s z (Reg.NWL_LAND_CMD k) (2 ^ 31 + op)) → ∃ t, exec c s = .next t ∧
      Ended t (Fld.NWL_LAND_CMD_GO k) (Fld.NWL_LAND_STATUS_DONE k) (Fld.NWL_LAND_STATUS_RESULT k) r ∧ x t ∧ t.mem = s.mem
    let same := fun (t : State) => t.flights = s.flights ∧ ∀ n, n < 4 → t.reg (Reg.NWL_LAND_DATA k n) = e.word n % 2 ^ 64
    let may : Prop := (k = 1 → s.fldB (Fld.NWL_FLIGHT_HOST p) = true) ∧ i < s.fld (Fld.NWL_FLIGHT_N p)
    let idle : Prop := s.cores = [] ∧ s.sqs = [] ∧ s.clasp.st = .idle
    (k = 1 → s.fldB (Fld.NWL_FLIGHT_HOST p) = false → ∀ x, x = s.flights → does (.arm a k) 0 2 (fun t => t.flights = x) ∧
      does (.cancel a k) 1 2 (fun t => t.flights = x) ∧ does (.clear a k) 3 2 (fun t => t.flights = x) ∧ does (.read a k) 4 2 (fun t => t.flights = x)) ∧
    (may →
      (e.st = .armed → does (.arm a k) 0 3 same ∧ does (.clear a k) 3 3 same) ∧
      (e.st ≠ .armed → s.landBad k = true → does (.arm a k) 0 1 same) ∧
      (e.st ≠ .armed → s.landBad k = false → w 0 + slip < 2 ^ 64 → s.aon.newel.toNat < w 0 + slip → does (.arm a k) 0 0 (fun t => t.flight p i =
        { time0 := BitVec.ofNat 64 (w 0), time := BitVec.ofNat 64 (w 0 + slip), jseq := BitVec.ofNat 32 (bits (w 1) 31 0), job := job,
          slot := bits (w 1) 63 48, period := bits (w 2) 31 0, work := bits (w 2) 63 32, slip := slip, gen := 0, st := .armed, late := false, firedAt := 0, fires := 0 })) ∧
      (e.st = .armed → s.aon.newel.toNat < e.time.toNat → idle → does (.cancel a k) 1 0 (fun t => t.flight p i = { e with st := .cancelled } ∧
          t.fld Fld.NWL_CANCEL_CNT_COUNT = (s.fld Fld.NWL_CANCEL_CNT_COUNT + 1) % 2 ^ 48) ∧
        (s.jobOf e.job = [] → does (.cancelAndPropagate a k) 2 0 (fun t => t.flight p i = { e with st := .cancelled }))) ∧
      (e.st = .fired ∨ e.st = .cancelled → does (.cancel a k) 1 3 same ∧ does (.cancelAndPropagate a k) 2 3 same ∧
        does (.clear a k) 3 0 (fun t => t.flight p i = Landing.empty)) ∧
      does (.read a k) 4 0 same) ∧
    (∀ (part : Fin 16) (idx : Fin 256), let e := s.flight part idx
      s.inService = true →
      (e.st ≠ .armed → exec (.landingFire part idx) s = .next s) ∧
      (e.st = .armed → s.aon.newel.toNat < e.time.toNat → (∃ x, x ∈ s.armed ∧ (s.flight x.1 x.2).time.toNat < e.time.toNat) →
        exec (.landingFire part idx) s = .next s) ∧
      (e.st = .armed → e.time.toNat ≤ s.aon.newel.toNat ∨ (∀ x, x ∈ s.armed → e.time.toNat ≤ (s.flight x.1 x.2).time.toNat) → s.clasp.st ≠ .pending → s.cores = [] →
        s.sqs = [] → ∃ t, exec (.landingFire part idx) s = .next t ∧ t.aon.newel.toNat = max s.aon.newel.toNat e.time.toNat ∧
          t.fld Fld.NWL_FIRE_CNT_COUNT = (s.fld Fld.NWL_FIRE_CNT_COUNT + 1) % 2 ^ 48 ∧
          (let late := decide (e.time.toNat < s.aon.newel.toNat)
           (e.period = 0 → t.flight part idx = { e with late := late, gen := (e.gen + 1) % 256, st := .fired, firedAt := BitVec.ofNat 64 (max s.aon.newel.toNat e.time.toNat),
                                                                 fires := e.fires + 1 }) ∧
            (e.period ≠ 0 → t.flight part idx = ⟨e.time0 + BitVec.ofNat 64 e.period, e.time + BitVec.ofNat 64 e.period, e.jseq + 1, e.job, e.slot,
              e.period, e.work, e.slip, (e.gen + 1) % 256, .armed, late, BitVec.ofNat 64 (max s.aon.newel.toNat e.time.toNat), e.fires + 1⟩)))) ∧
    (∀ (m : Msg) u, s.runs = true →
      (s.takeMsg m 0x62 = some u → let j := at' m.data 0 2
        let q := at' m.data 4 4
        let d := at' m.data 8 4
        ∃ t, exec (.slip m) s = .next t ∧ t.fld Fld.NWL_SLIP_RCVD_CNT_COUNT = (u.fld Fld.NWL_SLIP_RCVD_CNT_COUNT + 1) % 2 ^ 48 ∧
          (j = 0 → t.notes = u.notes ∧ t.flights = u.flights) ∧ (j ≠ 0 → t.notes = keepNote u.notes ⟨j, BitVec.ofNat 32 q, d⟩) ∧
          (j ≠ 0 → u.hasFired j q = true → t.fld Fld.NWL_SLIP_MISS_CNT_COUNT = (u.fld Fld.NWL_SLIP_MISS_CNT_COUNT + 1) % 2 ^ 48) ∧
          (∀ x y, j ≠ 0 → u.jobEntries j = [(x, y)] → y < 256 → precedes 32 (u.flight x y).jseq.toNat q = false → t.flight x y = (u.flight x y).slipTo d)) ∧
      (s.takeMsg m 0x63 = some u → let j := at' m.data 0 2
        let q := at' m.data 4 4
        (j = 0 ∨ u.armed = [] → exec (.jobCancel m) s = .next u) ∧
        (∀ x y, u.armed = [(x, y)] → y < 256 → j ≠ 0 → (u.flight x y).job = j → precedes 32 (u.flight x y).jseq.toNat q = false → u.aon.newel.toNat < (u.flight x y).time.toNat → u.cores = [] → u.sqs = [] →
          u.clasp.st = .idle → ∃ t, exec (.jobCancel m) s = .next t ∧ t.flight x y = { u.flight x y with st := .cancelled }))) ∧
    (∀ (part : Fin 16) (j : W16) (work clk : Nat), s.inService = true →
      let lifted := fun (x : State) => x.setSlipClk part j.toNat 2000
      let done := (SMap.get noWork s.jobWork (65536 * part + j.toNat)).getD 0
      ((∀ x, x ∈ s.jobEntries j.toNat → x.1 ≠ part.val ∨ (s.flight x.1 x.2).work = 0) → exec (.slipPrediction part j work clk) s = .next (lifted s)) ∧
      (∀ i, j ≠ 0 → 0 < clk → clk = s.partClock part → work = done / 2000 → s.jobEntries j.toNat = [(part.val, i)] → i < 256 → s.jobOf j.toNat = [] → let e := s.flight part i
        e.work ≠ 0 → precedes 32 e.jseq.toNat e.jseq.toNat = false →
        let ready : Int := s.aon.newel.toNat + ((e.work * 2000 : Int) - done).tdiv clk
        let late : Prop := ready - e.time.toNat > 16 * s.fld Fld.NWL_SLIP_CFG_THRESH
        s.fldB Fld.NWL_SLIP_CFG_ECO = false →
        (¬ late → exec (.slipPrediction part j work clk) s = .next (lifted s)) ∧
        (late → ∃ t, exec (.slipPrediction part j work clk) s = .next t ∧ t.flight part i =
            e.slipTo (((ready + 16 * s.fld Fld.NWL_SLIP_CFG_MARGIN - e.time0.toNat).toNat + 15) / 16 * 16 % 2 ^ 32) ∧
          t.fld Fld.NWL_SLIP_SENT_CNT_COUNT = (s.fld Fld.NWL_SLIP_SENT_CNT_COUNT + 1) % 2 ^ 48)))

/-- O50. Settings and Clasp transactions: when a load is accepted and at which step it fails, what a load that succeeds leaves, and
the outcome of each command of a transaction; a partition runs or stops by its bit of SET_PART_RUN. Where a clause rests on a choice
of the model: log entries 81, 83, 84, 85, 86, 89. -/
def Obligations.SettingsAndClasp : Prop :=
  ∀ (a : Agent) (s : State),
    let ok := fun (reg w : Nat) => ∃ r, WriteOk a s r reg w
    let count := fun (t : State) (f : FRef) => t.fld f = (s.fld f + 1) % 2 ^ 48
    let load := fun (t : State) (res step reason detail : Nat) => Ended t Fld.SET_LOAD_CMD_GO Fld.SET_LOAD_STATUS_DONE Fld.SET_LOAD_STATUS_RESULT res ∧
      t.fld Fld.SET_LOAD_STATUS_STEP = step ∧ t.fld Fld.SET_LOAD_STATUS_REASON = reason ∧ t.fld Fld.SET_LOAD_STATUS_DETAIL = detail
    let accepted : Prop := s.clasp.st = .idle ∧ (s.aon.dev = .vestibule ∨ s.allStopped = true)
    let noRead := fun (n : Nat) => ∀ x, x ∈ s.ep.tags → x.owner ≠ .raw n
    let outc := fun (t : State) (res reason : Nat) => Ended t Fld.SET_CLASP_CMD_GO Fld.SET_CLASP_STATUS_DONE Fld.SET_CLASP_STATUS_RESULT res ∧
      t.fld Fld.SET_CLASP_STATUS_REASON = reason
    let cmd := fun (op part lidx id : Nat) => 2 ^ 31 + op * 2 ^ 28 + part * 2 ^ 24 + lidx * 2 ^ 16 + id
    let ended := fun (t : State) => t.clasp = { Clasp.empty with busy := s.clasp.busy } ∧ t.fld Fld.SET_CLASP_STATE_STATE = 0 ∧
      t.fld Fld.SET_CLASP_STATE_LAST_ID = s.clasp.id % 2 ^ 16 ∧ t.setting = s.setting ∧ count t Fld.SET_ROLLBACK_CNT_COUNT
    let c := s.clasp
    let addr := s.fld Fld.SET_CLASP_ADDR_ADDR
    let len := s.fld Fld.SET_CLASP_LEN_LEN
    let badLen : Prop := addr % 8 ≠ 0 ∨ 1048576 < len ∨ len = 0
    (∀ n : BitVec 23, ok Reg.SET_LOAD_CMD (2 ^ 31 + n.toNat) → let i : Instr := .settingLoad a n
      (accepted → noRead 0 → ∃ t, exec i s = .next t ∧ t.fld Fld.SET_STATUS_STATE = 1 ∧ t.fld Fld.SET_LOAD_CMD_GO = 1 ∧ t.setting = s.setting ∧
        t.pull 0 = some ⟨s.fld Fld.SET_LOAD_ADDR_ADDR, n.toNat, [], false⟩) ∧
      (¬ accepted → ∃ t, exec i s = .next t ∧ load t 2 0 0 0 ∧ count t Fld.SET_REFUSE_CNT_COUNT ∧ JustRegs s t)) ∧
    (ok Reg.SET_LOAD_CMD (2 ^ 31 + 2 ^ 30) → let i : Instr := .settingStoreLoad a
      (accepted → ∃ t, exec i s = .next t ∧ t.fld Fld.SET_STATUS_STATE = 1 ∧ t.fld Fld.SET_LOAD_CMD_GO = 1 ∧ JustRegs s t) ∧
      (¬ accepted → ∃ t, exec i s = .next t ∧ load t 2 0 0 0 ∧ count t Fld.SET_REFUSE_CNT_COUNT ∧ JustRegs s t)) ∧
    (∀ (k : BitVec 8) (ty : BitVec 3), s.runs = true → let i : Instr := .settingLoadDone k ty
      let fails := fun (step reason detail : Nat) => ∃ t, exec i s = .next t ∧ load t 1 step reason detail ∧ t.setting = [] ∧
        t.aon.dev = .vestibule ∧ t.fld Fld.SET_STATUS_STATE = 0 ∧ t.fld Fld.SET_PART_RUN_RUN = 0 ∧ t.mem = s.mem
      let src := s.fldB Fld.SET_LOAD_CMD_SRC
      let place := s.fld Fld.SET_LOAD_ADDR_ADDR % 4096
      let size := s.fld Fld.SET_LOAD_CMD_LEN
      let clean : Prop := (∀ e, e ∈ s.l2 → e.2.s0.poison = false ∧ e.2.s1.poison = false) ∧ 
        ∀ e, e ∈ s.msc → (∀ x, e.2.s0 = some x → x.poison = false) ∧ ∀ x, e.2.s1 = some x → x.poison = false
      (s.fld Fld.SET_LOAD_CMD_GO = 0 → exec i s = .next s) ∧
      (s.fld Fld.SET_LOAD_CMD_GO = 1 → (∀ n, n < 2 → s.fld (Fld.SEC_CMD_GO n) = 0) →
        (src = true → s.store = [] → fails 1 0x0D 0) ∧ (src = false → place ≠ 0 → fails 1 0x0D 0) ∧
        (src = false → place = 0 → 4194304 < size → fails 2 1 0) ∧
        (src = false → place = 0 → size ≤ 4194304 → s.pulled 0 = some none → fails 1 0x0D 0) ∧
        (∀ img, (src = true ∧ s.store = img ∧ img ≠ []) ∨ (src = false ∧ place = 0 ∧ size ≤ 4194304 ∧ s.pulled 0 = some (some img)) →
          (∀ e, readImage 1 img = .error e → fails e.step e.reason e.detail) ∧
          (∀ l, readImage 1 img = .ok l → let recs := l.map (·.2)
            let auth := s.authentic recs img
            let range := firstRange (recHbm recs) l
            let mask := leNat (recVal recs 0x0201 0)
            let trains : Prop := sameMemory recs s.setting = true ∨ ((mask &&& k.toNat) = mask ∧ ty.toNat = leNat (recVal recs 0x0202 0))
            (auth = false → fails 3 2 0) ∧ (∀ d, auth = true → range = some d → fails 4 4 d) ∧
            (∀ d, auth = true → range = none → s.ruleBroken recs = some d → fails 5 5 d) ∧
            (auth = true → range = none → s.ruleBroken recs = none → (¬ trains → fails 6 6 0) ∧
              (trains → ∃ t, exec i s = .next t ∧ load t 0 0 0 0 ∧ t.setting = recs ∧ t.store = img ∧ (clean → t.aon.dev = .service) ∧ t.effDig = sha384 img ∧
                t.fld Fld.SET_STATUS_STATE = 2 ∧ t.fld Fld.SET_PART_RUN_RUN = 0 ∧ t.fld Fld.SET_PART_STATE_STOPPED = 0xFFFF ∧
                t.sqs = [] ∧ t.cqs = [] ∧ t.ctxs = [] ∧ t.streams = [] ∧ t.imgs = [] ∧ t.certs = [] ∧ t.flights = []))))) ) ∧
    (∀ id : W16, ok Reg.SET_CLASP_CMD (cmd 0 0 0 id.toNat) → let i : Instr := .begin a id
      (precedes 16 (s.fld Fld.SET_CLASP_STATE_LAST_ID) id.toNat = false → ∃ t, exec i s = .next t ∧ outc t 2 3 ∧ JustRegs s t) ∧
      (precedes 16 (s.fld Fld.SET_CLASP_STATE_LAST_ID) id.toNat = true →
        (c.st ≠ .idle ∨ s.fld Fld.SET_LOAD_CMD_GO = 1 → ∃ t, exec i s = .next t ∧ outc t 2 0 ∧ JustRegs s t) ∧
        (c.st = .idle → s.fld Fld.SET_LOAD_CMD_GO = 0 → ∃ t, exec i s = .next t ∧ outc t 0 0 ∧ t.fld Fld.SET_CLASP_STATE_STATE = 1 ∧
          t.clasp = { Clasp.empty with st := .opn, id := id.toNat, owner := a, busy := c.busy }))) ∧
    (∀ (id : W16) (part : Fin 16) (lidx : Fin 256), let mine : Prop := c.st ≠ .idle ∧ c.id = id.toNat ∧ c.owner = a
      let entry := s.flight part lidx
      let refused := fun (i : Instr) (reason : Nat) => ∃ t, exec i s = .next t ∧ outc t 2 reason ∧ count t Fld.SET_REFUSE_CNT_COUNT ∧ t.clasp = c ∧ t.setting = s.setting
      (ok Reg.SET_CLASP_CMD (cmd 1 0 0 id.toNat) → let i : Instr := .stage a id
        (¬ mine → refused i 3) ∧ (mine → c.st = .pending → refused i 0) ∧
        (mine → c.st = .opn → badLen → ∃ t, exec i s = .next t ∧ outc t 1 0 ∧ JustRegs s t) ∧
        (mine → c.st = .opn → ¬ badLen → a = .host → noRead 1 → ∃ t, exec i s = .next t ∧ t.fld Fld.SET_CLASP_CMD_GO = 1 ∧ t.clasp = c ∧
          t.pull 1 = some ⟨addr, len, [], false⟩) ∧
        (∀ r u v b, WriteOk a s r Reg.SET_CLASP_CMD (cmd 1 0 0 id.toNat) → s.written a r Reg.SET_CLASP_CMD (cmd 1 0 0 id.toNat) = u → mine → c.st = .opn →
          ¬ badLen → a = .firmware → s.unitOk addr len = true → u.unitRead 0 addr len = (v, some (some (b, false))) → CountsOnly u v → v.clasp = c →
          v.setting = s.setting → v.aon = s.aon → v.effDig = s.effDig →
          (∀ e, readImage 2 b = .error e → refused i e.reason) ∧
          (∀ l, readImage 2 b = .ok l → let recs := l.map (·.2)
            let set := mergeRecs c.staged recs
            let auth := s.authentic s.setting b
            let fits : Prop := firstRange s.hbmCap l = none
            (auth = false → refused i 2) ∧ (auth = true → ¬ fits → refused i 4) ∧
            (auth = true → fits → (b.drop 0x18).take 48 ≠ s.effDig → refused i 3) ∧
            (auth = true → fits → (b.drop 0x18).take 48 = s.effDig → (∃ x, x ∈ recs ∧ x.cls = .structural) → refused i 7) ∧
            (auth = true → fits → (b.drop 0x18).take 48 = s.effDig → (∀ x, x ∈ recs → x.cls ≠ .structural) →
              (4096 < set.length → refused i 0x0B) ∧
              (set.length ≤ 4096 → ∃ t, exec i s = .next t ∧ outc t 0 0 ∧ t.setting = s.setting ∧ t.clasp = { c with staged := set, deltas := c.deltas ++ [sha384 b] }))))) ∧
      (ok Reg.SET_CLASP_CMD (cmd 2 0 0 id.toNat) → let i : Instr := .commit a id
        (¬ mine → refused i 3) ∧ (mine → c.st = .pending → refused i 0) ∧
        (∀ x, mine → c.st = .opn → s.claspBad = some x → refused i x.1) ∧
        (mine → c.st = .opn → s.claspBad = none → ∃ t, exec i s = .next t ∧ t.setting = mergeRecs s.setting c.staged ∧ t.clasp = { Clasp.empty with busy := true } ∧
          t.fld Fld.SET_CLASP_STATE_LAST_ID = id.toNat ∧ t.fld Fld.SET_CLASP_STATE_STATE = 0 ∧
          ((∀ e, e ∈ c.rwt → e.1 ≠ Reg.SET_CLASP_CMD) → t.fld Fld.SET_CLASP_CMD_GO = 1) ∧ t.effDig = sha384 (s.effDig ++ c.deltas.flatten ++ rwtBytes c))) ∧
      (ok Reg.SET_CLASP_CMD (cmd 3 part lidx id.toNat) → let i : Instr := .commitAt a id part lidx
        (¬ mine → refused i 3) ∧ (mine → c.st = .pending → refused i 0) ∧
        (∀ x, mine → c.st = .opn → s.claspBad = some x → refused i x.1) ∧
        (mine → c.st = .opn → s.claspBad = none → (entry.st ≠ .armed ∨ entry.time.toNat < s.aon.newel.toNat + 1000000 → refused i 0x0C) ∧
          (entry.st = .armed → s.aon.newel.toNat + 1000000 ≤ entry.time.toNat → ∃ t, exec i s = .next t ∧ outc t 0 0 ∧
            t.clasp = { c with st := .pending, land := some (part.val, lidx.val) } ∧ t.fld Fld.SET_CLASP_STATE_STATE = 2 ∧ t.setting = s.setting ∧
            ∀ q, q < 16 → (t.fld Fld.SET_PART_STATE_HELD).testBit q = s.claspOwners.contains q))) ∧
      (ok Reg.SET_CLASP_CMD (cmd 4 0 0 id.toNat) → let i : Instr := .rollback a id
        (¬ mine → ∃ t, exec i s = .next t ∧ outc t 2 3 ∧ JustRegs s t) ∧ (mine → c.st = .pending → ∃ t, exec i s = .next t ∧ outc t 2 0 ∧ JustRegs s t) ∧
        (mine → c.st = .opn → ∃ t, exec i s = .next t ∧ outc t 0 0 ∧ ended t))) ∧
    (s.runs = true → let idle : Prop := c.st ≠ .opn ∨ s.fld Fld.SET_CLASP_TIMEOUT_LIMIT = 0 ∨ s.fld Fld.SET_CLASP_CMD_GO = 1
      (idle → exec .claspTimeout s = .next s) ∧ (¬ idle → ∃ t, exec .claspTimeout s = .next t ∧ outc t 4 0 ∧ ended t)) ∧
    (s.runs = true → (c.busy = false → exec .commitDone s = .next s) ∧
      (c.busy = true → ∃ t, exec .commitDone s = .next t ∧ t.clasp = { c with busy := false } ∧ t.fld Fld.SET_CLASP_STATUS_DONE = 1 ∧
        t.fld Fld.SET_CLASP_STATUS_RESULT = 0 ∧ (s.fld Fld.SET_CLASP_CMD_OP = 2 → t.fld Fld.SET_CLASP_CMD_GO = 0) ∧
        (s.fld Fld.SET_CLASP_CMD_OP ≠ 2 → t.fld Fld.SET_CLASP_CMD_GO = s.fld Fld.SET_CLASP_CMD_GO) ∧ t = { s with clasp := t.clasp, regs := t.regs })) ∧
    (∀ (p : Fin 16) (b : Bool), let v := setBitTo (s.fld Fld.SET_PART_RUN_RUN) p.val b
      let i : Instr := if b then .run a p else .stop a p
      ok Reg.SET_PART_RUN v → ∃ t, exec i s = .next t ∧ t.fld Fld.SET_PART_RUN_RUN = v ∧ JustRegs { s with cores := t.cores } t ∧
        (∀ n, t.core n = { s.core n with mb := (s.core n).mb.map (fun x => { x with closed := x.closed || !v.testBit x.part }) }) ∧
        ∀ q, q < 16 → (t.fld Fld.SET_PART_STATE_STOPPED).testBit q = ((s.fld Fld.SET_PART_STATE_STOPPED).testBit q && (!s.definedPart q || !v.testBit q))) ∧
    (∀ p : Fin 16, s.runs = true → (s.stopped p = false → exec (.partitionStopped p) s = .next s) ∧
      (s.stopped p = true → ∃ t, exec (.partitionStopped p) s = .next t ∧ t = { s with regs := t.regs } ∧
        (t.fld Fld.SET_PART_STATE_STOPPED).testBit p = true ∧ ∀ q, q < 16 → q ≠ p.val →
          (t.fld Fld.SET_PART_STATE_STOPPED).testBit q = (s.fld Fld.SET_PART_STATE_STOPPED).testBit q))

/-- O51. The security channels: a command waits with GO at 1 for its bytes, but an erase ends at once; each command ends with the
result of its checks, and what it does is measured into the Hallmark. Where a clause rests on a choice of the model: log entries 92,
93, 94. -/
def Obligations.SecurityChannels : Prop :=
  ∀ (a : Agent) (ch : Fin 2) (s : State),
    let go := Fld.SEC_CMD_GO ch
    let ended := fun (t : State) (r : Nat) => Ended t go (Fld.SEC_CMD_STATUS_DONE ch) (Fld.SEC_CMD_STATUS_RESULT ch) r
    let word := fun (op p k : Nat) => 2 ^ 31 + op * 2 ^ 27 + p * 2 ^ 10 + k
    let ok := fun (w : Nat) => ∃ r, WriteOk a s r (Reg.SEC_CMD ch) w
    let len := s.fld (Fld.SEC_CMD_LEN_LEN ch)
    let addr := s.fld (Fld.SEC_CMD_ADDR_ADDR ch)
    let begins := fun (i : Instr) (op p k n : Nat) => ok (word op p k) → (∀ x, x ∈ s.ep.tags → x.owner ≠ .raw 3) →
      ∃ t, exec i s = .next t ∧ t.fld go = 1 ∧ t.fld (Fld.SEC_CMD_OP ch) = op ∧ t.rot = s.rot ∧ t.aon = s.aon ∧ t.mem = s.mem ∧
        (ch.val = 1 → n ≠ 0 → t.pull 3 = some ⟨addr, n, [], false⟩)
    let ext := fun (v t : State) (reg ty idx : Nat) (d : List Byte) => t.hm reg = sha384 (v.hm reg ++ hevBytes ⟨ty, reg, idx, v.aon.newel, d, 0⟩)
    let op := s.secOp ch
    begins (.loadFirmware a ch) 0 0 0 (if len ≤ 4194304 then len else 0) ∧ begins (.raiseSvn a ch) 1 0 0 0 ∧
    (∀ (p : Fin 16) (k : Fin 64), begins (.install a ch p k) 2 p k (if len = 1760 then len else 0)) ∧
    (∀ p : Fin 16, begins (.rekey a ch p) 4 p 0 0) ∧ begins (.claim a ch) 5 0 0 48 ∧
    begins (.transferOwnership a ch) 6 0 0 (if len = 7460 then len else 0) ∧ begins (.debugUnlock a ch) 7 0 0 (if len = 7412 then len else 0) ∧
    (∀ (p : Fin 16) (k : Fin 64), ok (word 3 p k) → ∃ t, exec (.erase a ch p k) s = .next t ∧ t.mem = s.mem ∧
      (s.definedPart p = false → ended t 2 ∧ t.rot = s.rot) ∧
      (s.definedPart p = true → ended t 0 ∧ t.keys p = { s.keys p with slots := SMap.set noSlot (s.keys p).slots k [] } ∧
        (∀ q, q ≠ p.val → t.keys q = s.keys q) ∧ ext s t (8 + p) 0x44 k zeros48)) ∧
    (s.runs = true → let i : Instr := .securityCommandDone ch
      let o := 1 - ch.val
      let waits : Prop := op = 2 ∧ s.fld (Fld.SEC_CMD_GO o) = 1 ∧ s.secOp o = 4 ∧ s.secPart o = s.secPart ch
      (s.fld go = 0 → exec i s = .next s) ∧
      (s.fld go = 1 → (waits → exec i s = .next s) ∧
        (¬ waits → s.secLenOk ch = false → ∃ t, exec i s = .next t ∧ ended t 1 ∧ t.rot = s.rot ∧ t.aon.owners = s.aon.owners ∧
          t.aon.nonceCtr = if op = 7 then s.aon.nonceCtr + 1 else s.aon.nonceCtr) ∧
        (∀ v, ¬ waits → s.secLenOk ch = true → s.secSource ch = (v, none) → exec i s = .next v) ∧
        (∀ v, ¬ waits → s.secLenOk ch = true → s.secSource ch = (v, some none) → v.secOp ch = op → ∃ t, exec i s = .next t ∧ ended t 1 ∧ t.rot = v.rot ∧
          t.aon = if op = 7 then { v.aon with nonceCtr := v.aon.nonceCtr + 1 } else v.aon) ∧
        (∀ v b, ¬ waits → s.secLenOk ch = true → s.secSource ch = (v, some (some b)) → CountsOnly s v → v.setting = s.setting → v.rot = s.rot → v.aon = s.aon →
          let ends := fun (r : Nat) (f : State → Prop) => ∃ t, exec i s = .next t ∧ ended t r ∧ f t
          let same := fun (t : State) => t.rot = s.rot ∧ t.aon = s.aon
          let held := fun (t : State) => t.rot = { s.rot with refused := s.rot.fw.isNone } ∧ t.aon = s.aon
          let p := s.secPart ch
          let k := s.fld (Fld.SEC_CMD_SLOT ch)
          let ks := s.keys p
          let owners := s.aon.owners
          (op = 0 → let good := Config.ecdsaOk Config.fwKeyEc b [] && Config.mldsaOk Config.fwKeyMl b []
            (good = false → ends 4 held) ∧ (good = true → Config.fwSvn b < s.aon.fuseSvn → ends 2 held) ∧
            (good = true → s.aon.fuseSvn ≤ Config.fwSvn b → ends 0 (fun t => t.rot.fw = some (b, Config.fwSvn b) ∧ t.rot.refused = false ∧ t.aon = s.aon ∧
              t.fld Fld.SEC_STATUS_FW_OK = 1 ∧ t.fld Fld.SEC_FW_SVN_RUNNING = Config.fwSvn b % 2 ^ 8 ∧ ext s t 1 2 0 (sha384 b)))) ∧
          (op = 1 → (s.rot.fw = none → ends 2 same) ∧ ∀ f, s.rot.fw = some f → ends 0 (fun t => t.rot = s.rot ∧
            t.aon = { s.aon with fuseSvn := max s.aon.fuseSvn (min f.2 64) })) ∧
          (op = 2 → let other : Prop := at' b 8 8 ≠ Config.serial.toNat ∨ at' b 0x14 1 ≠ p ∨ at' b 7 1 ≠ k ∨ s.definedPart p = false ∨ ks.defd = false ∨
                                at' b 0x10 4 ≠ ks.epoch ∨ SMap.get noSlot ks.slots k ≠ []
            let opened := Config.gcmOpen (kek (16 * ks.keyGen + p) b) ((b.drop 0x18).take 12) (b.take 0x28) ((b.drop 0x6B0).take 48)
            (blobBad b = true → ends 1 same) ∧ (blobBad b = false → other → ends 2 same) ∧
            (blobBad b = false → ¬ other → opened = none → ends 4 (fun t => same t ∧
              t.fld Fld.SEC_UNWRAP_FAIL_CNT_COUNT = (s.fld Fld.SEC_UNWRAP_FAIL_CNT_COUNT + 1) % 2 ^ 48)) ∧
            (∀ key, blobBad b = false → ¬ other → opened = some key → ends 0 (fun t => ext s t (8 + p) 0x43 k (sha384 b) ∧
              t.keys p = { ks with slots := SMap.set noSlot ks.slots k ((key ++ List.replicate 32 0).take 32) }))) ∧
          (op = 4 → (s.definedPart p = false → ends 2 same) ∧ (s.definedPart p = true → ends 0 (fun t => t.aon = s.aon ∧
            t.keys p = { ks with defd := true, epoch := (ks.epoch + 1) % 2 ^ 32, keyGen := ks.keyGen + 1 } ∧ ∀ q, q ≠ p → t.keys q = s.keys q))) ∧
          (op = 5 → (s.aon.dev ≠ .vestibule ∨ owners ≠ [] → ends 2 same) ∧
            (s.aon.dev = .vestibule → owners = [] → ends 0 (fun t => t.aon = { s.aon with owners := [b] }))) ∧
          (op = 6 → (owners = [] ∨ 4 ≤ owners.length → ends 2 same) ∧
            (∀ d, owners.getLast? = some d → owners.length < 4 →
              let msg := natLe 8 Config.serial.toNat ++ b.take 48 ++ natLe 1 (owners.length - 1)
              let good := signedBy d ((b.drop 48).take 2689) msg (b.drop 2737)
              (good = false → ends 4 same) ∧ (good = true → ends 0 (fun t => t.aon = { s.aon with owners := owners ++ [b.take 48] })))) ∧
          (op = 7 → let fresh := fun (t : State) => t.aon = { s.aon with nonceCtr := s.aon.nonceCtr + 1 }
            let closed : Prop := owners = [] ∨ s.fld Fld.SEC_STATUS_DEBUG ≠ 1 ∨ v.allStopped = false
            let msg := natLe 8 Config.serial.toNat ++ natLe 8 (Config.debugNonce s.aon.nonceCtr).toNat ++ unlockWord
            (closed → ends 2 (fun t => t.rot = s.rot ∧ fresh t)) ∧
            (∀ d, ¬ closed → owners.getLast? = some d → let good := signedBy d (b.take 2689) msg (b.drop 2689)
              (good = false → ends 4 (fun t => t.rot = s.rot ∧ fresh t)) ∧
              (good = true → ends 0 (fun t => fresh t ∧ t.fld Fld.SEC_STATUS_UNLOCKED = 1 ∧ t.rot.memGen = s.rot.memGen + 1 ∧
                (∀ q, q < 16 → (t.keys q).slots = [] ∧ (t.keys q).defd = false) ∧ ext s t 5 0x20 0 (sha384 b))))))))

/-- O52. The root of trust answers SPDM requests on a transport that is up, after negotiation where the request needs it; a
measurement, a quote and the log carry the Hallmark registers; the mailbox and the sideband answer in their own forms. Where a clause
rests on a choice of the model: log entries 46, 47, 94. -/
def Obligations.EvidenceAndSideband : Prop :=
  ∀ (s : State) (tr : Transport),
    let up := s.answers tr
    let sent := fun (t : State) (m : List Byte) => if tr = .mctpSmbus then t.rot.smbTx = s.rot.smbTx ++ [m] ∧ t.ep = s.ep
      else t.ep = { s.ep with tx := s.ep.tx ++ (if tr = .doe then doeParts m else [m]).map .doe } ∧ t.rot.smbTx = s.rot.smbTx
    let waits := fun (i : Instr) => exec i s = .next { s with inWait := s.inWait ++ [i] }
    let frame := fun (t : State) => t = { s with regs := t.regs, rot := t.rot, ep := t.ep } ∧ t.rot.hm = s.rot.hm ∧ t.rot.log = s.rot.log ∧ t.rot.keys = s.rot.keys
    let tells := fun (i : Instr) (m : List Byte) => ∃ t, exec i s = .next t ∧ sent t m ∧ frame t ∧ t.regs = s.regs ∧ t.rot.sess = s.rot.sess ∧ t.rot.neg = s.rot.neg
    let asks := fun (i : Instr) => up = true → s.negotiated tr = false → tells i errUnexpected
    let open_ : Prop := up = true ∧ s.negotiated tr = true
    let chain := Config.certChain s.aliasOf
    let box := fun (i : Instr) (m : List Byte) => ∃ t, exec i s = .next t ∧ t = { s with ep := t.ep } ∧ t.ep = { s.ep with tx := s.ep.tx ++ [.doe m] }
    let side := fun (i : Instr) (f : State → Prop) (m : List Byte) => ∃ t, exec i s = .next t ∧ f t ∧ t = { s with aon := t.aon, rot := t.rot } ∧
      t.rot = { s.rot with smbTx := s.rot.smbTx ++ [m] }
    let here : Prop := s.aon.vdd = true ∧ s.aon.cold = false
    (up = false → tr = .mctpSmbus ∨ s.runs = false ∨ s.ep.linkUp = false ∨ s.linkBusy 1 = false → ∀ (sl : Fin 8) (n : BitVec 256) (x y : W16) (z : W32) (b : Byte) (f : Bool) (k : Nat),
      exec (.getVersion tr) s = .next s ∧ exec (.getCapabilities tr) s = .next s ∧ exec (.negotiateAlgorithms tr f) s = .next s ∧
      exec (.getCertificate tr sl x y) s = .next s ∧ exec (.challenge tr sl n) s = .next s ∧ exec (.getMeasurements tr b n) s = .next s ∧
      exec (.keyExchange tr sl) s = .next s ∧ exec (.heartbeat tr z) s = .next s ∧ exec (.keyUpdate tr z) s = .next s ∧
      exec (.getQuote tr n b) s = .next s ∧ exec (.getLog tr z k) s = .next s ∧ exec (.getPqChain tr) s = .next s) ∧
    (tr ≠ .mctpSmbus → s.runs = true → s.ep.linkUp = true → s.linkBusy 1 = true → ∀ (sl : Fin 8) (n : BitVec 256) (x y : W16) (z : W32) (b : Byte) (f : Bool) (k : Nat),
      waits (.getVersion tr) ∧ waits (.getCapabilities tr) ∧ waits (.negotiateAlgorithms tr f) ∧ waits (.getCertificate tr sl x y) ∧
      waits (.challenge tr sl n) ∧ waits (.getMeasurements tr b n) ∧ waits (.keyExchange tr sl) ∧ waits (.heartbeat tr z) ∧
      waits (.keyUpdate tr z) ∧ waits (.getQuote tr n b) ∧ waits (.getLog tr z k) ∧ waits (.getPqChain tr)) ∧
    (up = true → ∃ t, exec (.getVersion tr) s = .next t ∧ t.negotiated tr = false ∧ sent t (spdm 4 [0, 0x12, 0, 0x13]) ∧ frame t) ∧
    (up = true → tells (.getCapabilities tr) (spdm 0x61 (natLe 4 spdmCaps ++ Config.spdmBody 0x61 []))) ∧
    (up = true → (∃ t, exec (.negotiateAlgorithms tr true) s = .next t ∧ t.negotiated tr = true ∧ sent t (spdm 0x63 (spdmAlgs ++ Config.spdmBody 0x63 [])) ∧ frame t) ∧
      tells (.negotiateAlgorithms tr false) errInvalid) ∧
    (∀ (slot : Fin 8) (off len : W16), let i : Instr := .getCertificate tr slot off len
      let b := (chain.drop off.toNat).take len.toNat
      asks i ∧ (open_ → slot ≠ 0 ∨ chain.length ≤ off.toNat → tells i errInvalid) ∧
      (open_ → slot = 0 → off.toNat < chain.length → tells i (spdm 2 (natLe 2 b.length ++ natLe 2 (chain.length - off.toNat - b.length) ++ b)))) ∧
    (∀ (slot : Fin 8) (n : BitVec 256), let i : Instr := .challenge tr slot n
      asks i ∧ (open_ → slot ≠ 0 → tells i errInvalid) ∧
      (open_ → slot = 0 → tells i (spdmOf 3 (natBe 32 n.toNat ++ (List.range 24).flatMap s.hm)))) ∧
    (∀ (idx : Byte) (n : BitVec 256), let i : Instr := .getMeasurements tr idx n
      let block := fun (k : Nat) => natLe 1 (k + 1) ++ natLe 1 (match k with | 0 => 0 | 1 => 1 | 2 => 2 | 5 => 5 | _ => 3) ++ natLe 2 48 ++ s.hm k
      let gives := fun (m : List Byte) => tells i (spdm 0x60 (m ++ Config.spdmBody 0x60 (natBe 32 n.toNat ++ m)))
      asks i ∧ (open_ → idx = 0 → tells i (spdm 0x60 [24])) ∧ (open_ → 1 ≤ idx.toNat → idx.toNat ≤ 24 → gives (block (idx.toNat - 1))) ∧
      (open_ → idx = 255 → gives ((List.range 24).flatMap block)) ∧ (open_ → 24 < idx.toNat → idx ≠ 255 → tells i errInvalid)) ∧
    (∀ slot : Fin 8, let i : Instr := .keyExchange tr slot
      let id : W32 := BitVec.ofNat 32 s.rot.nextSess
      asks i ∧ (open_ → slot ≠ 0 → tells i errInvalid) ∧ (open_ → slot = 0 → 4 ≤ s.rot.sess.length → tells i errSessions) ∧
      (open_ → slot = 0 → s.rot.sess.length < 4 → ∃ t, exec i s = .next t ∧ t.rot.sess = s.rot.sess ++ [⟨id, tr, 0, 0⟩] ∧
        t.fld Fld.SEC_SESSION_CNT_COUNT = (s.fld Fld.SEC_SESSION_CNT_COUNT + 1) % 2 ^ 48 ∧
        sent t (spdm 0x64 (natLe 4 id.toNat ++ Config.spdmBody 0x64 (natLe 4 id.toNat))) ∧ frame t)) ∧
    (∀ id : W32, let on := s.rot.sess.find? (fun x => x.id == id && x.transport == tr)
      let secure := fun (g n : Nat) (m : List Byte) => natLe 4 id.toNat ++ Config.secured id.toNat g n m
      let h : Instr := .heartbeat tr id
      let k : Instr := .keyUpdate tr id
      asks h ∧ asks k ∧ (open_ → on = none → tells h errSession ∧ tells k errSession) ∧ (∀ x, open_ → on = some x →
        (∃ t, exec h s = .next t ∧ sent t (secure x.keyGen x.sent (spdmOf 0x68 (natLe 4 id.toNat))) ∧ frame t ∧
          t.rot.sess = s.rot.sess.map (fun x => if x.id = id then { x with sent := x.sent + 1 } else x)) ∧
        ∃ t, exec k s = .next t ∧ sent t (secure (x.keyGen + 1) 0 (spdmOf 0x69 (natLe 4 id.toNat))) ∧ frame t ∧
          t.rot.sess = s.rot.sess.map (fun x => if x.id = id then { x with keyGen := x.keyGen + 1, sent := 1 } else x))) ∧
    (∀ (n : BitVec 256) (part : Byte), up = true →
      let p := part.toNat
      let head := natLe 4 0x51484C50 ++ natLe 2 1 ++ natLe 1 p ++ natLe 1 (s.fld Fld.SEC_STATUS_LOG_OVF + 2 * s.fld Fld.SEC_STATUS_UNLOCKED) ++
        natLe 8 Config.serial.toNat ++ natLe 8 s.aon.newel.toNat ++ natBe 32 n.toNat ++ s.effDig ++ (List.range 24).flatMap s.hm
      let quoted := fun (b : List Byte) => tells (.getQuote tr n part) (spdm 0x7E (b ++ natBe 96 (Config.aliasEc s.aliasOf b).toNat ++ natLe 4627 (Config.aliasMl s.aliasOf b).toNat))
      (16 ≤ p ∨ s.definedPart p = false → quoted (head ++ List.replicate 1680 0)) ∧
      (p < 16 → s.definedPart p = true → (s.keys p).defd = true →
        quoted (head ++ (natLe 4 (s.keys p).epoch ++ natLe 4 0 ++ s.pubKeys p ++ List.replicate 7 0)))) ∧
    (∀ (first : W32) (n : Nat), up = true → (128 < n → tells (.getLog tr first n) errInvalid) ∧ (n ≤ 128 → tells (.getLog tr first n) (spdm 0x7E
      (((s.rot.log.filter (fun e => !precedes 32 e.seq first.toNat)).take n).flatMap (fun e => natLe 4 e.seq ++ hevBytes e))))) ∧
    (up = true → tells (.getPqChain tr) (spdm 0x7E (Config.pqChain s.aliasOf))) ∧
    (∀ (i : Byte) (e : W16), (s.runs = false ∨ s.ep.linkUp = false → exec (.doeDiscovery i) s = .next s ∧ exec (.cdatTableAccess e) s = .next s) ∧
        (s.runs = true → s.ep.linkUp = true → s.linkBusy 1 = true → waits (.doeDiscovery i) ∧ waits (.cdatTableAccess e)) ∧
        (s.ioHere = true → (i = 0 → box (.doeDiscovery i) [1, 0, 0, 1]) ∧ (i = 1 → box (.doeDiscovery i) [1, 0, 1, 2]) ∧
          (i = 2 → box (.doeDiscovery i) [1, 0, 2, 3]) ∧ (i = 3 → box (.doeDiscovery i) [0x98, 0x1E, 2, 0]) ∧
          (3 < i.toNat → box (.doeDiscovery i) [0xFF, 0xFF, 0, 0]) ∧
          (s.aon.dev ≠ .service → e = 0 → box (.cdatTableAccess e) ([0, 0, 0xFF, 0xFF] ++ s.cdatHead)) ∧
          (s.aon.dev = .service → e.toNat ≤ 12 → box (.cdatTableAccess e) ([0, 0] ++ (if e = 12 then [0xFF, 0xFF] else natLe 2 (e.toNat + 1)) ++
            (if e = 0 then s.cdatHead else (cdatRange 0 0 s.hbmCap 200 20480 ++ cdatRange 1 galleryBase (s.tier0W * 256) 70 131072).getD (e.toNat - 1) []))))) ∧
    (∀ e : Byte, (¬ here → exec (.setEndpointId e) s = .next s) ∧
        (here → e = 0 ∨ e = 255 → side (.setEndpointId e) (fun t => t.aon = s.aon) [2]) ∧
        (here → e ≠ 0 → e ≠ 255 → side (.setEndpointId e) (fun t => t.aon = { s.aon with eid := e }) [0, 0, e, 0])) ∧
      (here → s.aon.alert = true → side .alertResponse (fun t => t.aon = { s.aon with alert := false }) [0x60 + s.aon.smbAddr.setWidth 8]) ∧
      (¬ here ∨ s.aon.alert = false → exec .alertResponse s = .next s)

/-- O53. Power: an iteration of the governor lowers the levers of the category that is protected last and not at its limit, raises
them in reverse order, and withdraws and grants floors; the limiter, droop, thermal steps, stack temperatures and sleep states follow
their tables. Where a clause rests on a choice of the model: log entry 64. -/
def Obligations.PowerAndSleep : Prop :=
  ∀ s : State,
    let count := fun (t : State) (f : FRef) => t.fld f = (s.fld f + 1) % 2 ^ 48
    (∀ (p : PowerSample) (cat : Nat → Nat), s.inService = true → cat 0 = s.fld Fld.PWR_PRIO_THIRD → cat 1 = s.fld Fld.PWR_PRIO_SECOND →
      cat 2 = s.fld Fld.PWR_PRIO_FIRST → (∀ k, k < 3 → cat k < 3) →
      let w := s.pwr
      let cap := s.fld Fld.PWR_CAP_CAP
      let gov := fun (x : Power) (c : Nat) => SMap.get maxCore x.gov c
      let low := fun (k : Nat) => if k = 0 then w.linkPct ≤ 25 else if k = 1 then w.hbmPct ≤ 25 ∧ w.galGov ≤ 600 ∧ w.fabGov ≤ 800
        else ∀ c, c ∈ s.openTiles → gov w c ≤ 500
      let high := fun (k : Nat) => if k = 0 then 100 ≤ w.linkPct else if k = 1 then 100 ≤ w.hbmPct ∧ 1000 ≤ w.galGov ∧ 1600 ≤ w.fabGov else w.gov = []
      let levers := fun (t : State) (link hbm gal fab : Nat) => t.pwr.linkPct = link ∧ t.pwr.hbmPct = hbm ∧ t.pwr.galGov = gal ∧ t.pwr.fabGov = fab
      let gives := fun (f : State → Prop) => ∃ t, exec (.governorIteration p) s = .next t ∧ f t ∧ t.pwr.sample = p ∧ t.pwr.fastLim = [] ∧
        t.fld Fld.PWR_POWER_TOTAL = p.avg1ms % 2 ^ 16 ∧ t.fld Fld.PWR_POWER_HBM = p.hbm % 2 ^ 16 ∧ t.mem = s.mem ∧ t.cores = s.cores
      let keeps := fun (t : State) => levers t w.linkPct w.hbmPct w.galGov w.fabGov ∧ t.pwr.gov = w.gov
      (cap ≤ p.avg1ms + 50 → p.avg1ms ≤ cap → gives keeps) ∧
      (∀ k, k < 3 → cap < p.avg1ms → (∀ j, j < k → low (cat j)) → ¬ low (cat k) →
        (cat k = 0 → gives (fun t => levers t (max 25 (w.linkPct - p.linkStep)) w.hbmPct w.galGov w.fabGov ∧ t.pwr.gov = w.gov)) ∧
        (cat k = 1 → gives (fun t => t.pwr.gov = w.gov ∧
          if 25 + p.hbmStep < w.hbmPct then levers t w.linkPct (w.hbmPct - p.hbmStep) w.galGov w.fabGov
          else if 600 + p.galStep < w.galGov then levers t w.linkPct (min w.hbmPct 25) (w.galGov - p.galStep) w.fabGov
          else levers t w.linkPct (min w.hbmPct 25) (min w.galGov 600) (if w.fabGov ≤ 800 then w.fabGov else max 800 (w.fabGov - p.fabStep)))) ∧
        (cat k = 2 → gives (fun t => levers t w.linkPct w.hbmPct w.galGov w.fabGov ∧ ∀ c, c < 256 →
          gov t.pwr c = if s.protected_ c then gov w c else max 500 (gov w c - p.tileStep)))) ∧
      (∀ k, k < 3 → p.avg1ms + 50 < cap → (∀ j, j < 3 → k < j → high (cat j)) → ¬ high (cat k) →
        (cat k = 0 → gives (fun t => levers t (min 100 (w.linkPct + p.linkStep)) w.hbmPct w.galGov w.fabGov ∧ t.pwr.gov = w.gov)) ∧
        (cat k = 1 → gives (fun t => t.pwr.gov = w.gov ∧
          if w.fabGov + p.fabStep < 1600 then levers t w.linkPct w.hbmPct w.galGov (w.fabGov + p.fabStep)
          else if w.galGov + p.galStep < 1000 then levers t w.linkPct w.hbmPct (w.galGov + p.galStep) (max w.fabGov 1600)
          else levers t w.linkPct (if 100 ≤ w.hbmPct then w.hbmPct else min 100 (w.hbmPct + p.hbmStep)) (max w.galGov 1000) (max w.fabGov 1600))) ∧
        (cat k = 2 → gives (fun t => levers t w.linkPct w.hbmPct w.galGov w.fabGov ∧ ∀ c, c < 256 → gov t.pwr c = min 2000 (gov w c + p.tileStep)))) ∧
      (∀ q, q < 16 → cap < p.avg1ms → (∀ j, j < 3 → low (cat j)) → s.granted.testBit q = true → (∀ r, q < r → r < 16 → s.granted.testBit r = false) →
        cap < p.avg10ms → 99 ≤ w.sinceWd → gives (fun t => keeps t ∧ count t Fld.PWR_FLOOR_REL_CNT_COUNT ∧ t.pwr.sinceWd = 0 ∧
          ∀ r, r < 16 → t.pwr.noFloor.getLsbD r = (w.noFloor.getLsbD r || r == q))) ∧
      (∀ q, q < 16 → p.avg1ms ≤ cap → p.avg10ms + 50 ≤ cap → 999 ≤ w.okFor → w.noFloor.getLsbD q = true → (∀ r, r < q → w.noFloor.getLsbD r = false) →
        gives (fun t => t.pwr.okFor = 0 ∧ ∀ r, r < 16 → t.pwr.noFloor.getLsbD r = (w.noFloor.getLsbD r && r != q)))) ∧
    (s.runs = true → ∃ t, exec .fastLimiter s = .next t ∧ count t Fld.PWR_FAST_LIMIT_CNT_COUNT ∧ t = { s with pwr := t.pwr, regs := t.regs } ∧
      ∀ c, c < 256 → SMap.get maxCore t.pwr.fastLim c = if s.protected_ c then SMap.get maxCore s.pwr.fastLim c else max 500 (s.coreClock c / 2)) ∧
    (∀ c : Fin 256, s.runs = true →
      let slows := fun (i : Instr) (b : Bool) (g : State → Prop) => ∃ t, exec i s = .next t ∧ t = { s with pwr := t.pwr, regs := t.regs } ∧ g t ∧
        SMap.get noPoison t.pwr.droop c = b ∧ ∀ d, d ≠ c.val → SMap.get noPoison t.pwr.droop d = SMap.get noPoison s.pwr.droop d
      slows (.droop c) true (fun t => count t Fld.PWR_DROOP_CNT_COUNT) ∧ slows (.droopEnd c) false (fun t => t.regs = s.regs)) ∧
    (∀ temps : List (Fin 408 × Int), s.aon.vdd = true → s.aon.cold = false → (temps.map (·.1)).Nodup →
      ∃ t, exec (.thermalSample temps) s = .next t ∧ (s.aon.fast = false → t.pwr = s.pwr) ∧
        (∀ n d, s.aon.fast = true → (n, d) ∈ temps → let k := s.thermStep n
          let r := t.thermStep n
          r ≤ 3 ∧ (r = 3 ↔ 111 ≤ d ∨ (3 ≤ k ∧ 108 ≤ d)) ∧ (2 ≤ r ↔ 108 ≤ d ∨ (2 ≤ k ∧ 105 ≤ d)) ∧ (1 ≤ r ↔ 105 ≤ d ∨ (1 ≤ k ∧ 102 ≤ d))) ∧
        (∀ n, (∀ d, (n, d) ∉ temps) → t.thermStep n.val = s.thermStep n.val) ∧
        (∀ n d, s.aon.fast = true → temps = [(n, d)] → t.fld Fld.PWR_THROTTLE_CNT_COUNT =
          (s.fld Fld.PWR_THROTTLE_CNT_COUNT + if s.thermStep n < t.thermStep n then 1 else 0) % 2 ^ 48) ∧
        ((∀ e, e ∈ temps → e.2 < 115) → t.aon = s.aon ∧ t.errs = s.errs ∧ t.mem = s.mem ∧ t.cores = s.cores) ∧
        ((∃ e, e ∈ temps ∧ 115 ≤ e.2) → t.aon.trip = true ∧ t.aon.stopLatch.getLsbD 1 = true ∧
          t.aon.dev = if s.aon.dev = .stopped ∨ s.aon.dev = .frozen then s.aon.dev else if s.fldB Fld.ERR_CTL_FREEZE_ON_FATAL then .frozen else .stopped)) ∧
    (∀ (k : Fin 8) (d : Nat), s.runs = true → let i : Instr := .hbmTempRead k d
      let lim := s.fld Fld.PWR_HBM_TLIM_TLIM
      let hot := s.pwr.hbmHot.getLsbD k
      let present := (s.fld Fld.L2C_CFG_HBM_MASK).testBit k
      (present = false → exec i s = .next s) ∧
      (present = true → ∃ t, exec i s = .next t ∧ SMap.get zeroNat t.pwr.hbmT k = d ∧ t.mem = s.mem ∧ t.cores = s.cores ∧
        t.pwr.hbmHot.getLsbD k = (if lim < d then true else if d + 5 < lim then false else hot) ∧
        (∀ j, j < 8 → j ≠ k.val → t.pwr.hbmHot.getLsbD j = s.pwr.hbmHot.getLsbD j) ∧ (lim < d → hot = false → count t Fld.PWR_THROTTLE_CNT_COUNT))) ∧
    (∀ c : Fin 256, s.runs = true → let k := s.core c
      let only := fun (i : Instr) (v : Core) => ∃ t, exec i s = .next t ∧ t = { s with cores := t.cores } ∧ t.core c = v ∧ ∀ d, d ≠ c.val → t.core d = s.core d
      let idle : Prop := k.sleep = .active ∧ k.canIssue = false
      let nap : Prop := (k.sleep = .active ∨ k.sleep = .idle) ∧ k.waking = false ∧ 1 ≤ s.deepest c ∧ k.sq = [] ∧ k.mb = [] ∧
        ∀ e, e ∈ k.teamList → e.2.st = .preempted
      let off : Prop := k.sleep = .nap ∧ k.waking = false ∧ 2 ≤ s.deepest c ∧ k.teamList = []
      (idle → only (.idleEntry c) { k with sleep := .idle }) ∧ (¬ idle → only (.idleEntry c) k) ∧
      (nap → only (.napEntry c) { k with sleep := .nap }) ∧ (¬ nap → only (.napEntry c) k) ∧
      (off → only (.offEntry c) { k with sleep := .off }) ∧ (¬ off → only (.offEntry c) k) ∧
      (k.waking = false → exec (.wakeDone c) s = .next s) ∧
      (k.waking = true → k.sleep ≠ .off → only (.wakeDone c) { k with sleep := .active, waking := false }) ∧
      (k.waking = true → k.sleep = .off → ∃ t, exec (.wakeDone c) s = .next t ∧ t = { s with cores := t.cores, tlbs := t.tlbs } ∧
        t.core c = { k with sleep := .active, waking := false, l1 := [], ic := [], sr := srZero } ∧
        t.tlb (fetchBuf c) = [] ∧ t.tlb (lsBuf c) = [] ∧ t.tlb (xferBuf c) = []))

/-- O54. Resets and stops: what cold reset and its release leave, what warm reset ends and keeps, and how a freeze, the control
signals, the supplies and the watchdogs stop the chip. Where a clause rests on a choice of the model: log entries 67, 68, 69, 70, 71.
-/
def Obligations.ResetsAndStops : Prop :=
  ∀ s : State,
    let a := s.aon
    let live : Prop := a.vdd = true ∧ a.cold = false
    let down : Prop := a.dev = .stopped ∨ a.dev = .frozen
    let just := fun (i : Instr) (f : Aon) => exec i s = .next { s with aon := f }
    let same := fun (i : Instr) => exec i s = .next s
    (let fresh := fun (t : State) => t.mem = [] ∧ t.cores = [] ∧ t.l2 = [] ∧ t.dir = [] ∧ t.sqs = [] ∧ t.imgs = [] ∧ t.flights = [] ∧ t.setting = [] ∧
       t.errs = [] ∧ t.rot.hm = [] ∧ t.aon.dev = .vestibule ∧ t.aon.cold = true ∧ t.aon.fast = false ∧ t.aon.trip = false ∧ t.aon.newel = 0 ∧
       t.aon.owners = a.owners ∧ t.aon.fuseSvn = a.fuseSvn ∧ t.pending = s.pending ∧ ∀ off, t.reg off = (regDefault off).toNat
     (∃ t, exec .coldReset s = .next t ∧ fresh t ∧ t.store = s.store ∧ t.aon.vdd = true ∧ t.aon.warm = a.warm ∧ t.aon.stopLatch = a.stopLatch ∧
       t.aon.fatalLatch = a.fatalLatch) ∧
     (∃ t, exec .vddAonLoss s = .next t ∧ fresh t ∧ t.store = [] ∧ t.aon.vdd = false ∧ t.aon.stopLatch = 0 ∧ t.aon.fatalLatch = none)) ∧
    (∀ b : BitVec 2, (a.vdd = false ∨ a.cold = false → same (.coldResetRelease b)) ∧
      (a.vdd = true → a.cold = true → ∃ t, exec (.coldResetRelease b) s = .next t ∧
        t.aon = { a with cold := false, smbAddr := b, stopLatch := 0, fatalLatch := none } ∧
        t.fld Fld.PWR_STOP_CAUSE_COOLANT = a.stopLatch.toNat % 2 ∧ t.fld Fld.PWR_STOP_CAUSE_TRIP = a.stopLatch.toNat / 2 % 2 ∧
        t.fld Fld.PWR_STOP_CAUSE_RAIL = a.stopLatch.toNat / 4 ∧
        (∀ code ukind unit, a.fatalLatch = some (code, ukind, unit) → code < 2 ^ 8 → t.fld Fld.ERR_LAST_FATAL_CODE = code ∧ t.fld Fld.ERR_LAST_FATAL_VALID = 1) ∧
        t.hm 0 = sha384 (s.hm 0 ++ hevBytes ⟨1, 0, 0, a.newel, natBe 48 Config.romDigest.toNat, 0⟩) ∧
        t.hm 2 = sha384 (s.hm 2 ++ hevBytes ⟨3, 2, 0, a.newel, sha384 s.fuseBytes, 0⟩))) ∧
    (let starts : Prop := live ∧ a.fast = false ∧ a.dev = .vestibule
     (¬ starts → same .fastClocksStart) ∧
     (starts → ∃ t, exec .fastClocksStart s = .next t ∧ t.aon = { a with fast := true } ∧ t = { s with aon := t.aon, ep := t.ep } ∧
       t.ep.invGen = s.ep.invGen + 2)) ∧
    (let takes : Prop := live ∧ (a.dev = .vestibule ∨ a.dev = .service)
     let quiet : Prop := s.txns = [] ∧ s.fence 0x21 2 = 0
     (a.vdd = false → same .warmReset) ∧ (a.vdd = true → ¬ takes → just .warmReset { a with warm := true }) ∧
     (takes → ∃ t, exec .warmReset s = .next t ∧ t.aon.warm = true ∧ t.fld Fld.SET_PART_RUN_RUN = 0 ∧ t.sqs = [] ∧ t.cqs = [] ∧ t.flights = [] ∧
       t.clasp = Clasp.empty ∧ t.rot.sess = [] ∧ t.rot.keys = s.rot.keys ∧ t.rot.fw = s.rot.fw ∧ t.store = s.store ∧
       t.setting = (if s.fld Fld.SET_LOAD_CMD_GO = 1 then [] else s.setting) ∧
       (quiet → t.aon = { a with warm := true, dev := if s.fld Fld.SET_LOAD_CMD_GO = 1 then .vestibule else a.dev } ∧ t.errs = s.errs ∧ t.ep.hold = [] ∧ ∀ c, (t.core c).teamList = [] ∧ (t.core c).groupList = [])) ∧
     (s.runs = false ∨ s.ep.linkUp = false → same .cxlReset) ∧
     (s.runs = true → s.ep.linkUp = true → s.linkBusy 1 = true → exec .cxlReset s = .next { s with inWait := s.inWait ++ [.cxlReset] }) ∧ (s.ioHere = true → exec .cxlReset s = exec .warmReset s) ∧
     (a.vdd = false ∨ a.warm = false → same .warmResetRelease) ∧
     (a.vdd = true → a.warm = true → s.ep.linkUp = false → just .warmResetRelease { a with warm := false }) ∧
     (a.vdd = true → a.warm = true → s.ep.linkUp = true → ∃ t, exec .warmResetRelease s = .next t ∧ t.aon = { a with warm := false } ∧
       t = { s with aon := t.aon, ep := t.ep } ∧ (t.cfgW 0x168).getLsbD 17 = true)) ∧
    ((¬ live ∨ a.dev = .stopped → same .loupeFreezeRise) ∧ (live → a.dev ≠ .stopped → exec .loupeFreezeRise s = .next s.freeze)) ∧
    (let stops := fun (i : Instr) (n code : Nat) => (down → just i { a with stopLatch := a.stopLatch ||| (1#3 <<< n) }) ∧
       (¬ down → ∃ t, exec i s = .next t ∧ Halted s t code 8 0 ∧ t.aon.stopLatch = a.stopLatch ||| (1#3 <<< n) ∧ t.cores = s.cores)
     (¬ live ∨ (a.fast = false ∧ ¬ down) → same .coolantStop) ∧ (live → a.fast = true ∨ down → stops .coolantStop 0 0x35) ∧
     (∀ r : Fin 5, (¬ live → same (.railFault r)) ∧ (live → stops (.railFault r) 2 0x34)) ∧
     (¬ live ∨ a.osc = true → same .refclkHostLoss) ∧ (live → a.osc = false → down → ∃ t, exec .refclkHostLoss s = .next t ∧ (s.logFree → Logged s t 0x33 3 8 0) ∧ (a.alert = true → t.aon.alert = true) ∧
       t.aon = { a with osc := true, alert := t.aon.alert, fatalLatch := some (a.fatalLatch.getD (0x33, 8, 0)) } ∧
       (a.fast = false → t = { s with aon := t.aon, errs := t.errs, errSeq := t.errSeq, regs := t.regs })) ∧
     (live → a.osc = false → ¬ down → ∃ t, exec .refclkHostLoss s = .next t ∧ Halted s t 0x33 8 0 ∧ t.aon.osc = true ∧ t.aon.stopLatch = a.stopLatch)) ∧
    (∀ k : Fin 8, s.runs = true → let off : Prop := s.rot.fw = none ∨ (k ≠ 0 ∧ (a.dev = .vestibule ∨ (s.fence 0x20 1).testBit k = true))
      (off → same (.watchdog k)) ∧ (¬ off → k = 0 → ∃ t, exec (.watchdog k) s = .next t ∧ Halted s t 0x37 7 0) ∧
      (¬ off → k ≠ 0 → s.sameUnitOpen 7 k = false → s.logFree → ∃ t, exec (.watchdog k) s = .next t ∧ Logged s t 0x1B 1 7 k ∧ t.aon.dev = a.dev ∧
        t.fld Fld.ERR_DEFER_CNT_COUNT = (s.fld Fld.ERR_DEFER_CNT_COUNT + 1) % 2 ^ 48 ∧ t.cores = s.cores)) ∧
    (∀ c : Fin 256, s.runs = true → let late : Prop := ∃ e, e ∈ (s.core c).teamList ∧ (e.2.st = .stopping ∨ e.2.st = .saving)
      (¬ late → same (.coreStopTimeout c)) ∧
      (∀ p, late → s.corePart c = some p → s.sameUnitOpen 0 c = false → s.logFree → ∃ t, exec (.coreStopTimeout c) s = .next t ∧
        Logged s t 0x21 2 0 c ∧ (t.fld Fld.SET_PART_RUN_RUN).testBit p = false ∧
        t.fld Fld.ERR_CONTAIN_CNT_COUNT = (s.fld Fld.ERR_CONTAIN_CNT_COUNT + 1) % 2 ^ 48) ∧
      (late → s.corePart c = none → ∃ t, exec (.coreStopTimeout c) s = .next t ∧ Halted s t 0x21 0 c))

/-- O55. Read-out: the JTAG instructions select and shift their registers, a read-out word is zero where its chain is not public on a
locked chip or no freeze is in force, and the sideband answers STATUS, LOUPE_INFO, LOUPE_READ, LOG_READ and FREEZE. Where a clause
rests on a choice of the model: log entries 72, 73. -/
def Obligations.ReadOut : Prop :=
  ∀ s : State,
    let a := s.aon
    let live : Prop := a.vdd = true ∧ a.cold = false
    let gives := fun (i : Instr) (f : Aon) => exec i s = .next { s with aon := f }
    let word := fun (c n : Nat) => if (c = 0 ∨ a.dev = .frozen) ∧ (chainPublic c = some true ∨ (chainPublic c = some false ∧ s.fld Fld.SEC_STATUS_UNLOCKED = 1))
      then s.chainWord c n else 0
    let answers := fun (i : Instr) (cc : Byte) (m : List Byte) => ∃ t, exec i s = .next t ∧ t = { s with rot := t.rot } ∧ t.rot = { s.rot with smbTx := s.rot.smbTx ++ [cc :: m] }
    (live → (∀ pins : List Bool, gives (.extest pins) { a with jir := .extest, tdo := a.jpins, jpins := pins } ∧
        gives (.samplePreload pins) { a with jir := .sample, tdo := pins, jpins := pins }) ∧
      gives .idcode { a with jir := .idcode, tdo := (List.range 32).map (0x17140999).testBit } ∧
      gives .clamp { a with jir := .clamp, tdo := [false] } ∧ gives .bypass { a with jir := .bypass, tdo := [false] } ∧
      (∀ (c : W16) (n : W32), gives (.loupeSel c n) { a with jir := .loupeSel, tdo := [], selChain := c, selOff := n }) ∧
      gives .loupeRead { a with jir := .loupeRead, tdo := (List.range 32).map (word a.selChain.toNat a.selOff.toNat).testBit, selOff := a.selOff + 1 } ∧
      (a.dev = .stopped → gives .loupeFreeze { a with jir := .loupeFreeze, tdo := [] }) ∧
      (a.dev ≠ .stopped → gives .loupeFreeze { a with jir := .loupeFreeze, tdo := [], dev := .frozen, fast := false, alert := true })) ∧
    (¬ live → ∀ (pins : List Bool) (c : W16) (n : W32), exec (.extest pins) s = .next s ∧ exec .idcode s = .next s ∧ exec (.samplePreload pins) s = .next s ∧
      exec .clamp s = .next s ∧ exec .bypass s = .next s ∧ exec (.loupeSel c n) s = .next s ∧ exec .loupeRead s = .next s ∧ exec .loupeFreeze s = .next s) ∧
    (a.vdd = true → gives .tapReset { a with jir := .idcode, tdo := [] }) ∧ (a.vdd = false → exec .tapReset s = .next s) ∧
    (live → answers .status 0 (natLe 1 a.dev.code ++ natLe 4 s.errStatus ++ natLe 1 a.stopLatch.toNat) ∧
      (a.dev = .stopped → answers .freeze 0 []) ∧
      (a.dev ≠ .stopped → ∃ t, exec .freeze s = .next t ∧ t = { s.freeze with rot := t.rot } ∧ t.rot = { s.rot with smbTx := s.rot.smbTx ++ [[0]] })) ∧
    (∀ c : W16, live → (∀ p, chainPublic c.toNat = some p → answers (.loupeInfo c) 0 (natLe 2 1197 ++ natLe 4 (s.chainLen c.toNat) ++ [if p then 1 else 0])) ∧
      (chainPublic c.toNat = none → answers (.loupeInfo c) 1 []) ∧
      ∀ (n : W32) (k : Nat), let i : Instr := .sidebandLoupeRead c n k
        let bad : Prop := chainPublic c.toNat = none ∨ k = 0 ∨ 256 < k
        (bad → answers i 1 []) ∧ (¬ bad → c ≠ 0 → a.dev ≠ .frozen → answers i 2 []) ∧
        (¬ bad → c = 0 ∨ a.dev = .frozen → answers i 0 ((List.range k).flatMap (fun j => natLe 4 (word c.toNat (n.toNat + j)))))) ∧
    (∀ (l : Byte) (first k : Nat), live → let i : Instr := .logRead l first k
      let size := if l = 1 then 512 else if l = 2 then 64 else 0
      let bad : Prop := k = 0 ∨ 32 < k ∨ size < first + k
      (bad → answers i 1 []) ∧ (¬ bad → l = 1 → answers i 0 ((List.range k).flatMap (fun j => s.errEntry (first + j)))) ∧
      (¬ bad → l = 2 → answers i 0 ((List.range k).flatMap (fun j => s.violEntry (first + j))))) ∧
    (¬ live → ∀ (c : W16) (n : W32) (l : Byte) (first k : Nat), exec .status s = .next s ∧ exec .freeze s = .next s ∧ exec (.loupeInfo c) s = .next s ∧
      exec (.sidebandLoupeRead c n k) s = .next s ∧ exec (.logRead l first k) s = .next s)

/-- O56. Register accesses: a write takes up the fields by their types, a violation leaves every field and is logged and counted, a
read returns the register's word, and the writes of ERR_LOUPE, CNT_CTL and OPEN act. Where a clause rests on a choice of the model:
log entries 74, 75, 76. -/
def Obligations.RegisterAccesses : Prop :=
  ∀ (a : Agent) (s : State),
    let count := fun (t : State) (f : FRef) => t.fld f = (s.fld f + 1) % 2 ^ 48
    let logged := fun (t : State) (off size reason data : Nat) => count t Fld.ERR_VIOL_CNT_COUNT ∧ t.vSeq = s.vSeq + 1 ∧
      SMap.get noViol t.vlog (s.vSeq.toNat % 64) = some ⟨s.aon.newel, BitVec.ofNat 64 data, off, size, reason, a, s.vSeq.toNat⟩
    let calm : Prop := s.fldB Fld.ERR_TRACE_CTL_EN = false ∧ s.fldB Fld.ERR_CTL_EN_VIOL = false
    (∀ (off : BitVec 25) (size : AccSize) (v : W64), s.reaches a off.toNat = false → exec (.registerWrite a off size v) s = .next s ∨
      (a = .host ∧ s.ep.cont = .frozen ∧ exec (.registerWrite a off size v) s = .next s.refused)) ∧
    (∀ (off : BitVec 25) (v : W64) (r : RRow), let o := off.toNat
      let w := v.toNat % 2 ^ 32
      let i : Instr := .registerWrite a off .b4 v
      o % 4 = 0 → s.reaches a o = true → findReg o = some (r, o) → r.wide = false → inMirror o = false → inErrLog o = false → inViolLog o = false → inMsix o = false →
        inPba o = false → inComp o = false → s.assigned o 4 = true → o ≠ Reg.XLT_RING_CONS →
      (∀ n, (s.touchReg a o).violates a r o w (2 ^ 32 - 1) = some n → ∃ t, exec i s = .next t ∧ logged t o 2 n w ∧ t.cores = s.cores ∧
        (calm → ∀ q, q ≠ Reg.ERR_VIOL_CNT → t.reg q = s.reg q)) ∧
      ((s.touchReg a o).violates a r o w (2 ^ 32 - 1) = none → exec i s =
        .next ((s.written a r o w).regAct a o w (w.testBit 31) ((s.reg o).testBit 31))) ∧
      (∀ f, f ∈ r.fs → (∀ g, g ∈ r.fs → g.lo ≤ g.hi ∧ g.hi < 32) → r.fs.Pairwise (fun g h => g.hi < h.lo ∨ h.hi < g.lo) → let old := bits (s.reg o) f.hi f.lo
        let new_ := bits w f.hi f.lo
        bits ((s.written a r o w).reg o) f.hi f.lo = match f.ty with
          | .rw => new_
          | .rwq => new_
          | .w1c => old - (old &&& new_)
          | .w1s => old ||| new_
          | _ => old) ∧
      (∀ q, q ≠ o → (s.written a r o w).reg q = s.reg q)) ∧
    (∀ (off : BitVec 25) (size : AccSize) (v : W64), let o := off.toNat
      let i : Instr := .registerWrite a off size v
      s.reaches a o = true → (s.assigned o size.bytes = false → exec i s = .next s) ∧
      (s.assigned o size.bytes = true → size = .b1 ∨ size = .b2 → ∃ t, exec i s = .next t ∧ logged t o (if size = .b1 then 0 else 1) 4 (v.toNat % 2 ^ (8 * size.bytes))) ∧
      (∀ r, size = .b8 → o % 8 = 0 → findReg o = some (r, o) → r.wide = true → s.assigned o 8 = true → o ≠ Reg.XLT_RING_CONS →
        (∀ n, (s.touchReg a o).violates a r o v.toNat (2 ^ 64 - 1) = some n → ∃ t, exec i s = .next t ∧ logged t o 3 n v.toNat) ∧
        ((s.touchReg a o).violates a r o v.toNat (2 ^ 64 - 1) = none → exec i s =
          .next ((s.written a r o v.toNat).regAct a o v.toNat (v.toNat.testBit 31) ((s.reg o).testBit 31))))) ∧
    (∀ (off : BitVec 25) (v : W64), let o := off.toNat
      s.reaches a o = true → s.assigned o 8 = true → o % 8 ≠ 0 → ∃ t, exec (.registerWrite a off .b8 v) s = .next t ∧ logged t o 3 4 v.toNat) ∧
    (∀ off : BitVec 25, let o := off.toNat
      let i : Instr := .registerRead a off .b4
      (a = .firmware → s.fwRuns = false → exec i s = .next s) ∧ (a = .host → s.runs = false ∨ s.ep.linkUp = false → exec i s = .next s) ∧
      (a = .host → s.runs = true → s.ep.linkUp = true → s.linkBusy 1 = true → exec i s = .next { s with inWait := s.inWait ++ [i] }) ∧
      (a = .firmware → s.fwRuns = true → o % 4 = 0 → ∃ t, exec i s = .next t ∧ t = { s with holdFw := t.holdFw }) ∧
      (a = .host → s.ioHere = true → s.inD3 = true ∨ s.memEnable = false → exec i s = .next s.sendUr) ∧
      (a = .host → s.ioHere = true → s.inD3 = false → s.memEnable = true → s.ep.cont = .frozen → servedFrozen o = false →
        exec i s = .next s.refused.sendCa) ∧
      (∀ r w, s.reaches .host o = true → a = .host → o % 4 = 0 → findReg o = some (r, o) → r.wide = false → s.word o = some w → w < 2 ^ 32 →
        ∃ t, exec i s = .next t ∧ t.ep = { s.ep with tx := s.ep.tx ++ [.regRsp (BitVec.ofNat 64 w)] } ∧ t = { s with ep := t.ep, holdHost := t.holdHost }) ∧
      (s.reaches .host o = true → a = .host → o % 4 = 0 → s.assigned o 4 = false →
        exec i s = .next (s.hostSend (.regRsp 0)))) ∧
    (∀ idx : Fin 512, let i : Instr := .openClear a idx
      let o := 0x24000 + 32 * idx.val + 0x10
      s.reaches a o = true → ∃ t, exec i s = .next t ∧ t.regs = s.regs ∧ t.errSeq = s.errSeq ∧
        (∀ e, SMap.get noErr s.errs idx = some e → SMap.get noErr t.errs idx = some { e with opn := false }) ∧
        (SMap.get noErr s.errs idx = none → SMap.get noErr t.errs idx = none) ∧ ∀ j, j ≠ idx.val → SMap.get noErr t.errs j = SMap.get noErr s.errs j) ∧
    (∀ key : Byte, let w := key.toNat * 2 ^ 24 + 1
      s.reaches a Reg.ERR_LOUPE = true →
      (key ≠ 0x4C → ∃ t, exec (.errLoupeFreeze a key) s = .next t ∧ logged t Reg.ERR_LOUPE 2 7 w ∧ t.aon.dev = s.aon.dev) ∧
      (key = 0x4C → s.aon.dev ≠ .stopped → ∃ t, exec (.errLoupeFreeze a key) s = .next t ∧ t.aon = s.freeze.aon ∧ t.mem = s.mem ∧ t.cores = s.cores)) ∧
    (∀ b : Bool, (∃ r, WriteOk a s r Reg.CNT_CTL (2 ^ 30 + b.toNat * 2 ^ 31)) → ∃ t, exec (.cntClear a b) s = .next t ∧ JustRegs s t ∧
      (∀ k, k < 32 → t.fld (Fld.CNT_COUNT k) = 0) ∧ t.fldB Fld.CNT_CTL_RUN = b ∧ t.fld Fld.CNT_CTL_CLEAR = 0)

/-- O57. An offset of BAR0 that no chapter assigns reads as zero and ignores writes, whatever the width and alignment; the access is
no violation and is not logged (R15). -/
def Obligations.UnassignedOffsets : Prop :=
  ∀ (a : Agent) (s : State) (off : BitVec 25) (size : AccSize) (v : W64), s.reaches a off.toNat = true →
    (∀ n, off.toNat ≤ n → n < off.toNat + size.bytes → s.word (n / 4 * 4) = none) →
    exec (.registerWrite a off size v) s = .next s ∧ (a = .firmware → exec (.registerRead a off size) s = .next s) ∧
      (a = .host → ∃ t, exec (.registerRead a off size) s = .next t ∧ t = { s with ep := t.ep } ∧ t.ep = { s.ep with tx := s.ep.tx ++ [.regRsp 0] })

/-- O58. Rules of the whole machine: while the fast-clock units do not run, every command but those of the always-on domain leaves the
state as it is; and a stopped or frozen chip stays so, with its cores, caches and memory, until cold reset or the loss of vdd_aon.
Where a clause rests on a choice of the model: log entries 4, 8. -/
def Obligations.ClocksStopUntilColdReset : Prop :=
  (∀ (s : State) (c : Instr), s.runs = false → alwaysOn c = false → exec c s = .next s) ∧
  (∀ s t : State, s.halted → step s = .next t → s.pending.head? ≠ some .coldReset → s.pending.head? ≠ some .vddAonLoss →
    t.halted ∧ t.aon.dev = s.aon.dev ∧ t.mem = s.mem ∧ t.cores = s.cores ∧ t.l2 = s.l2 ∧ t.ports = s.ports ∧ t.ep.tx = s.ep.tx ∧
      t.setting = s.setting ∧ (s.pending.head? ≠ some .refclkHostLoss → t.regs = s.regs ∧ t.errs = s.errs))

/-- O59. Every step keeps the always-on domain legal. -/
def Obligations.EveryStepIsLegal : Prop := ∀ s t : State, Legal s → step s = .next t → Legal t

/-- O60. Every step keeps the canonical form of memory. Where a clause rests on a choice of the model: log entry 6. -/
def Obligations.EveryStepKeepsMemoryCanonical : Prop := ∀ s t : State, Memory.wf s.mem = true → step s = .next t → Memory.wf t.mem = true
end

