-- ==== Sys2Proof/Laws/SMap.lean ====
section
/-! SUPPORT. Reading a sparse map after a write, and the canonical form that every write keeps. -/
namespace Sys2Proof.Machine

variable {α : Type}

theorem SMap.get_del_self {d : Nat → α} (m : SMap α) (k : Nat) : SMap.get d (m.del k) k = d k := by
  induction m with
  | nil => rfl
  | cons e r ih =>
    obtain ⟨j, w⟩ := e
    by_cases h : k = j
    · subst h; simpa [SMap.del] using ih
    · simp [SMap.del, SMap.get, h, ih]

theorem SMap.get_del_ne {d : Nat → α} (m : SMap α) {k i : Nat} (hi : i ≠ k) : SMap.get d (m.del k) i = SMap.get d m i := by
  induction m with
  | nil => rfl
  | cons e r ih =>
    obtain ⟨j, w⟩ := e
    by_cases h : k = j
    · subst h; simp [SMap.del, SMap.get, hi, ih]
    · simp [SMap.del, SMap.get, h, ih]

theorem SMap.get_put_self {d : Nat → α} (m : SMap α) (k : Nat) (v : α) : SMap.get d ((m.del k).put k v) k = v := by
  induction m with
  | nil => simp [SMap.del, SMap.put, SMap.get]
  | cons e r ih =>
    obtain ⟨j, w⟩ := e
    by_cases h : k = j
    · subst h; simpa [SMap.del] using ih
    · by_cases h2 : k < j <;> simp [SMap.del, SMap.put, SMap.get, h, h2, ih]

theorem SMap.get_put_ne {d : Nat → α} (m : SMap α) {k i : Nat} (v : α) (hi : i ≠ k) : SMap.get d (m.put k v) i = SMap.get d m i := by
  induction m with
  | nil => simp [SMap.put, SMap.get, hi]
  | cons e r ih =>
    obtain ⟨j, w⟩ := e
    by_cases h2 : k < j <;> simp [SMap.put, SMap.get, h2, hi, ih]

/-- A key reads as what was written. -/
@[simp] theorem SMap.get_set_self [DecidableEq α] (d : Nat → α) (m : SMap α) (k : Nat) (v : α) : SMap.get d (SMap.set d m k v) k = v := by
  by_cases hv : v = d k
  · simp [SMap.set, hv, SMap.get_del_self]
  · simp [SMap.set, hv, SMap.get_put_self]

/-- A write leaves every other key as it read. -/
theorem SMap.get_set_ne [DecidableEq α] (d : Nat → α) (m : SMap α) {k i : Nat} (v : α) (hi : i ≠ k) :
    SMap.get d (SMap.set d m k v) i = SMap.get d m i := by
  by_cases hv : v = d k
  · simp [SMap.set, hv, SMap.get_del_ne _ hi]
  · simp [SMap.set, hv, SMap.get_put_ne _ _ hi, SMap.get_del_ne _ hi]

/-- Reading after a write, in one equation. -/
theorem SMap.get_set [DecidableEq α] (d : Nat → α) (m : SMap α) (k i : Nat) (v : α) :
    SMap.get d (SMap.set d m k v) i = if i = k then v else SMap.get d m i := by
  by_cases h : i = k
  · subst h; simp
  · simp [h, SMap.get_set_ne _ _ _ h]

/-! ### The canonical form -/

theorem SMap.wfFrom_mono [DecidableEq α] {d : Nat → α} {m : SMap α} {b c : Nat} (h : SMap.wfFrom d (some b) m = true) (hc : c ≤ b) :
    SMap.wfFrom d (some c) m = true := by
  cases m with
  | nil => rfl
  | cons e r =>
    simp only [SMap.wfFrom, Bool.and_eq_true, decide_eq_true_eq] at h ⊢
    exact ⟨⟨by omega, h.1.2⟩, h.2⟩

theorem SMap.wf_of_wfFrom [DecidableEq α] {d : Nat → α} {m : SMap α} {b : Option Nat} (h : SMap.wfFrom d b m = true) :
    SMap.wfFrom d none m = true := by
  cases m with
  | nil => rfl
  | cons e r =>
    simp only [SMap.wfFrom, Bool.and_eq_true, decide_eq_true_eq] at h ⊢
    exact ⟨⟨trivial, h.1.2⟩, h.2⟩

theorem SMap.wfFrom_tail [DecidableEq α] {d : Nat → α} {r : SMap α} {j : Nat} {b : Option Nat} (h : SMap.wfFrom d (some j) r = true)
    (hb : ∀ c, b = some c → c < j) : SMap.wfFrom d b r = true := by
  cases b with
  | none => exact SMap.wf_of_wfFrom h
  | some c => exact SMap.wfFrom_mono h (Nat.le_of_lt (hb c rfl))

theorem SMap.del_wfFrom [DecidableEq α] {d : Nat → α} {m : SMap α} {k : Nat} {b : Option Nat} (h : SMap.wfFrom d b m = true) :
    SMap.wfFrom d b (m.del k) = true := by
  induction m generalizing b with
  | nil => rfl
  | cons e r ih =>
    obtain ⟨j, w⟩ := e
    simp only [SMap.wfFrom, Bool.and_eq_true, decide_eq_true_eq] at h
    obtain ⟨⟨hj, hw⟩, hr⟩ := h
    by_cases h1 : k = j
    · simp only [SMap.del, h1, if_true]
      refine SMap.wfFrom_tail (h1 ▸ ih hr) ?_
      intro c hc; subst hc; simpa using hj
    · simp only [SMap.del, h1, if_false, SMap.wfFrom, Bool.and_eq_true, decide_eq_true_eq]
      exact ⟨⟨hj, hw⟩, ih hr⟩

theorem SMap.put_wfFrom [DecidableEq α] {d : Nat → α} {m : SMap α} {k : Nat} {v : α} {b : Option Nat}
    (h : SMap.wfFrom d b (m.del k) = true) (hb : ∀ c, b = some c → c < k) (hv : v ≠ d k) :
    SMap.wfFrom d b ((m.del k).put k v) = true := by
  induction m generalizing b with
  | nil =>
    simp only [SMap.del, SMap.put, SMap.wfFrom, Bool.and_eq_true, decide_eq_true_eq]
    exact ⟨⟨by cases b with | none => rfl | some c => simpa using hb c rfl, hv⟩, trivial⟩
  | cons e r ih =>
    obtain ⟨j, w⟩ := e
    by_cases h1 : k = j
    · simp only [SMap.del, h1, if_true] at h ⊢
      exact h1 ▸ ih (h1 ▸ h) hb
    · simp only [SMap.del, h1, if_false] at h ⊢
      simp only [SMap.wfFrom, Bool.and_eq_true, decide_eq_true_eq] at h
      obtain ⟨⟨hj, hw⟩, hr⟩ := h
      by_cases h2 : k < j
      · simp only [SMap.put, h2, if_true, SMap.wfFrom, Bool.and_eq_true, decide_eq_true_eq]
        exact ⟨⟨by cases b with | none => rfl | some c => simpa using hb c rfl, hv⟩, ⟨trivial, hw⟩, hr⟩
      · simp only [SMap.put, h2, if_false, SMap.wfFrom, Bool.and_eq_true, decide_eq_true_eq]
        exact ⟨⟨hj, hw⟩, ih hr (by intro c hc; cases hc; omega)⟩

/-- Every write keeps the canonical form. -/
theorem SMap.set_wf [DecidableEq α] {d : Nat → α} {m : SMap α} {k : Nat} {v : α} (h : SMap.wf d m = true) :
    SMap.wf d (SMap.set d m k v) = true := by
  by_cases hv : v = d k
  · simpa [SMap.wf, SMap.set, hv] using SMap.del_wfFrom h
  · simp only [SMap.wf, SMap.set, hv, if_false]
    exact SMap.put_wfFrom (SMap.del_wfFrom h) (by intro c hc; cases hc) hv

end Sys2Proof.Machine
end

