-- ==== Sys2Proof/Laws/State.lean ====
section
/-! SUPPORT. What the updates of one field of State leave as it was: one lemma per field and update, true by unfolding. -/
namespace Sys2Proof.Machine

/-! ### setReg -/

@[simp] theorem setReg_aon (s : State) (o v : Nat) : (s.setReg o v).aon = s.aon := rfl
@[simp] theorem setReg_holdHost (s : State) (o v : Nat) : (s.setReg o v).holdHost = s.holdHost := rfl
@[simp] theorem setReg_holdFw (s : State) (o v : Nat) : (s.setReg o v).holdFw = s.holdFw := rfl
@[simp] theorem setReg_errs (s : State) (o v : Nat) : (s.setReg o v).errs = s.errs := rfl
@[simp] theorem setReg_errSeq (s : State) (o v : Nat) : (s.setReg o v).errSeq = s.errSeq := rfl
@[simp] theorem setReg_vlog (s : State) (o v : Nat) : (s.setReg o v).vlog = s.vlog := rfl
@[simp] theorem setReg_vSeq (s : State) (o v : Nat) : (s.setReg o v).vSeq = s.vSeq := rfl
@[simp] theorem setReg_cores (s : State) (o v : Nat) : (s.setReg o v).cores = s.cores := rfl
@[simp] theorem setReg_mem (s : State) (o v : Nat) : (s.setReg o v).mem = s.mem := rfl
@[simp] theorem setReg_gpoison (s : State) (o v : Nat) : (s.setReg o v).gpoison = s.gpoison := rfl
@[simp] theorem setReg_hpoison (s : State) (o v : Nat) : (s.setReg o v).hpoison = s.hpoison := rfl
@[simp] theorem setReg_hbmGen (s : State) (o v : Nat) : (s.setReg o v).hbmGen = s.hbmGen := rfl
@[simp] theorem setReg_hbmSt (s : State) (o v : Nat) : (s.setReg o v).hbmSt = s.hbmSt := rfl
@[simp] theorem setReg_l2 (s : State) (o v : Nat) : (s.setReg o v).l2 = s.l2 := rfl
@[simp] theorem setReg_msc (s : State) (o v : Nat) : (s.setReg o v).msc = s.msc := rfl
@[simp] theorem setReg_mntPos (s : State) (o v : Nat) : (s.setReg o v).mntPos = s.mntPos := rfl
@[simp] theorem setReg_dir (s : State) (o v : Nat) : (s.setReg o v).dir = s.dir := rfl
@[simp] theorem setReg_txns (s : State) (o v : Nat) : (s.setReg o v).txns = s.txns := rfl
@[simp] theorem setReg_conflict (s : State) (o v : Nat) : (s.setReg o v).conflict = s.conflict := rfl
@[simp] theorem setReg_preqs (s : State) (o v : Nat) : (s.setReg o v).preqs = s.preqs := rfl
@[simp] theorem setReg_wbuf (s : State) (o v : Nat) : (s.setReg o v).wbuf = s.wbuf := rfl
@[simp] theorem setReg_inHold (s : State) (o v : Nat) : (s.setReg o v).inHold = s.inHold := rfl
@[simp] theorem setReg_delayed (s : State) (o v : Nat) : (s.setReg o v).delayed = s.delayed := rfl
@[simp] theorem setReg_rbuf (s : State) (o v : Nat) : (s.setReg o v).rbuf = s.rbuf := rfl
@[simp] theorem setReg_nextTxn (s : State) (o v : Nat) : (s.setReg o v).nextTxn = s.nextTxn := rfl
@[simp] theorem setReg_lateInv (s : State) (o v : Nat) : (s.setReg o v).lateInv = s.lateInv := rfl
@[simp] theorem setReg_biConf (s : State) (o v : Nat) : (s.setReg o v).biConf = s.biConf := rfl
@[simp] theorem setReg_hcReqs (s : State) (o v : Nat) : (s.setReg o v).hcReqs = s.hcReqs := rfl
@[simp] theorem setReg_flip (s : State) (o v : Nat) : (s.setReg o v).flip = s.flip := rfl
@[simp] theorem setReg_purges (s : State) (o v : Nat) : (s.setReg o v).purges = s.purges := rfl
@[simp] theorem setReg_ctxs (s : State) (o v : Nat) : (s.setReg o v).ctxs = s.ctxs := rfl
@[simp] theorem setReg_tlbs (s : State) (o v : Nat) : (s.setReg o v).tlbs = s.tlbs := rfl
@[simp] theorem setReg_stlb (s : State) (o v : Nat) : (s.setReg o v).stlb = s.stlb := rfl
@[simp] theorem setReg_walks (s : State) (o v : Nat) : (s.setReg o v).walks = s.walks := rfl
@[simp] theorem setReg_nextWalk (s : State) (o v : Nat) : (s.setReg o v).nextWalk = s.nextWalk := rfl
@[simp] theorem setReg_frecs (s : State) (o v : Nat) : (s.setReg o v).frecs = s.frecs := rfl
@[simp] theorem setReg_fseq (s : State) (o v : Nat) : (s.setReg o v).fseq = s.fseq := rfl
@[simp] theorem setReg_xops (s : State) (o v : Nat) : (s.setReg o v).xops = s.xops := rfl
@[simp] theorem setReg_wins (s : State) (o v : Nat) : (s.setReg o v).wins = s.wins := rfl
@[simp] theorem setReg_winOld (s : State) (o v : Nat) : (s.setReg o v).winOld = s.winOld := rfl
@[simp] theorem setReg_winOut (s : State) (o v : Nat) : (s.setReg o v).winOut = s.winOut := rfl
@[simp] theorem setReg_ep (s : State) (o v : Nat) : (s.setReg o v).ep = s.ep := rfl
@[simp] theorem setReg_inWait (s : State) (o v : Nat) : (s.setReg o v).inWait = s.inWait := rfl
@[simp] theorem setReg_sqs (s : State) (o v : Nat) : (s.setReg o v).sqs = s.sqs := rfl
@[simp] theorem setReg_cqs (s : State) (o v : Nat) : (s.setReg o v).cqs = s.cqs := rfl
@[simp] theorem setReg_certs (s : State) (o v : Nat) : (s.setReg o v).certs = s.certs := rfl
@[simp] theorem setReg_turns (s : State) (o v : Nat) : (s.setReg o v).turns = s.turns := rfl
@[simp] theorem setReg_chanXf (s : State) (o v : Nat) : (s.setReg o v).chanXf = s.chanXf := rfl
@[simp] theorem setReg_imgs (s : State) (o v : Nat) : (s.setReg o v).imgs = s.imgs := rfl
@[simp] theorem setReg_streams (s : State) (o v : Nat) : (s.setReg o v).streams = s.streams := rfl
@[simp] theorem setReg_pages (s : State) (o v : Nat) : (s.setReg o v).pages = s.pages := rfl
@[simp] theorem setReg_moves (s : State) (o v : Nat) : (s.setReg o v).moves = s.moves := rfl
@[simp] theorem setReg_brings (s : State) (o v : Nat) : (s.setReg o v).brings = s.brings := rfl
@[simp] theorem setReg_advised (s : State) (o v : Nat) : (s.setReg o v).advised = s.advised := rfl
@[simp] theorem setReg_fetches (s : State) (o v : Nat) : (s.setReg o v).fetches = s.fetches := rfl
@[simp] theorem setReg_cnps (s : State) (o v : Nat) : (s.setReg o v).cnps = s.cnps := rfl
@[simp] theorem setReg_ports (s : State) (o v : Nat) : (s.setReg o v).ports = s.ports := rfl
@[simp] theorem setReg_inbox (s : State) (o v : Nat) : (s.setReg o v).inbox = s.inbox := rfl
@[simp] theorem setReg_left (s : State) (o v : Nat) : (s.setReg o v).left = s.left := rfl
@[simp] theorem setReg_leaves (s : State) (o v : Nat) : (s.setReg o v).leaves = s.leaves := rfl
@[simp] theorem setReg_joined (s : State) (o v : Nat) : (s.setReg o v).joined = s.joined := rfl
@[simp] theorem setReg_servo (s : State) (o v : Nat) : (s.setReg o v).servo = s.servo := rfl
@[simp] theorem setReg_flights (s : State) (o v : Nat) : (s.setReg o v).flights = s.flights := rfl
@[simp] theorem setReg_notes (s : State) (o v : Nat) : (s.setReg o v).notes = s.notes := rfl
@[simp] theorem setReg_slots (s : State) (o v : Nat) : (s.setReg o v).slots = s.slots := rfl
@[simp] theorem setReg_jobWork (s : State) (o v : Nat) : (s.setReg o v).jobWork = s.jobWork := rfl
@[simp] theorem setReg_eth (s : State) (o v : Nat) : (s.setReg o v).eth = s.eth := rfl
@[simp] theorem setReg_setting (s : State) (o v : Nat) : (s.setReg o v).setting = s.setting := rfl
@[simp] theorem setReg_effDig (s : State) (o v : Nat) : (s.setReg o v).effDig = s.effDig := rfl
@[simp] theorem setReg_loadDig (s : State) (o v : Nat) : (s.setReg o v).loadDig = s.loadDig := rfl
@[simp] theorem setReg_store (s : State) (o v : Nat) : (s.setReg o v).store = s.store := rfl
@[simp] theorem setReg_pulls (s : State) (o v : Nat) : (s.setReg o v).pulls = s.pulls := rfl
@[simp] theorem setReg_clasp (s : State) (o v : Nat) : (s.setReg o v).clasp = s.clasp := rfl
@[simp] theorem setReg_rot (s : State) (o v : Nat) : (s.setReg o v).rot = s.rot := rfl
@[simp] theorem setReg_pwr (s : State) (o v : Nat) : (s.setReg o v).pwr = s.pwr := rfl
@[simp] theorem setReg_freeCtr (s : State) (o v : Nat) : (s.setReg o v).freeCtr = s.freeCtr := rfl
@[simp] theorem setReg_pending (s : State) (o v : Nat) : (s.setReg o v).pending = s.pending := rfl

/-! ### setFld -/

@[simp] theorem setFld_aon (s : State) (f : FRef) (v : Nat) : (s.setFld f v).aon = s.aon := rfl
@[simp] theorem setFld_holdHost (s : State) (f : FRef) (v : Nat) : (s.setFld f v).holdHost = s.holdHost := rfl
@[simp] theorem setFld_holdFw (s : State) (f : FRef) (v : Nat) : (s.setFld f v).holdFw = s.holdFw := rfl
@[simp] theorem setFld_errs (s : State) (f : FRef) (v : Nat) : (s.setFld f v).errs = s.errs := rfl
@[simp] theorem setFld_errSeq (s : State) (f : FRef) (v : Nat) : (s.setFld f v).errSeq = s.errSeq := rfl
@[simp] theorem setFld_vlog (s : State) (f : FRef) (v : Nat) : (s.setFld f v).vlog = s.vlog := rfl
@[simp] theorem setFld_vSeq (s : State) (f : FRef) (v : Nat) : (s.setFld f v).vSeq = s.vSeq := rfl
@[simp] theorem setFld_cores (s : State) (f : FRef) (v : Nat) : (s.setFld f v).cores = s.cores := rfl
@[simp] theorem setFld_mem (s : State) (f : FRef) (v : Nat) : (s.setFld f v).mem = s.mem := rfl
@[simp] theorem setFld_gpoison (s : State) (f : FRef) (v : Nat) : (s.setFld f v).gpoison = s.gpoison := rfl
@[simp] theorem setFld_hpoison (s : State) (f : FRef) (v : Nat) : (s.setFld f v).hpoison = s.hpoison := rfl
@[simp] theorem setFld_hbmGen (s : State) (f : FRef) (v : Nat) : (s.setFld f v).hbmGen = s.hbmGen := rfl
@[simp] theorem setFld_hbmSt (s : State) (f : FRef) (v : Nat) : (s.setFld f v).hbmSt = s.hbmSt := rfl
@[simp] theorem setFld_l2 (s : State) (f : FRef) (v : Nat) : (s.setFld f v).l2 = s.l2 := rfl
@[simp] theorem setFld_msc (s : State) (f : FRef) (v : Nat) : (s.setFld f v).msc = s.msc := rfl
@[simp] theorem setFld_mntPos (s : State) (f : FRef) (v : Nat) : (s.setFld f v).mntPos = s.mntPos := rfl
@[simp] theorem setFld_dir (s : State) (f : FRef) (v : Nat) : (s.setFld f v).dir = s.dir := rfl
@[simp] theorem setFld_txns (s : State) (f : FRef) (v : Nat) : (s.setFld f v).txns = s.txns := rfl
@[simp] theorem setFld_conflict (s : State) (f : FRef) (v : Nat) : (s.setFld f v).conflict = s.conflict := rfl
@[simp] theorem setFld_preqs (s : State) (f : FRef) (v : Nat) : (s.setFld f v).preqs = s.preqs := rfl
@[simp] theorem setFld_wbuf (s : State) (f : FRef) (v : Nat) : (s.setFld f v).wbuf = s.wbuf := rfl
@[simp] theorem setFld_inHold (s : State) (f : FRef) (v : Nat) : (s.setFld f v).inHold = s.inHold := rfl
@[simp] theorem setFld_delayed (s : State) (f : FRef) (v : Nat) : (s.setFld f v).delayed = s.delayed := rfl
@[simp] theorem setFld_rbuf (s : State) (f : FRef) (v : Nat) : (s.setFld f v).rbuf = s.rbuf := rfl
@[simp] theorem setFld_nextTxn (s : State) (f : FRef) (v : Nat) : (s.setFld f v).nextTxn = s.nextTxn := rfl
@[simp] theorem setFld_lateInv (s : State) (f : FRef) (v : Nat) : (s.setFld f v).lateInv = s.lateInv := rfl
@[simp] theorem setFld_biConf (s : State) (f : FRef) (v : Nat) : (s.setFld f v).biConf = s.biConf := rfl
@[simp] theorem setFld_hcReqs (s : State) (f : FRef) (v : Nat) : (s.setFld f v).hcReqs = s.hcReqs := rfl
@[simp] theorem setFld_flip (s : State) (f : FRef) (v : Nat) : (s.setFld f v).flip = s.flip := rfl
@[simp] theorem setFld_purges (s : State) (f : FRef) (v : Nat) : (s.setFld f v).purges = s.purges := rfl
@[simp] theorem setFld_ctxs (s : State) (f : FRef) (v : Nat) : (s.setFld f v).ctxs = s.ctxs := rfl
@[simp] theorem setFld_tlbs (s : State) (f : FRef) (v : Nat) : (s.setFld f v).tlbs = s.tlbs := rfl
@[simp] theorem setFld_stlb (s : State) (f : FRef) (v : Nat) : (s.setFld f v).stlb = s.stlb := rfl
@[simp] theorem setFld_walks (s : State) (f : FRef) (v : Nat) : (s.setFld f v).walks = s.walks := rfl
@[simp] theorem setFld_nextWalk (s : State) (f : FRef) (v : Nat) : (s.setFld f v).nextWalk = s.nextWalk := rfl
@[simp] theorem setFld_frecs (s : State) (f : FRef) (v : Nat) : (s.setFld f v).frecs = s.frecs := rfl
@[simp] theorem setFld_fseq (s : State) (f : FRef) (v : Nat) : (s.setFld f v).fseq = s.fseq := rfl
@[simp] theorem setFld_xops (s : State) (f : FRef) (v : Nat) : (s.setFld f v).xops = s.xops := rfl
@[simp] theorem setFld_wins (s : State) (f : FRef) (v : Nat) : (s.setFld f v).wins = s.wins := rfl
@[simp] theorem setFld_winOld (s : State) (f : FRef) (v : Nat) : (s.setFld f v).winOld = s.winOld := rfl
@[simp] theorem setFld_winOut (s : State) (f : FRef) (v : Nat) : (s.setFld f v).winOut = s.winOut := rfl
@[simp] theorem setFld_ep (s : State) (f : FRef) (v : Nat) : (s.setFld f v).ep = s.ep := rfl
@[simp] theorem setFld_inWait (s : State) (f : FRef) (v : Nat) : (s.setFld f v).inWait = s.inWait := rfl
@[simp] theorem setFld_sqs (s : State) (f : FRef) (v : Nat) : (s.setFld f v).sqs = s.sqs := rfl
@[simp] theorem setFld_cqs (s : State) (f : FRef) (v : Nat) : (s.setFld f v).cqs = s.cqs := rfl
@[simp] theorem setFld_certs (s : State) (f : FRef) (v : Nat) : (s.setFld f v).certs = s.certs := rfl
@[simp] theorem setFld_turns (s : State) (f : FRef) (v : Nat) : (s.setFld f v).turns = s.turns := rfl
@[simp] theorem setFld_chanXf (s : State) (f : FRef) (v : Nat) : (s.setFld f v).chanXf = s.chanXf := rfl
@[simp] theorem setFld_imgs (s : State) (f : FRef) (v : Nat) : (s.setFld f v).imgs = s.imgs := rfl
@[simp] theorem setFld_streams (s : State) (f : FRef) (v : Nat) : (s.setFld f v).streams = s.streams := rfl
@[simp] theorem setFld_pages (s : State) (f : FRef) (v : Nat) : (s.setFld f v).pages = s.pages := rfl
@[simp] theorem setFld_moves (s : State) (f : FRef) (v : Nat) : (s.setFld f v).moves = s.moves := rfl
@[simp] theorem setFld_brings (s : State) (f : FRef) (v : Nat) : (s.setFld f v).brings = s.brings := rfl
@[simp] theorem setFld_advised (s : State) (f : FRef) (v : Nat) : (s.setFld f v).advised = s.advised := rfl
@[simp] theorem setFld_fetches (s : State) (f : FRef) (v : Nat) : (s.setFld f v).fetches = s.fetches := rfl
@[simp] theorem setFld_cnps (s : State) (f : FRef) (v : Nat) : (s.setFld f v).cnps = s.cnps := rfl
@[simp] theorem setFld_ports (s : State) (f : FRef) (v : Nat) : (s.setFld f v).ports = s.ports := rfl
@[simp] theorem setFld_inbox (s : State) (f : FRef) (v : Nat) : (s.setFld f v).inbox = s.inbox := rfl
@[simp] theorem setFld_left (s : State) (f : FRef) (v : Nat) : (s.setFld f v).left = s.left := rfl
@[simp] theorem setFld_leaves (s : State) (f : FRef) (v : Nat) : (s.setFld f v).leaves = s.leaves := rfl
@[simp] theorem setFld_joined (s : State) (f : FRef) (v : Nat) : (s.setFld f v).joined = s.joined := rfl
@[simp] theorem setFld_servo (s : State) (f : FRef) (v : Nat) : (s.setFld f v).servo = s.servo := rfl
@[simp] theorem setFld_flights (s : State) (f : FRef) (v : Nat) : (s.setFld f v).flights = s.flights := rfl
@[simp] theorem setFld_notes (s : State) (f : FRef) (v : Nat) : (s.setFld f v).notes = s.notes := rfl
@[simp] theorem setFld_slots (s : State) (f : FRef) (v : Nat) : (s.setFld f v).slots = s.slots := rfl
@[simp] theorem setFld_jobWork (s : State) (f : FRef) (v : Nat) : (s.setFld f v).jobWork = s.jobWork := rfl
@[simp] theorem setFld_eth (s : State) (f : FRef) (v : Nat) : (s.setFld f v).eth = s.eth := rfl
@[simp] theorem setFld_setting (s : State) (f : FRef) (v : Nat) : (s.setFld f v).setting = s.setting := rfl
@[simp] theorem setFld_effDig (s : State) (f : FRef) (v : Nat) : (s.setFld f v).effDig = s.effDig := rfl
@[simp] theorem setFld_loadDig (s : State) (f : FRef) (v : Nat) : (s.setFld f v).loadDig = s.loadDig := rfl
@[simp] theorem setFld_store (s : State) (f : FRef) (v : Nat) : (s.setFld f v).store = s.store := rfl
@[simp] theorem setFld_pulls (s : State) (f : FRef) (v : Nat) : (s.setFld f v).pulls = s.pulls := rfl
@[simp] theorem setFld_clasp (s : State) (f : FRef) (v : Nat) : (s.setFld f v).clasp = s.clasp := rfl
@[simp] theorem setFld_rot (s : State) (f : FRef) (v : Nat) : (s.setFld f v).rot = s.rot := rfl
@[simp] theorem setFld_pwr (s : State) (f : FRef) (v : Nat) : (s.setFld f v).pwr = s.pwr := rfl
@[simp] theorem setFld_freeCtr (s : State) (f : FRef) (v : Nat) : (s.setFld f v).freeCtr = s.freeCtr := rfl
@[simp] theorem setFld_pending (s : State) (f : FRef) (v : Nat) : (s.setFld f v).pending = s.pending := rfl

/-! ### setFldB -/

@[simp] theorem setFldB_aon (s : State) (f : FRef) (b : Bool) : (s.setFldB f b).aon = s.aon := rfl
@[simp] theorem setFldB_holdHost (s : State) (f : FRef) (b : Bool) : (s.setFldB f b).holdHost = s.holdHost := rfl
@[simp] theorem setFldB_holdFw (s : State) (f : FRef) (b : Bool) : (s.setFldB f b).holdFw = s.holdFw := rfl
@[simp] theorem setFldB_errs (s : State) (f : FRef) (b : Bool) : (s.setFldB f b).errs = s.errs := rfl
@[simp] theorem setFldB_errSeq (s : State) (f : FRef) (b : Bool) : (s.setFldB f b).errSeq = s.errSeq := rfl
@[simp] theorem setFldB_vlog (s : State) (f : FRef) (b : Bool) : (s.setFldB f b).vlog = s.vlog := rfl
@[simp] theorem setFldB_vSeq (s : State) (f : FRef) (b : Bool) : (s.setFldB f b).vSeq = s.vSeq := rfl
@[simp] theorem setFldB_cores (s : State) (f : FRef) (b : Bool) : (s.setFldB f b).cores = s.cores := rfl
@[simp] theorem setFldB_mem (s : State) (f : FRef) (b : Bool) : (s.setFldB f b).mem = s.mem := rfl
@[simp] theorem setFldB_gpoison (s : State) (f : FRef) (b : Bool) : (s.setFldB f b).gpoison = s.gpoison := rfl
@[simp] theorem setFldB_hpoison (s : State) (f : FRef) (b : Bool) : (s.setFldB f b).hpoison = s.hpoison := rfl
@[simp] theorem setFldB_hbmGen (s : State) (f : FRef) (b : Bool) : (s.setFldB f b).hbmGen = s.hbmGen := rfl
@[simp] theorem setFldB_hbmSt (s : State) (f : FRef) (b : Bool) : (s.setFldB f b).hbmSt = s.hbmSt := rfl
@[simp] theorem setFldB_l2 (s : State) (f : FRef) (b : Bool) : (s.setFldB f b).l2 = s.l2 := rfl
@[simp] theorem setFldB_msc (s : State) (f : FRef) (b : Bool) : (s.setFldB f b).msc = s.msc := rfl
@[simp] theorem setFldB_mntPos (s : State) (f : FRef) (b : Bool) : (s.setFldB f b).mntPos = s.mntPos := rfl
@[simp] theorem setFldB_dir (s : State) (f : FRef) (b : Bool) : (s.setFldB f b).dir = s.dir := rfl
@[simp] theorem setFldB_txns (s : State) (f : FRef) (b : Bool) : (s.setFldB f b).txns = s.txns := rfl
@[simp] theorem setFldB_conflict (s : State) (f : FRef) (b : Bool) : (s.setFldB f b).conflict = s.conflict := rfl
@[simp] theorem setFldB_preqs (s : State) (f : FRef) (b : Bool) : (s.setFldB f b).preqs = s.preqs := rfl
@[simp] theorem setFldB_wbuf (s : State) (f : FRef) (b : Bool) : (s.setFldB f b).wbuf = s.wbuf := rfl
@[simp] theorem setFldB_inHold (s : State) (f : FRef) (b : Bool) : (s.setFldB f b).inHold = s.inHold := rfl
@[simp] theorem setFldB_delayed (s : State) (f : FRef) (b : Bool) : (s.setFldB f b).delayed = s.delayed := rfl
@[simp] theorem setFldB_rbuf (s : State) (f : FRef) (b : Bool) : (s.setFldB f b).rbuf = s.rbuf := rfl
@[simp] theorem setFldB_nextTxn (s : State) (f : FRef) (b : Bool) : (s.setFldB f b).nextTxn = s.nextTxn := rfl
@[simp] theorem setFldB_lateInv (s : State) (f : FRef) (b : Bool) : (s.setFldB f b).lateInv = s.lateInv := rfl
@[simp] theorem setFldB_biConf (s : State) (f : FRef) (b : Bool) : (s.setFldB f b).biConf = s.biConf := rfl
@[simp] theorem setFldB_hcReqs (s : State) (f : FRef) (b : Bool) : (s.setFldB f b).hcReqs = s.hcReqs := rfl
@[simp] theorem setFldB_flip (s : State) (f : FRef) (b : Bool) : (s.setFldB f b).flip = s.flip := rfl
@[simp] theorem setFldB_purges (s : State) (f : FRef) (b : Bool) : (s.setFldB f b).purges = s.purges := rfl
@[simp] theorem setFldB_ctxs (s : State) (f : FRef) (b : Bool) : (s.setFldB f b).ctxs = s.ctxs := rfl
@[simp] theorem setFldB_tlbs (s : State) (f : FRef) (b : Bool) : (s.setFldB f b).tlbs = s.tlbs := rfl
@[simp] theorem setFldB_stlb (s : State) (f : FRef) (b : Bool) : (s.setFldB f b).stlb = s.stlb := rfl
@[simp] theorem setFldB_walks (s : State) (f : FRef) (b : Bool) : (s.setFldB f b).walks = s.walks := rfl
@[simp] theorem setFldB_nextWalk (s : State) (f : FRef) (b : Bool) : (s.setFldB f b).nextWalk = s.nextWalk := rfl
@[simp] theorem setFldB_frecs (s : State) (f : FRef) (b : Bool) : (s.setFldB f b).frecs = s.frecs := rfl
@[simp] theorem setFldB_fseq (s : State) (f : FRef) (b : Bool) : (s.setFldB f b).fseq = s.fseq := rfl
@[simp] theorem setFldB_xops (s : State) (f : FRef) (b : Bool) : (s.setFldB f b).xops = s.xops := rfl
@[simp] theorem setFldB_wins (s : State) (f : FRef) (b : Bool) : (s.setFldB f b).wins = s.wins := rfl
@[simp] theorem setFldB_winOld (s : State) (f : FRef) (b : Bool) : (s.setFldB f b).winOld = s.winOld := rfl
@[simp] theorem setFldB_winOut (s : State) (f : FRef) (b : Bool) : (s.setFldB f b).winOut = s.winOut := rfl
@[simp] theorem setFldB_ep (s : State) (f : FRef) (b : Bool) : (s.setFldB f b).ep = s.ep := rfl
@[simp] theorem setFldB_inWait (s : State) (f : FRef) (b : Bool) : (s.setFldB f b).inWait = s.inWait := rfl
@[simp] theorem setFldB_sqs (s : State) (f : FRef) (b : Bool) : (s.setFldB f b).sqs = s.sqs := rfl
@[simp] theorem setFldB_cqs (s : State) (f : FRef) (b : Bool) : (s.setFldB f b).cqs = s.cqs := rfl
@[simp] theorem setFldB_certs (s : State) (f : FRef) (b : Bool) : (s.setFldB f b).certs = s.certs := rfl
@[simp] theorem setFldB_turns (s : State) (f : FRef) (b : Bool) : (s.setFldB f b).turns = s.turns := rfl
@[simp] theorem setFldB_chanXf (s : State) (f : FRef) (b : Bool) : (s.setFldB f b).chanXf = s.chanXf := rfl
@[simp] theorem setFldB_imgs (s : State) (f : FRef) (b : Bool) : (s.setFldB f b).imgs = s.imgs := rfl
@[simp] theorem setFldB_streams (s : State) (f : FRef) (b : Bool) : (s.setFldB f b).streams = s.streams := rfl
@[simp] theorem setFldB_pages (s : State) (f : FRef) (b : Bool) : (s.setFldB f b).pages = s.pages := rfl
@[simp] theorem setFldB_moves (s : State) (f : FRef) (b : Bool) : (s.setFldB f b).moves = s.moves := rfl
@[simp] theorem setFldB_brings (s : State) (f : FRef) (b : Bool) : (s.setFldB f b).brings = s.brings := rfl
@[simp] theorem setFldB_advised (s : State) (f : FRef) (b : Bool) : (s.setFldB f b).advised = s.advised := rfl
@[simp] theorem setFldB_fetches (s : State) (f : FRef) (b : Bool) : (s.setFldB f b).fetches = s.fetches := rfl
@[simp] theorem setFldB_cnps (s : State) (f : FRef) (b : Bool) : (s.setFldB f b).cnps = s.cnps := rfl
@[simp] theorem setFldB_ports (s : State) (f : FRef) (b : Bool) : (s.setFldB f b).ports = s.ports := rfl
@[simp] theorem setFldB_inbox (s : State) (f : FRef) (b : Bool) : (s.setFldB f b).inbox = s.inbox := rfl
@[simp] theorem setFldB_left (s : State) (f : FRef) (b : Bool) : (s.setFldB f b).left = s.left := rfl
@[simp] theorem setFldB_leaves (s : State) (f : FRef) (b : Bool) : (s.setFldB f b).leaves = s.leaves := rfl
@[simp] theorem setFldB_joined (s : State) (f : FRef) (b : Bool) : (s.setFldB f b).joined = s.joined := rfl
@[simp] theorem setFldB_servo (s : State) (f : FRef) (b : Bool) : (s.setFldB f b).servo = s.servo := rfl
@[simp] theorem setFldB_flights (s : State) (f : FRef) (b : Bool) : (s.setFldB f b).flights = s.flights := rfl
@[simp] theorem setFldB_notes (s : State) (f : FRef) (b : Bool) : (s.setFldB f b).notes = s.notes := rfl
@[simp] theorem setFldB_slots (s : State) (f : FRef) (b : Bool) : (s.setFldB f b).slots = s.slots := rfl
@[simp] theorem setFldB_jobWork (s : State) (f : FRef) (b : Bool) : (s.setFldB f b).jobWork = s.jobWork := rfl
@[simp] theorem setFldB_eth (s : State) (f : FRef) (b : Bool) : (s.setFldB f b).eth = s.eth := rfl
@[simp] theorem setFldB_setting (s : State) (f : FRef) (b : Bool) : (s.setFldB f b).setting = s.setting := rfl
@[simp] theorem setFldB_effDig (s : State) (f : FRef) (b : Bool) : (s.setFldB f b).effDig = s.effDig := rfl
@[simp] theorem setFldB_loadDig (s : State) (f : FRef) (b : Bool) : (s.setFldB f b).loadDig = s.loadDig := rfl
@[simp] theorem setFldB_store (s : State) (f : FRef) (b : Bool) : (s.setFldB f b).store = s.store := rfl
@[simp] theorem setFldB_pulls (s : State) (f : FRef) (b : Bool) : (s.setFldB f b).pulls = s.pulls := rfl
@[simp] theorem setFldB_clasp (s : State) (f : FRef) (b : Bool) : (s.setFldB f b).clasp = s.clasp := rfl
@[simp] theorem setFldB_rot (s : State) (f : FRef) (b : Bool) : (s.setFldB f b).rot = s.rot := rfl
@[simp] theorem setFldB_pwr (s : State) (f : FRef) (b : Bool) : (s.setFldB f b).pwr = s.pwr := rfl
@[simp] theorem setFldB_freeCtr (s : State) (f : FRef) (b : Bool) : (s.setFldB f b).freeCtr = s.freeCtr := rfl
@[simp] theorem setFldB_pending (s : State) (f : FRef) (b : Bool) : (s.setFldB f b).pending = s.pending := rfl

/-! ### setFldBit -/

@[simp] theorem setFldBit_aon (s : State) (f : FRef) (i : Nat) (b : Bool) : (s.setFldBit f i b).aon = s.aon := rfl
@[simp] theorem setFldBit_holdHost (s : State) (f : FRef) (i : Nat) (b : Bool) : (s.setFldBit f i b).holdHost = s.holdHost := rfl
@[simp] theorem setFldBit_holdFw (s : State) (f : FRef) (i : Nat) (b : Bool) : (s.setFldBit f i b).holdFw = s.holdFw := rfl
@[simp] theorem setFldBit_errs (s : State) (f : FRef) (i : Nat) (b : Bool) : (s.setFldBit f i b).errs = s.errs := rfl
@[simp] theorem setFldBit_errSeq (s : State) (f : FRef) (i : Nat) (b : Bool) : (s.setFldBit f i b).errSeq = s.errSeq := rfl
@[simp] theorem setFldBit_vlog (s : State) (f : FRef) (i : Nat) (b : Bool) : (s.setFldBit f i b).vlog = s.vlog := rfl
@[simp] theorem setFldBit_vSeq (s : State) (f : FRef) (i : Nat) (b : Bool) : (s.setFldBit f i b).vSeq = s.vSeq := rfl
@[simp] theorem setFldBit_cores (s : State) (f : FRef) (i : Nat) (b : Bool) : (s.setFldBit f i b).cores = s.cores := rfl
@[simp] theorem setFldBit_mem (s : State) (f : FRef) (i : Nat) (b : Bool) : (s.setFldBit f i b).mem = s.mem := rfl
@[simp] theorem setFldBit_gpoison (s : State) (f : FRef) (i : Nat) (b : Bool) : (s.setFldBit f i b).gpoison = s.gpoison := rfl
@[simp] theorem setFldBit_hpoison (s : State) (f : FRef) (i : Nat) (b : Bool) : (s.setFldBit f i b).hpoison = s.hpoison := rfl
@[simp] theorem setFldBit_hbmGen (s : State) (f : FRef) (i : Nat) (b : Bool) : (s.setFldBit f i b).hbmGen = s.hbmGen := rfl
@[simp] theorem setFldBit_hbmSt (s : State) (f : FRef) (i : Nat) (b : Bool) : (s.setFldBit f i b).hbmSt = s.hbmSt := rfl
@[simp] theorem setFldBit_l2 (s : State) (f : FRef) (i : Nat) (b : Bool) : (s.setFldBit f i b).l2 = s.l2 := rfl
@[simp] theorem setFldBit_msc (s : State) (f : FRef) (i : Nat) (b : Bool) : (s.setFldBit f i b).msc = s.msc := rfl
@[simp] theorem setFldBit_mntPos (s : State) (f : FRef) (i : Nat) (b : Bool) : (s.setFldBit f i b).mntPos = s.mntPos := rfl
@[simp] theorem setFldBit_dir (s : State) (f : FRef) (i : Nat) (b : Bool) : (s.setFldBit f i b).dir = s.dir := rfl
@[simp] theorem setFldBit_txns (s : State) (f : FRef) (i : Nat) (b : Bool) : (s.setFldBit f i b).txns = s.txns := rfl
@[simp] theorem setFldBit_conflict (s : State) (f : FRef) (i : Nat) (b : Bool) : (s.setFldBit f i b).conflict = s.conflict := rfl
@[simp] theorem setFldBit_preqs (s : State) (f : FRef) (i : Nat) (b : Bool) : (s.setFldBit f i b).preqs = s.preqs := rfl
@[simp] theorem setFldBit_wbuf (s : State) (f : FRef) (i : Nat) (b : Bool) : (s.setFldBit f i b).wbuf = s.wbuf := rfl
@[simp] theorem setFldBit_inHold (s : State) (f : FRef) (i : Nat) (b : Bool) : (s.setFldBit f i b).inHold = s.inHold := rfl
@[simp] theorem setFldBit_delayed (s : State) (f : FRef) (i : Nat) (b : Bool) : (s.setFldBit f i b).delayed = s.delayed := rfl
@[simp] theorem setFldBit_rbuf (s : State) (f : FRef) (i : Nat) (b : Bool) : (s.setFldBit f i b).rbuf = s.rbuf := rfl
@[simp] theorem setFldBit_nextTxn (s : State) (f : FRef) (i : Nat) (b : Bool) : (s.setFldBit f i b).nextTxn = s.nextTxn := rfl
@[simp] theorem setFldBit_lateInv (s : State) (f : FRef) (i : Nat) (b : Bool) : (s.setFldBit f i b).lateInv = s.lateInv := rfl
@[simp] theorem setFldBit_biConf (s : State) (f : FRef) (i : Nat) (b : Bool) : (s.setFldBit f i b).biConf = s.biConf := rfl
@[simp] theorem setFldBit_hcReqs (s : State) (f : FRef) (i : Nat) (b : Bool) : (s.setFldBit f i b).hcReqs = s.hcReqs := rfl
@[simp] theorem setFldBit_flip (s : State) (f : FRef) (i : Nat) (b : Bool) : (s.setFldBit f i b).flip = s.flip := rfl
@[simp] theorem setFldBit_purges (s : State) (f : FRef) (i : Nat) (b : Bool) : (s.setFldBit f i b).purges = s.purges := rfl
@[simp] theorem setFldBit_ctxs (s : State) (f : FRef) (i : Nat) (b : Bool) : (s.setFldBit f i b).ctxs = s.ctxs := rfl
@[simp] theorem setFldBit_tlbs (s : State) (f : FRef) (i : Nat) (b : Bool) : (s.setFldBit f i b).tlbs = s.tlbs := rfl
@[simp] theorem setFldBit_stlb (s : State) (f : FRef) (i : Nat) (b : Bool) : (s.setFldBit f i b).stlb = s.stlb := rfl
@[simp] theorem setFldBit_walks (s : State) (f : FRef) (i : Nat) (b : Bool) : (s.setFldBit f i b).walks = s.walks := rfl
@[simp] theorem setFldBit_nextWalk (s : State) (f : FRef) (i : Nat) (b : Bool) : (s.setFldBit f i b).nextWalk = s.nextWalk := rfl
@[simp] theorem setFldBit_frecs (s : State) (f : FRef) (i : Nat) (b : Bool) : (s.setFldBit f i b).frecs = s.frecs := rfl
@[simp] theorem setFldBit_fseq (s : State) (f : FRef) (i : Nat) (b : Bool) : (s.setFldBit f i b).fseq = s.fseq := rfl
@[simp] theorem setFldBit_xops (s : State) (f : FRef) (i : Nat) (b : Bool) : (s.setFldBit f i b).xops = s.xops := rfl
@[simp] theorem setFldBit_wins (s : State) (f : FRef) (i : Nat) (b : Bool) : (s.setFldBit f i b).wins = s.wins := rfl
@[simp] theorem setFldBit_winOld (s : State) (f : FRef) (i : Nat) (b : Bool) : (s.setFldBit f i b).winOld = s.winOld := rfl
@[simp] theorem setFldBit_winOut (s : State) (f : FRef) (i : Nat) (b : Bool) : (s.setFldBit f i b).winOut = s.winOut := rfl
@[simp] theorem setFldBit_ep (s : State) (f : FRef) (i : Nat) (b : Bool) : (s.setFldBit f i b).ep = s.ep := rfl
@[simp] theorem setFldBit_inWait (s : State) (f : FRef) (i : Nat) (b : Bool) : (s.setFldBit f i b).inWait = s.inWait := rfl
@[simp] theorem setFldBit_sqs (s : State) (f : FRef) (i : Nat) (b : Bool) : (s.setFldBit f i b).sqs = s.sqs := rfl
@[simp] theorem setFldBit_cqs (s : State) (f : FRef) (i : Nat) (b : Bool) : (s.setFldBit f i b).cqs = s.cqs := rfl
@[simp] theorem setFldBit_certs (s : State) (f : FRef) (i : Nat) (b : Bool) : (s.setFldBit f i b).certs = s.certs := rfl
@[simp] theorem setFldBit_turns (s : State) (f : FRef) (i : Nat) (b : Bool) : (s.setFldBit f i b).turns = s.turns := rfl
@[simp] theorem setFldBit_chanXf (s : State) (f : FRef) (i : Nat) (b : Bool) : (s.setFldBit f i b).chanXf = s.chanXf := rfl
@[simp] theorem setFldBit_imgs (s : State) (f : FRef) (i : Nat) (b : Bool) : (s.setFldBit f i b).imgs = s.imgs := rfl
@[simp] theorem setFldBit_streams (s : State) (f : FRef) (i : Nat) (b : Bool) : (s.setFldBit f i b).streams = s.streams := rfl
@[simp] theorem setFldBit_pages (s : State) (f : FRef) (i : Nat) (b : Bool) : (s.setFldBit f i b).pages = s.pages := rfl
@[simp] theorem setFldBit_moves (s : State) (f : FRef) (i : Nat) (b : Bool) : (s.setFldBit f i b).moves = s.moves := rfl
@[simp] theorem setFldBit_brings (s : State) (f : FRef) (i : Nat) (b : Bool) : (s.setFldBit f i b).brings = s.brings := rfl
@[simp] theorem setFldBit_advised (s : State) (f : FRef) (i : Nat) (b : Bool) : (s.setFldBit f i b).advised = s.advised := rfl
@[simp] theorem setFldBit_fetches (s : State) (f : FRef) (i : Nat) (b : Bool) : (s.setFldBit f i b).fetches = s.fetches := rfl
@[simp] theorem setFldBit_cnps (s : State) (f : FRef) (i : Nat) (b : Bool) : (s.setFldBit f i b).cnps = s.cnps := rfl
@[simp] theorem setFldBit_ports (s : State) (f : FRef) (i : Nat) (b : Bool) : (s.setFldBit f i b).ports = s.ports := rfl
@[simp] theorem setFldBit_inbox (s : State) (f : FRef) (i : Nat) (b : Bool) : (s.setFldBit f i b).inbox = s.inbox := rfl
@[simp] theorem setFldBit_left (s : State) (f : FRef) (i : Nat) (b : Bool) : (s.setFldBit f i b).left = s.left := rfl
@[simp] theorem setFldBit_leaves (s : State) (f : FRef) (i : Nat) (b : Bool) : (s.setFldBit f i b).leaves = s.leaves := rfl
@[simp] theorem setFldBit_joined (s : State) (f : FRef) (i : Nat) (b : Bool) : (s.setFldBit f i b).joined = s.joined := rfl
@[simp] theorem setFldBit_servo (s : State) (f : FRef) (i : Nat) (b : Bool) : (s.setFldBit f i b).servo = s.servo := rfl
@[simp] theorem setFldBit_flights (s : State) (f : FRef) (i : Nat) (b : Bool) : (s.setFldBit f i b).flights = s.flights := rfl
@[simp] theorem setFldBit_notes (s : State) (f : FRef) (i : Nat) (b : Bool) : (s.setFldBit f i b).notes = s.notes := rfl
@[simp] theorem setFldBit_slots (s : State) (f : FRef) (i : Nat) (b : Bool) : (s.setFldBit f i b).slots = s.slots := rfl
@[simp] theorem setFldBit_jobWork (s : State) (f : FRef) (i : Nat) (b : Bool) : (s.setFldBit f i b).jobWork = s.jobWork := rfl
@[simp] theorem setFldBit_eth (s : State) (f : FRef) (i : Nat) (b : Bool) : (s.setFldBit f i b).eth = s.eth := rfl
@[simp] theorem setFldBit_setting (s : State) (f : FRef) (i : Nat) (b : Bool) : (s.setFldBit f i b).setting = s.setting := rfl
@[simp] theorem setFldBit_effDig (s : State) (f : FRef) (i : Nat) (b : Bool) : (s.setFldBit f i b).effDig = s.effDig := rfl
@[simp] theorem setFldBit_loadDig (s : State) (f : FRef) (i : Nat) (b : Bool) : (s.setFldBit f i b).loadDig = s.loadDig := rfl
@[simp] theorem setFldBit_store (s : State) (f : FRef) (i : Nat) (b : Bool) : (s.setFldBit f i b).store = s.store := rfl
@[simp] theorem setFldBit_pulls (s : State) (f : FRef) (i : Nat) (b : Bool) : (s.setFldBit f i b).pulls = s.pulls := rfl
@[simp] theorem setFldBit_clasp (s : State) (f : FRef) (i : Nat) (b : Bool) : (s.setFldBit f i b).clasp = s.clasp := rfl
@[simp] theorem setFldBit_rot (s : State) (f : FRef) (i : Nat) (b : Bool) : (s.setFldBit f i b).rot = s.rot := rfl
@[simp] theorem setFldBit_pwr (s : State) (f : FRef) (i : Nat) (b : Bool) : (s.setFldBit f i b).pwr = s.pwr := rfl
@[simp] theorem setFldBit_freeCtr (s : State) (f : FRef) (i : Nat) (b : Bool) : (s.setFldBit f i b).freeCtr = s.freeCtr := rfl
@[simp] theorem setFldBit_pending (s : State) (f : FRef) (i : Nat) (b : Bool) : (s.setFldBit f i b).pending = s.pending := rfl

/-! ### bump -/

@[simp] theorem bump_aon (s : State) (f : FRef) (n : Nat) : (s.bump f n).aon = s.aon := rfl
@[simp] theorem bump_holdHost (s : State) (f : FRef) (n : Nat) : (s.bump f n).holdHost = s.holdHost := rfl
@[simp] theorem bump_holdFw (s : State) (f : FRef) (n : Nat) : (s.bump f n).holdFw = s.holdFw := rfl
@[simp] theorem bump_errs (s : State) (f : FRef) (n : Nat) : (s.bump f n).errs = s.errs := rfl
@[simp] theorem bump_errSeq (s : State) (f : FRef) (n : Nat) : (s.bump f n).errSeq = s.errSeq := rfl
@[simp] theorem bump_vlog (s : State) (f : FRef) (n : Nat) : (s.bump f n).vlog = s.vlog := rfl
@[simp] theorem bump_vSeq (s : State) (f : FRef) (n : Nat) : (s.bump f n).vSeq = s.vSeq := rfl
@[simp] theorem bump_cores (s : State) (f : FRef) (n : Nat) : (s.bump f n).cores = s.cores := rfl
@[simp] theorem bump_mem (s : State) (f : FRef) (n : Nat) : (s.bump f n).mem = s.mem := rfl
@[simp] theorem bump_gpoison (s : State) (f : FRef) (n : Nat) : (s.bump f n).gpoison = s.gpoison := rfl
@[simp] theorem bump_hpoison (s : State) (f : FRef) (n : Nat) : (s.bump f n).hpoison = s.hpoison := rfl
@[simp] theorem bump_hbmGen (s : State) (f : FRef) (n : Nat) : (s.bump f n).hbmGen = s.hbmGen := rfl
@[simp] theorem bump_hbmSt (s : State) (f : FRef) (n : Nat) : (s.bump f n).hbmSt = s.hbmSt := rfl
@[simp] theorem bump_l2 (s : State) (f : FRef) (n : Nat) : (s.bump f n).l2 = s.l2 := rfl
@[simp] theorem bump_msc (s : State) (f : FRef) (n : Nat) : (s.bump f n).msc = s.msc := rfl
@[simp] theorem bump_mntPos (s : State) (f : FRef) (n : Nat) : (s.bump f n).mntPos = s.mntPos := rfl
@[simp] theorem bump_dir (s : State) (f : FRef) (n : Nat) : (s.bump f n).dir = s.dir := rfl
@[simp] theorem bump_txns (s : State) (f : FRef) (n : Nat) : (s.bump f n).txns = s.txns := rfl
@[simp] theorem bump_conflict (s : State) (f : FRef) (n : Nat) : (s.bump f n).conflict = s.conflict := rfl
@[simp] theorem bump_preqs (s : State) (f : FRef) (n : Nat) : (s.bump f n).preqs = s.preqs := rfl
@[simp] theorem bump_wbuf (s : State) (f : FRef) (n : Nat) : (s.bump f n).wbuf = s.wbuf := rfl
@[simp] theorem bump_inHold (s : State) (f : FRef) (n : Nat) : (s.bump f n).inHold = s.inHold := rfl
@[simp] theorem bump_delayed (s : State) (f : FRef) (n : Nat) : (s.bump f n).delayed = s.delayed := rfl
@[simp] theorem bump_rbuf (s : State) (f : FRef) (n : Nat) : (s.bump f n).rbuf = s.rbuf := rfl
@[simp] theorem bump_nextTxn (s : State) (f : FRef) (n : Nat) : (s.bump f n).nextTxn = s.nextTxn := rfl
@[simp] theorem bump_lateInv (s : State) (f : FRef) (n : Nat) : (s.bump f n).lateInv = s.lateInv := rfl
@[simp] theorem bump_biConf (s : State) (f : FRef) (n : Nat) : (s.bump f n).biConf = s.biConf := rfl
@[simp] theorem bump_hcReqs (s : State) (f : FRef) (n : Nat) : (s.bump f n).hcReqs = s.hcReqs := rfl
@[simp] theorem bump_flip (s : State) (f : FRef) (n : Nat) : (s.bump f n).flip = s.flip := rfl
@[simp] theorem bump_purges (s : State) (f : FRef) (n : Nat) : (s.bump f n).purges = s.purges := rfl
@[simp] theorem bump_ctxs (s : State) (f : FRef) (n : Nat) : (s.bump f n).ctxs = s.ctxs := rfl
@[simp] theorem bump_tlbs (s : State) (f : FRef) (n : Nat) : (s.bump f n).tlbs = s.tlbs := rfl
@[simp] theorem bump_stlb (s : State) (f : FRef) (n : Nat) : (s.bump f n).stlb = s.stlb := rfl
@[simp] theorem bump_walks (s : State) (f : FRef) (n : Nat) : (s.bump f n).walks = s.walks := rfl
@[simp] theorem bump_nextWalk (s : State) (f : FRef) (n : Nat) : (s.bump f n).nextWalk = s.nextWalk := rfl
@[simp] theorem bump_frecs (s : State) (f : FRef) (n : Nat) : (s.bump f n).frecs = s.frecs := rfl
@[simp] theorem bump_fseq (s : State) (f : FRef) (n : Nat) : (s.bump f n).fseq = s.fseq := rfl
@[simp] theorem bump_xops (s : State) (f : FRef) (n : Nat) : (s.bump f n).xops = s.xops := rfl
@[simp] theorem bump_wins (s : State) (f : FRef) (n : Nat) : (s.bump f n).wins = s.wins := rfl
@[simp] theorem bump_winOld (s : State) (f : FRef) (n : Nat) : (s.bump f n).winOld = s.winOld := rfl
@[simp] theorem bump_winOut (s : State) (f : FRef) (n : Nat) : (s.bump f n).winOut = s.winOut := rfl
@[simp] theorem bump_ep (s : State) (f : FRef) (n : Nat) : (s.bump f n).ep = s.ep := rfl
@[simp] theorem bump_inWait (s : State) (f : FRef) (n : Nat) : (s.bump f n).inWait = s.inWait := rfl
@[simp] theorem bump_sqs (s : State) (f : FRef) (n : Nat) : (s.bump f n).sqs = s.sqs := rfl
@[simp] theorem bump_cqs (s : State) (f : FRef) (n : Nat) : (s.bump f n).cqs = s.cqs := rfl
@[simp] theorem bump_certs (s : State) (f : FRef) (n : Nat) : (s.bump f n).certs = s.certs := rfl
@[simp] theorem bump_turns (s : State) (f : FRef) (n : Nat) : (s.bump f n).turns = s.turns := rfl
@[simp] theorem bump_chanXf (s : State) (f : FRef) (n : Nat) : (s.bump f n).chanXf = s.chanXf := rfl
@[simp] theorem bump_imgs (s : State) (f : FRef) (n : Nat) : (s.bump f n).imgs = s.imgs := rfl
@[simp] theorem bump_streams (s : State) (f : FRef) (n : Nat) : (s.bump f n).streams = s.streams := rfl
@[simp] theorem bump_pages (s : State) (f : FRef) (n : Nat) : (s.bump f n).pages = s.pages := rfl
@[simp] theorem bump_moves (s : State) (f : FRef) (n : Nat) : (s.bump f n).moves = s.moves := rfl
@[simp] theorem bump_brings (s : State) (f : FRef) (n : Nat) : (s.bump f n).brings = s.brings := rfl
@[simp] theorem bump_advised (s : State) (f : FRef) (n : Nat) : (s.bump f n).advised = s.advised := rfl
@[simp] theorem bump_fetches (s : State) (f : FRef) (n : Nat) : (s.bump f n).fetches = s.fetches := rfl
@[simp] theorem bump_cnps (s : State) (f : FRef) (n : Nat) : (s.bump f n).cnps = s.cnps := rfl
@[simp] theorem bump_ports (s : State) (f : FRef) (n : Nat) : (s.bump f n).ports = s.ports := rfl
@[simp] theorem bump_inbox (s : State) (f : FRef) (n : Nat) : (s.bump f n).inbox = s.inbox := rfl
@[simp] theorem bump_left (s : State) (f : FRef) (n : Nat) : (s.bump f n).left = s.left := rfl
@[simp] theorem bump_leaves (s : State) (f : FRef) (n : Nat) : (s.bump f n).leaves = s.leaves := rfl
@[simp] theorem bump_joined (s : State) (f : FRef) (n : Nat) : (s.bump f n).joined = s.joined := rfl
@[simp] theorem bump_servo (s : State) (f : FRef) (n : Nat) : (s.bump f n).servo = s.servo := rfl
@[simp] theorem bump_flights (s : State) (f : FRef) (n : Nat) : (s.bump f n).flights = s.flights := rfl
@[simp] theorem bump_notes (s : State) (f : FRef) (n : Nat) : (s.bump f n).notes = s.notes := rfl
@[simp] theorem bump_slots (s : State) (f : FRef) (n : Nat) : (s.bump f n).slots = s.slots := rfl
@[simp] theorem bump_jobWork (s : State) (f : FRef) (n : Nat) : (s.bump f n).jobWork = s.jobWork := rfl
@[simp] theorem bump_eth (s : State) (f : FRef) (n : Nat) : (s.bump f n).eth = s.eth := rfl
@[simp] theorem bump_setting (s : State) (f : FRef) (n : Nat) : (s.bump f n).setting = s.setting := rfl
@[simp] theorem bump_effDig (s : State) (f : FRef) (n : Nat) : (s.bump f n).effDig = s.effDig := rfl
@[simp] theorem bump_loadDig (s : State) (f : FRef) (n : Nat) : (s.bump f n).loadDig = s.loadDig := rfl
@[simp] theorem bump_store (s : State) (f : FRef) (n : Nat) : (s.bump f n).store = s.store := rfl
@[simp] theorem bump_pulls (s : State) (f : FRef) (n : Nat) : (s.bump f n).pulls = s.pulls := rfl
@[simp] theorem bump_clasp (s : State) (f : FRef) (n : Nat) : (s.bump f n).clasp = s.clasp := rfl
@[simp] theorem bump_rot (s : State) (f : FRef) (n : Nat) : (s.bump f n).rot = s.rot := rfl
@[simp] theorem bump_pwr (s : State) (f : FRef) (n : Nat) : (s.bump f n).pwr = s.pwr := rfl
@[simp] theorem bump_freeCtr (s : State) (f : FRef) (n : Nat) : (s.bump f n).freeCtr = s.freeCtr := rfl
@[simp] theorem bump_pending (s : State) (f : FRef) (n : Nat) : (s.bump f n).pending = s.pending := rfl

/-! ### pendVec -/

@[simp] theorem pendVec_aon (s : State) (v : Nat) : (s.pendVec v).aon = s.aon := rfl
@[simp] theorem pendVec_holdHost (s : State) (v : Nat) : (s.pendVec v).holdHost = s.holdHost := rfl
@[simp] theorem pendVec_holdFw (s : State) (v : Nat) : (s.pendVec v).holdFw = s.holdFw := rfl
@[simp] theorem pendVec_errs (s : State) (v : Nat) : (s.pendVec v).errs = s.errs := rfl
@[simp] theorem pendVec_errSeq (s : State) (v : Nat) : (s.pendVec v).errSeq = s.errSeq := rfl
@[simp] theorem pendVec_vlog (s : State) (v : Nat) : (s.pendVec v).vlog = s.vlog := rfl
@[simp] theorem pendVec_vSeq (s : State) (v : Nat) : (s.pendVec v).vSeq = s.vSeq := rfl
@[simp] theorem pendVec_cores (s : State) (v : Nat) : (s.pendVec v).cores = s.cores := rfl
@[simp] theorem pendVec_mem (s : State) (v : Nat) : (s.pendVec v).mem = s.mem := rfl
@[simp] theorem pendVec_gpoison (s : State) (v : Nat) : (s.pendVec v).gpoison = s.gpoison := rfl
@[simp] theorem pendVec_hpoison (s : State) (v : Nat) : (s.pendVec v).hpoison = s.hpoison := rfl
@[simp] theorem pendVec_hbmGen (s : State) (v : Nat) : (s.pendVec v).hbmGen = s.hbmGen := rfl
@[simp] theorem pendVec_hbmSt (s : State) (v : Nat) : (s.pendVec v).hbmSt = s.hbmSt := rfl
@[simp] theorem pendVec_l2 (s : State) (v : Nat) : (s.pendVec v).l2 = s.l2 := rfl
@[simp] theorem pendVec_msc (s : State) (v : Nat) : (s.pendVec v).msc = s.msc := rfl
@[simp] theorem pendVec_mntPos (s : State) (v : Nat) : (s.pendVec v).mntPos = s.mntPos := rfl
@[simp] theorem pendVec_dir (s : State) (v : Nat) : (s.pendVec v).dir = s.dir := rfl
@[simp] theorem pendVec_txns (s : State) (v : Nat) : (s.pendVec v).txns = s.txns := rfl
@[simp] theorem pendVec_conflict (s : State) (v : Nat) : (s.pendVec v).conflict = s.conflict := rfl
@[simp] theorem pendVec_preqs (s : State) (v : Nat) : (s.pendVec v).preqs = s.preqs := rfl
@[simp] theorem pendVec_wbuf (s : State) (v : Nat) : (s.pendVec v).wbuf = s.wbuf := rfl
@[simp] theorem pendVec_inHold (s : State) (v : Nat) : (s.pendVec v).inHold = s.inHold := rfl
@[simp] theorem pendVec_delayed (s : State) (v : Nat) : (s.pendVec v).delayed = s.delayed := rfl
@[simp] theorem pendVec_rbuf (s : State) (v : Nat) : (s.pendVec v).rbuf = s.rbuf := rfl
@[simp] theorem pendVec_nextTxn (s : State) (v : Nat) : (s.pendVec v).nextTxn = s.nextTxn := rfl
@[simp] theorem pendVec_lateInv (s : State) (v : Nat) : (s.pendVec v).lateInv = s.lateInv := rfl
@[simp] theorem pendVec_biConf (s : State) (v : Nat) : (s.pendVec v).biConf = s.biConf := rfl
@[simp] theorem pendVec_hcReqs (s : State) (v : Nat) : (s.pendVec v).hcReqs = s.hcReqs := rfl
@[simp] theorem pendVec_flip (s : State) (v : Nat) : (s.pendVec v).flip = s.flip := rfl
@[simp] theorem pendVec_purges (s : State) (v : Nat) : (s.pendVec v).purges = s.purges := rfl
@[simp] theorem pendVec_ctxs (s : State) (v : Nat) : (s.pendVec v).ctxs = s.ctxs := rfl
@[simp] theorem pendVec_tlbs (s : State) (v : Nat) : (s.pendVec v).tlbs = s.tlbs := rfl
@[simp] theorem pendVec_stlb (s : State) (v : Nat) : (s.pendVec v).stlb = s.stlb := rfl
@[simp] theorem pendVec_walks (s : State) (v : Nat) : (s.pendVec v).walks = s.walks := rfl
@[simp] theorem pendVec_nextWalk (s : State) (v : Nat) : (s.pendVec v).nextWalk = s.nextWalk := rfl
@[simp] theorem pendVec_frecs (s : State) (v : Nat) : (s.pendVec v).frecs = s.frecs := rfl
@[simp] theorem pendVec_fseq (s : State) (v : Nat) : (s.pendVec v).fseq = s.fseq := rfl
@[simp] theorem pendVec_xops (s : State) (v : Nat) : (s.pendVec v).xops = s.xops := rfl
@[simp] theorem pendVec_wins (s : State) (v : Nat) : (s.pendVec v).wins = s.wins := rfl
@[simp] theorem pendVec_winOld (s : State) (v : Nat) : (s.pendVec v).winOld = s.winOld := rfl
@[simp] theorem pendVec_winOut (s : State) (v : Nat) : (s.pendVec v).winOut = s.winOut := rfl
@[simp] theorem pendVec_ep (s : State) (v : Nat) : (s.pendVec v).ep = s.ep := rfl
@[simp] theorem pendVec_inWait (s : State) (v : Nat) : (s.pendVec v).inWait = s.inWait := rfl
@[simp] theorem pendVec_sqs (s : State) (v : Nat) : (s.pendVec v).sqs = s.sqs := rfl
@[simp] theorem pendVec_cqs (s : State) (v : Nat) : (s.pendVec v).cqs = s.cqs := rfl
@[simp] theorem pendVec_certs (s : State) (v : Nat) : (s.pendVec v).certs = s.certs := rfl
@[simp] theorem pendVec_turns (s : State) (v : Nat) : (s.pendVec v).turns = s.turns := rfl
@[simp] theorem pendVec_chanXf (s : State) (v : Nat) : (s.pendVec v).chanXf = s.chanXf := rfl
@[simp] theorem pendVec_imgs (s : State) (v : Nat) : (s.pendVec v).imgs = s.imgs := rfl
@[simp] theorem pendVec_streams (s : State) (v : Nat) : (s.pendVec v).streams = s.streams := rfl
@[simp] theorem pendVec_pages (s : State) (v : Nat) : (s.pendVec v).pages = s.pages := rfl
@[simp] theorem pendVec_moves (s : State) (v : Nat) : (s.pendVec v).moves = s.moves := rfl
@[simp] theorem pendVec_brings (s : State) (v : Nat) : (s.pendVec v).brings = s.brings := rfl
@[simp] theorem pendVec_advised (s : State) (v : Nat) : (s.pendVec v).advised = s.advised := rfl
@[simp] theorem pendVec_fetches (s : State) (v : Nat) : (s.pendVec v).fetches = s.fetches := rfl
@[simp] theorem pendVec_cnps (s : State) (v : Nat) : (s.pendVec v).cnps = s.cnps := rfl
@[simp] theorem pendVec_ports (s : State) (v : Nat) : (s.pendVec v).ports = s.ports := rfl
@[simp] theorem pendVec_inbox (s : State) (v : Nat) : (s.pendVec v).inbox = s.inbox := rfl
@[simp] theorem pendVec_left (s : State) (v : Nat) : (s.pendVec v).left = s.left := rfl
@[simp] theorem pendVec_leaves (s : State) (v : Nat) : (s.pendVec v).leaves = s.leaves := rfl
@[simp] theorem pendVec_joined (s : State) (v : Nat) : (s.pendVec v).joined = s.joined := rfl
@[simp] theorem pendVec_servo (s : State) (v : Nat) : (s.pendVec v).servo = s.servo := rfl
@[simp] theorem pendVec_flights (s : State) (v : Nat) : (s.pendVec v).flights = s.flights := rfl
@[simp] theorem pendVec_notes (s : State) (v : Nat) : (s.pendVec v).notes = s.notes := rfl
@[simp] theorem pendVec_slots (s : State) (v : Nat) : (s.pendVec v).slots = s.slots := rfl
@[simp] theorem pendVec_jobWork (s : State) (v : Nat) : (s.pendVec v).jobWork = s.jobWork := rfl
@[simp] theorem pendVec_eth (s : State) (v : Nat) : (s.pendVec v).eth = s.eth := rfl
@[simp] theorem pendVec_setting (s : State) (v : Nat) : (s.pendVec v).setting = s.setting := rfl
@[simp] theorem pendVec_effDig (s : State) (v : Nat) : (s.pendVec v).effDig = s.effDig := rfl
@[simp] theorem pendVec_loadDig (s : State) (v : Nat) : (s.pendVec v).loadDig = s.loadDig := rfl
@[simp] theorem pendVec_store (s : State) (v : Nat) : (s.pendVec v).store = s.store := rfl
@[simp] theorem pendVec_pulls (s : State) (v : Nat) : (s.pendVec v).pulls = s.pulls := rfl
@[simp] theorem pendVec_clasp (s : State) (v : Nat) : (s.pendVec v).clasp = s.clasp := rfl
@[simp] theorem pendVec_rot (s : State) (v : Nat) : (s.pendVec v).rot = s.rot := rfl
@[simp] theorem pendVec_pwr (s : State) (v : Nat) : (s.pendVec v).pwr = s.pwr := rfl
@[simp] theorem pendVec_freeCtr (s : State) (v : Nat) : (s.pendVec v).freeCtr = s.freeCtr := rfl
@[simp] theorem pendVec_pending (s : State) (v : Nat) : (s.pendVec v).pending = s.pending := rfl

/-! ### setCore -/

@[simp] theorem setCore_aon (s : State) (c : Nat) (k : Core) : (s.setCore c k).aon = s.aon := rfl
@[simp] theorem setCore_regs (s : State) (c : Nat) (k : Core) : (s.setCore c k).regs = s.regs := rfl
@[simp] theorem setCore_holdHost (s : State) (c : Nat) (k : Core) : (s.setCore c k).holdHost = s.holdHost := rfl
@[simp] theorem setCore_holdFw (s : State) (c : Nat) (k : Core) : (s.setCore c k).holdFw = s.holdFw := rfl
@[simp] theorem setCore_errs (s : State) (c : Nat) (k : Core) : (s.setCore c k).errs = s.errs := rfl
@[simp] theorem setCore_errSeq (s : State) (c : Nat) (k : Core) : (s.setCore c k).errSeq = s.errSeq := rfl
@[simp] theorem setCore_vlog (s : State) (c : Nat) (k : Core) : (s.setCore c k).vlog = s.vlog := rfl
@[simp] theorem setCore_vSeq (s : State) (c : Nat) (k : Core) : (s.setCore c k).vSeq = s.vSeq := rfl
@[simp] theorem setCore_mem (s : State) (c : Nat) (k : Core) : (s.setCore c k).mem = s.mem := rfl
@[simp] theorem setCore_gpoison (s : State) (c : Nat) (k : Core) : (s.setCore c k).gpoison = s.gpoison := rfl
@[simp] theorem setCore_hpoison (s : State) (c : Nat) (k : Core) : (s.setCore c k).hpoison = s.hpoison := rfl
@[simp] theorem setCore_hbmGen (s : State) (c : Nat) (k : Core) : (s.setCore c k).hbmGen = s.hbmGen := rfl
@[simp] theorem setCore_hbmSt (s : State) (c : Nat) (k : Core) : (s.setCore c k).hbmSt = s.hbmSt := rfl
@[simp] theorem setCore_l2 (s : State) (c : Nat) (k : Core) : (s.setCore c k).l2 = s.l2 := rfl
@[simp] theorem setCore_msc (s : State) (c : Nat) (k : Core) : (s.setCore c k).msc = s.msc := rfl
@[simp] theorem setCore_mntPos (s : State) (c : Nat) (k : Core) : (s.setCore c k).mntPos = s.mntPos := rfl
@[simp] theorem setCore_dir (s : State) (c : Nat) (k : Core) : (s.setCore c k).dir = s.dir := rfl
@[simp] theorem setCore_txns (s : State) (c : Nat) (k : Core) : (s.setCore c k).txns = s.txns := rfl
@[simp] theorem setCore_conflict (s : State) (c : Nat) (k : Core) : (s.setCore c k).conflict = s.conflict := rfl
@[simp] theorem setCore_preqs (s : State) (c : Nat) (k : Core) : (s.setCore c k).preqs = s.preqs := rfl
@[simp] theorem setCore_wbuf (s : State) (c : Nat) (k : Core) : (s.setCore c k).wbuf = s.wbuf := rfl
@[simp] theorem setCore_inHold (s : State) (c : Nat) (k : Core) : (s.setCore c k).inHold = s.inHold := rfl
@[simp] theorem setCore_delayed (s : State) (c : Nat) (k : Core) : (s.setCore c k).delayed = s.delayed := rfl
@[simp] theorem setCore_rbuf (s : State) (c : Nat) (k : Core) : (s.setCore c k).rbuf = s.rbuf := rfl
@[simp] theorem setCore_nextTxn (s : State) (c : Nat) (k : Core) : (s.setCore c k).nextTxn = s.nextTxn := rfl
@[simp] theorem setCore_lateInv (s : State) (c : Nat) (k : Core) : (s.setCore c k).lateInv = s.lateInv := rfl
@[simp] theorem setCore_biConf (s : State) (c : Nat) (k : Core) : (s.setCore c k).biConf = s.biConf := rfl
@[simp] theorem setCore_hcReqs (s : State) (c : Nat) (k : Core) : (s.setCore c k).hcReqs = s.hcReqs := rfl
@[simp] theorem setCore_flip (s : State) (c : Nat) (k : Core) : (s.setCore c k).flip = s.flip := rfl
@[simp] theorem setCore_purges (s : State) (c : Nat) (k : Core) : (s.setCore c k).purges = s.purges := rfl
@[simp] theorem setCore_ctxs (s : State) (c : Nat) (k : Core) : (s.setCore c k).ctxs = s.ctxs := rfl
@[simp] theorem setCore_tlbs (s : State) (c : Nat) (k : Core) : (s.setCore c k).tlbs = s.tlbs := rfl
@[simp] theorem setCore_stlb (s : State) (c : Nat) (k : Core) : (s.setCore c k).stlb = s.stlb := rfl
@[simp] theorem setCore_walks (s : State) (c : Nat) (k : Core) : (s.setCore c k).walks = s.walks := rfl
@[simp] theorem setCore_nextWalk (s : State) (c : Nat) (k : Core) : (s.setCore c k).nextWalk = s.nextWalk := rfl
@[simp] theorem setCore_frecs (s : State) (c : Nat) (k : Core) : (s.setCore c k).frecs = s.frecs := rfl
@[simp] theorem setCore_fseq (s : State) (c : Nat) (k : Core) : (s.setCore c k).fseq = s.fseq := rfl
@[simp] theorem setCore_xops (s : State) (c : Nat) (k : Core) : (s.setCore c k).xops = s.xops := rfl
@[simp] theorem setCore_wins (s : State) (c : Nat) (k : Core) : (s.setCore c k).wins = s.wins := rfl
@[simp] theorem setCore_winOld (s : State) (c : Nat) (k : Core) : (s.setCore c k).winOld = s.winOld := rfl
@[simp] theorem setCore_winOut (s : State) (c : Nat) (k : Core) : (s.setCore c k).winOut = s.winOut := rfl
@[simp] theorem setCore_ep (s : State) (c : Nat) (k : Core) : (s.setCore c k).ep = s.ep := rfl
@[simp] theorem setCore_inWait (s : State) (c : Nat) (k : Core) : (s.setCore c k).inWait = s.inWait := rfl
@[simp] theorem setCore_sqs (s : State) (c : Nat) (k : Core) : (s.setCore c k).sqs = s.sqs := rfl
@[simp] theorem setCore_cqs (s : State) (c : Nat) (k : Core) : (s.setCore c k).cqs = s.cqs := rfl
@[simp] theorem setCore_certs (s : State) (c : Nat) (k : Core) : (s.setCore c k).certs = s.certs := rfl
@[simp] theorem setCore_turns (s : State) (c : Nat) (k : Core) : (s.setCore c k).turns = s.turns := rfl
@[simp] theorem setCore_chanXf (s : State) (c : Nat) (k : Core) : (s.setCore c k).chanXf = s.chanXf := rfl
@[simp] theorem setCore_imgs (s : State) (c : Nat) (k : Core) : (s.setCore c k).imgs = s.imgs := rfl
@[simp] theorem setCore_streams (s : State) (c : Nat) (k : Core) : (s.setCore c k).streams = s.streams := rfl
@[simp] theorem setCore_pages (s : State) (c : Nat) (k : Core) : (s.setCore c k).pages = s.pages := rfl
@[simp] theorem setCore_moves (s : State) (c : Nat) (k : Core) : (s.setCore c k).moves = s.moves := rfl
@[simp] theorem setCore_brings (s : State) (c : Nat) (k : Core) : (s.setCore c k).brings = s.brings := rfl
@[simp] theorem setCore_advised (s : State) (c : Nat) (k : Core) : (s.setCore c k).advised = s.advised := rfl
@[simp] theorem setCore_fetches (s : State) (c : Nat) (k : Core) : (s.setCore c k).fetches = s.fetches := rfl
@[simp] theorem setCore_cnps (s : State) (c : Nat) (k : Core) : (s.setCore c k).cnps = s.cnps := rfl
@[simp] theorem setCore_ports (s : State) (c : Nat) (k : Core) : (s.setCore c k).ports = s.ports := rfl
@[simp] theorem setCore_inbox (s : State) (c : Nat) (k : Core) : (s.setCore c k).inbox = s.inbox := rfl
@[simp] theorem setCore_left (s : State) (c : Nat) (k : Core) : (s.setCore c k).left = s.left := rfl
@[simp] theorem setCore_leaves (s : State) (c : Nat) (k : Core) : (s.setCore c k).leaves = s.leaves := rfl
@[simp] theorem setCore_joined (s : State) (c : Nat) (k : Core) : (s.setCore c k).joined = s.joined := rfl
@[simp] theorem setCore_servo (s : State) (c : Nat) (k : Core) : (s.setCore c k).servo = s.servo := rfl
@[simp] theorem setCore_flights (s : State) (c : Nat) (k : Core) : (s.setCore c k).flights = s.flights := rfl
@[simp] theorem setCore_notes (s : State) (c : Nat) (k : Core) : (s.setCore c k).notes = s.notes := rfl
@[simp] theorem setCore_slots (s : State) (c : Nat) (k : Core) : (s.setCore c k).slots = s.slots := rfl
@[simp] theorem setCore_jobWork (s : State) (c : Nat) (k : Core) : (s.setCore c k).jobWork = s.jobWork := rfl
@[simp] theorem setCore_eth (s : State) (c : Nat) (k : Core) : (s.setCore c k).eth = s.eth := rfl
@[simp] theorem setCore_setting (s : State) (c : Nat) (k : Core) : (s.setCore c k).setting = s.setting := rfl
@[simp] theorem setCore_effDig (s : State) (c : Nat) (k : Core) : (s.setCore c k).effDig = s.effDig := rfl
@[simp] theorem setCore_loadDig (s : State) (c : Nat) (k : Core) : (s.setCore c k).loadDig = s.loadDig := rfl
@[simp] theorem setCore_store (s : State) (c : Nat) (k : Core) : (s.setCore c k).store = s.store := rfl
@[simp] theorem setCore_pulls (s : State) (c : Nat) (k : Core) : (s.setCore c k).pulls = s.pulls := rfl
@[simp] theorem setCore_clasp (s : State) (c : Nat) (k : Core) : (s.setCore c k).clasp = s.clasp := rfl
@[simp] theorem setCore_rot (s : State) (c : Nat) (k : Core) : (s.setCore c k).rot = s.rot := rfl
@[simp] theorem setCore_pwr (s : State) (c : Nat) (k : Core) : (s.setCore c k).pwr = s.pwr := rfl
@[simp] theorem setCore_freeCtr (s : State) (c : Nat) (k : Core) : (s.setCore c k).freeCtr = s.freeCtr := rfl
@[simp] theorem setCore_pending (s : State) (c : Nat) (k : Core) : (s.setCore c k).pending = s.pending := rfl

/-! ### modCore -/

@[simp] theorem modCore_aon (s : State) (c : Nat) (f : Core → Core) : (s.modCore c f).aon = s.aon := rfl
@[simp] theorem modCore_regs (s : State) (c : Nat) (f : Core → Core) : (s.modCore c f).regs = s.regs := rfl
@[simp] theorem modCore_holdHost (s : State) (c : Nat) (f : Core → Core) : (s.modCore c f).holdHost = s.holdHost := rfl
@[simp] theorem modCore_holdFw (s : State) (c : Nat) (f : Core → Core) : (s.modCore c f).holdFw = s.holdFw := rfl
@[simp] theorem modCore_errs (s : State) (c : Nat) (f : Core → Core) : (s.modCore c f).errs = s.errs := rfl
@[simp] theorem modCore_errSeq (s : State) (c : Nat) (f : Core → Core) : (s.modCore c f).errSeq = s.errSeq := rfl
@[simp] theorem modCore_vlog (s : State) (c : Nat) (f : Core → Core) : (s.modCore c f).vlog = s.vlog := rfl
@[simp] theorem modCore_vSeq (s : State) (c : Nat) (f : Core → Core) : (s.modCore c f).vSeq = s.vSeq := rfl
@[simp] theorem modCore_mem (s : State) (c : Nat) (f : Core → Core) : (s.modCore c f).mem = s.mem := rfl
@[simp] theorem modCore_gpoison (s : State) (c : Nat) (f : Core → Core) : (s.modCore c f).gpoison = s.gpoison := rfl
@[simp] theorem modCore_hpoison (s : State) (c : Nat) (f : Core → Core) : (s.modCore c f).hpoison = s.hpoison := rfl
@[simp] theorem modCore_hbmGen (s : State) (c : Nat) (f : Core → Core) : (s.modCore c f).hbmGen = s.hbmGen := rfl
@[simp] theorem modCore_hbmSt (s : State) (c : Nat) (f : Core → Core) : (s.modCore c f).hbmSt = s.hbmSt := rfl
@[simp] theorem modCore_l2 (s : State) (c : Nat) (f : Core → Core) : (s.modCore c f).l2 = s.l2 := rfl
@[simp] theorem modCore_msc (s : State) (c : Nat) (f : Core → Core) : (s.modCore c f).msc = s.msc := rfl
@[simp] theorem modCore_mntPos (s : State) (c : Nat) (f : Core → Core) : (s.modCore c f).mntPos = s.mntPos := rfl
@[simp] theorem modCore_dir (s : State) (c : Nat) (f : Core → Core) : (s.modCore c f).dir = s.dir := rfl
@[simp] theorem modCore_txns (s : State) (c : Nat) (f : Core → Core) : (s.modCore c f).txns = s.txns := rfl
@[simp] theorem modCore_conflict (s : State) (c : Nat) (f : Core → Core) : (s.modCore c f).conflict = s.conflict := rfl
@[simp] theorem modCore_preqs (s : State) (c : Nat) (f : Core → Core) : (s.modCore c f).preqs = s.preqs := rfl
@[simp] theorem modCore_wbuf (s : State) (c : Nat) (f : Core → Core) : (s.modCore c f).wbuf = s.wbuf := rfl
@[simp] theorem modCore_inHold (s : State) (c : Nat) (f : Core → Core) : (s.modCore c f).inHold = s.inHold := rfl
@[simp] theorem modCore_delayed (s : State) (c : Nat) (f : Core → Core) : (s.modCore c f).delayed = s.delayed := rfl
@[simp] theorem modCore_rbuf (s : State) (c : Nat) (f : Core → Core) : (s.modCore c f).rbuf = s.rbuf := rfl
@[simp] theorem modCore_nextTxn (s : State) (c : Nat) (f : Core → Core) : (s.modCore c f).nextTxn = s.nextTxn := rfl
@[simp] theorem modCore_lateInv (s : State) (c : Nat) (f : Core → Core) : (s.modCore c f).lateInv = s.lateInv := rfl
@[simp] theorem modCore_biConf (s : State) (c : Nat) (f : Core → Core) : (s.modCore c f).biConf = s.biConf := rfl
@[simp] theorem modCore_hcReqs (s : State) (c : Nat) (f : Core → Core) : (s.modCore c f).hcReqs = s.hcReqs := rfl
@[simp] theorem modCore_flip (s : State) (c : Nat) (f : Core → Core) : (s.modCore c f).flip = s.flip := rfl
@[simp] theorem modCore_purges (s : State) (c : Nat) (f : Core → Core) : (s.modCore c f).purges = s.purges := rfl
@[simp] theorem modCore_ctxs (s : State) (c : Nat) (f : Core → Core) : (s.modCore c f).ctxs = s.ctxs := rfl
@[simp] theorem modCore_tlbs (s : State) (c : Nat) (f : Core → Core) : (s.modCore c f).tlbs = s.tlbs := rfl
@[simp] theorem modCore_stlb (s : State) (c : Nat) (f : Core → Core) : (s.modCore c f).stlb = s.stlb := rfl
@[simp] theorem modCore_walks (s : State) (c : Nat) (f : Core → Core) : (s.modCore c f).walks = s.walks := rfl
@[simp] theorem modCore_nextWalk (s : State) (c : Nat) (f : Core → Core) : (s.modCore c f).nextWalk = s.nextWalk := rfl
@[simp] theorem modCore_frecs (s : State) (c : Nat) (f : Core → Core) : (s.modCore c f).frecs = s.frecs := rfl
@[simp] theorem modCore_fseq (s : State) (c : Nat) (f : Core → Core) : (s.modCore c f).fseq = s.fseq := rfl
@[simp] theorem modCore_xops (s : State) (c : Nat) (f : Core → Core) : (s.modCore c f).xops = s.xops := rfl
@[simp] theorem modCore_wins (s : State) (c : Nat) (f : Core → Core) : (s.modCore c f).wins = s.wins := rfl
@[simp] theorem modCore_winOld (s : State) (c : Nat) (f : Core → Core) : (s.modCore c f).winOld = s.winOld := rfl
@[simp] theorem modCore_winOut (s : State) (c : Nat) (f : Core → Core) : (s.modCore c f).winOut = s.winOut := rfl
@[simp] theorem modCore_ep (s : State) (c : Nat) (f : Core → Core) : (s.modCore c f).ep = s.ep := rfl
@[simp] theorem modCore_inWait (s : State) (c : Nat) (f : Core → Core) : (s.modCore c f).inWait = s.inWait := rfl
@[simp] theorem modCore_sqs (s : State) (c : Nat) (f : Core → Core) : (s.modCore c f).sqs = s.sqs := rfl
@[simp] theorem modCore_cqs (s : State) (c : Nat) (f : Core → Core) : (s.modCore c f).cqs = s.cqs := rfl
@[simp] theorem modCore_certs (s : State) (c : Nat) (f : Core → Core) : (s.modCore c f).certs = s.certs := rfl
@[simp] theorem modCore_turns (s : State) (c : Nat) (f : Core → Core) : (s.modCore c f).turns = s.turns := rfl
@[simp] theorem modCore_chanXf (s : State) (c : Nat) (f : Core → Core) : (s.modCore c f).chanXf = s.chanXf := rfl
@[simp] theorem modCore_imgs (s : State) (c : Nat) (f : Core → Core) : (s.modCore c f).imgs = s.imgs := rfl
@[simp] theorem modCore_streams (s : State) (c : Nat) (f : Core → Core) : (s.modCore c f).streams = s.streams := rfl
@[simp] theorem modCore_pages (s : State) (c : Nat) (f : Core → Core) : (s.modCore c f).pages = s.pages := rfl
@[simp] theorem modCore_moves (s : State) (c : Nat) (f : Core → Core) : (s.modCore c f).moves = s.moves := rfl
@[simp] theorem modCore_brings (s : State) (c : Nat) (f : Core → Core) : (s.modCore c f).brings = s.brings := rfl
@[simp] theorem modCore_advised (s : State) (c : Nat) (f : Core → Core) : (s.modCore c f).advised = s.advised := rfl
@[simp] theorem modCore_fetches (s : State) (c : Nat) (f : Core → Core) : (s.modCore c f).fetches = s.fetches := rfl
@[simp] theorem modCore_cnps (s : State) (c : Nat) (f : Core → Core) : (s.modCore c f).cnps = s.cnps := rfl
@[simp] theorem modCore_ports (s : State) (c : Nat) (f : Core → Core) : (s.modCore c f).ports = s.ports := rfl
@[simp] theorem modCore_inbox (s : State) (c : Nat) (f : Core → Core) : (s.modCore c f).inbox = s.inbox := rfl
@[simp] theorem modCore_left (s : State) (c : Nat) (f : Core → Core) : (s.modCore c f).left = s.left := rfl
@[simp] theorem modCore_leaves (s : State) (c : Nat) (f : Core → Core) : (s.modCore c f).leaves = s.leaves := rfl
@[simp] theorem modCore_joined (s : State) (c : Nat) (f : Core → Core) : (s.modCore c f).joined = s.joined := rfl
@[simp] theorem modCore_servo (s : State) (c : Nat) (f : Core → Core) : (s.modCore c f).servo = s.servo := rfl
@[simp] theorem modCore_flights (s : State) (c : Nat) (f : Core → Core) : (s.modCore c f).flights = s.flights := rfl
@[simp] theorem modCore_notes (s : State) (c : Nat) (f : Core → Core) : (s.modCore c f).notes = s.notes := rfl
@[simp] theorem modCore_slots (s : State) (c : Nat) (f : Core → Core) : (s.modCore c f).slots = s.slots := rfl
@[simp] theorem modCore_jobWork (s : State) (c : Nat) (f : Core → Core) : (s.modCore c f).jobWork = s.jobWork := rfl
@[simp] theorem modCore_eth (s : State) (c : Nat) (f : Core → Core) : (s.modCore c f).eth = s.eth := rfl
@[simp] theorem modCore_setting (s : State) (c : Nat) (f : Core → Core) : (s.modCore c f).setting = s.setting := rfl
@[simp] theorem modCore_effDig (s : State) (c : Nat) (f : Core → Core) : (s.modCore c f).effDig = s.effDig := rfl
@[simp] theorem modCore_loadDig (s : State) (c : Nat) (f : Core → Core) : (s.modCore c f).loadDig = s.loadDig := rfl
@[simp] theorem modCore_store (s : State) (c : Nat) (f : Core → Core) : (s.modCore c f).store = s.store := rfl
@[simp] theorem modCore_pulls (s : State) (c : Nat) (f : Core → Core) : (s.modCore c f).pulls = s.pulls := rfl
@[simp] theorem modCore_clasp (s : State) (c : Nat) (f : Core → Core) : (s.modCore c f).clasp = s.clasp := rfl
@[simp] theorem modCore_rot (s : State) (c : Nat) (f : Core → Core) : (s.modCore c f).rot = s.rot := rfl
@[simp] theorem modCore_pwr (s : State) (c : Nat) (f : Core → Core) : (s.modCore c f).pwr = s.pwr := rfl
@[simp] theorem modCore_freeCtr (s : State) (c : Nat) (f : Core → Core) : (s.modCore c f).freeCtr = s.freeCtr := rfl
@[simp] theorem modCore_pending (s : State) (c : Nat) (f : Core → Core) : (s.modCore c f).pending = s.pending := rfl

/-! ### setByte -/

@[simp] theorem setByte_aon (s : State) (a : Nat) (v : Byte) : (s.setByte a v).aon = s.aon := rfl
@[simp] theorem setByte_regs (s : State) (a : Nat) (v : Byte) : (s.setByte a v).regs = s.regs := rfl
@[simp] theorem setByte_holdHost (s : State) (a : Nat) (v : Byte) : (s.setByte a v).holdHost = s.holdHost := rfl
@[simp] theorem setByte_holdFw (s : State) (a : Nat) (v : Byte) : (s.setByte a v).holdFw = s.holdFw := rfl
@[simp] theorem setByte_errs (s : State) (a : Nat) (v : Byte) : (s.setByte a v).errs = s.errs := rfl
@[simp] theorem setByte_errSeq (s : State) (a : Nat) (v : Byte) : (s.setByte a v).errSeq = s.errSeq := rfl
@[simp] theorem setByte_vlog (s : State) (a : Nat) (v : Byte) : (s.setByte a v).vlog = s.vlog := rfl
@[simp] theorem setByte_vSeq (s : State) (a : Nat) (v : Byte) : (s.setByte a v).vSeq = s.vSeq := rfl
@[simp] theorem setByte_cores (s : State) (a : Nat) (v : Byte) : (s.setByte a v).cores = s.cores := rfl
@[simp] theorem setByte_gpoison (s : State) (a : Nat) (v : Byte) : (s.setByte a v).gpoison = s.gpoison := rfl
@[simp] theorem setByte_hpoison (s : State) (a : Nat) (v : Byte) : (s.setByte a v).hpoison = s.hpoison := rfl
@[simp] theorem setByte_hbmGen (s : State) (a : Nat) (v : Byte) : (s.setByte a v).hbmGen = s.hbmGen := rfl
@[simp] theorem setByte_hbmSt (s : State) (a : Nat) (v : Byte) : (s.setByte a v).hbmSt = s.hbmSt := rfl
@[simp] theorem setByte_l2 (s : State) (a : Nat) (v : Byte) : (s.setByte a v).l2 = s.l2 := rfl
@[simp] theorem setByte_msc (s : State) (a : Nat) (v : Byte) : (s.setByte a v).msc = s.msc := rfl
@[simp] theorem setByte_mntPos (s : State) (a : Nat) (v : Byte) : (s.setByte a v).mntPos = s.mntPos := rfl
@[simp] theorem setByte_dir (s : State) (a : Nat) (v : Byte) : (s.setByte a v).dir = s.dir := rfl
@[simp] theorem setByte_txns (s : State) (a : Nat) (v : Byte) : (s.setByte a v).txns = s.txns := rfl
@[simp] theorem setByte_conflict (s : State) (a : Nat) (v : Byte) : (s.setByte a v).conflict = s.conflict := rfl
@[simp] theorem setByte_preqs (s : State) (a : Nat) (v : Byte) : (s.setByte a v).preqs = s.preqs := rfl
@[simp] theorem setByte_wbuf (s : State) (a : Nat) (v : Byte) : (s.setByte a v).wbuf = s.wbuf := rfl
@[simp] theorem setByte_inHold (s : State) (a : Nat) (v : Byte) : (s.setByte a v).inHold = s.inHold := rfl
@[simp] theorem setByte_delayed (s : State) (a : Nat) (v : Byte) : (s.setByte a v).delayed = s.delayed := rfl
@[simp] theorem setByte_rbuf (s : State) (a : Nat) (v : Byte) : (s.setByte a v).rbuf = s.rbuf := rfl
@[simp] theorem setByte_nextTxn (s : State) (a : Nat) (v : Byte) : (s.setByte a v).nextTxn = s.nextTxn := rfl
@[simp] theorem setByte_lateInv (s : State) (a : Nat) (v : Byte) : (s.setByte a v).lateInv = s.lateInv := rfl
@[simp] theorem setByte_biConf (s : State) (a : Nat) (v : Byte) : (s.setByte a v).biConf = s.biConf := rfl
@[simp] theorem setByte_hcReqs (s : State) (a : Nat) (v : Byte) : (s.setByte a v).hcReqs = s.hcReqs := rfl
@[simp] theorem setByte_flip (s : State) (a : Nat) (v : Byte) : (s.setByte a v).flip = s.flip := rfl
@[simp] theorem setByte_purges (s : State) (a : Nat) (v : Byte) : (s.setByte a v).purges = s.purges := rfl
@[simp] theorem setByte_ctxs (s : State) (a : Nat) (v : Byte) : (s.setByte a v).ctxs = s.ctxs := rfl
@[simp] theorem setByte_tlbs (s : State) (a : Nat) (v : Byte) : (s.setByte a v).tlbs = s.tlbs := rfl
@[simp] theorem setByte_stlb (s : State) (a : Nat) (v : Byte) : (s.setByte a v).stlb = s.stlb := rfl
@[simp] theorem setByte_walks (s : State) (a : Nat) (v : Byte) : (s.setByte a v).walks = s.walks := rfl
@[simp] theorem setByte_nextWalk (s : State) (a : Nat) (v : Byte) : (s.setByte a v).nextWalk = s.nextWalk := rfl
@[simp] theorem setByte_frecs (s : State) (a : Nat) (v : Byte) : (s.setByte a v).frecs = s.frecs := rfl
@[simp] theorem setByte_fseq (s : State) (a : Nat) (v : Byte) : (s.setByte a v).fseq = s.fseq := rfl
@[simp] theorem setByte_xops (s : State) (a : Nat) (v : Byte) : (s.setByte a v).xops = s.xops := rfl
@[simp] theorem setByte_wins (s : State) (a : Nat) (v : Byte) : (s.setByte a v).wins = s.wins := rfl
@[simp] theorem setByte_winOld (s : State) (a : Nat) (v : Byte) : (s.setByte a v).winOld = s.winOld := rfl
@[simp] theorem setByte_winOut (s : State) (a : Nat) (v : Byte) : (s.setByte a v).winOut = s.winOut := rfl
@[simp] theorem setByte_ep (s : State) (a : Nat) (v : Byte) : (s.setByte a v).ep = s.ep := rfl
@[simp] theorem setByte_inWait (s : State) (a : Nat) (v : Byte) : (s.setByte a v).inWait = s.inWait := rfl
@[simp] theorem setByte_sqs (s : State) (a : Nat) (v : Byte) : (s.setByte a v).sqs = s.sqs := rfl
@[simp] theorem setByte_cqs (s : State) (a : Nat) (v : Byte) : (s.setByte a v).cqs = s.cqs := rfl
@[simp] theorem setByte_certs (s : State) (a : Nat) (v : Byte) : (s.setByte a v).certs = s.certs := rfl
@[simp] theorem setByte_turns (s : State) (a : Nat) (v : Byte) : (s.setByte a v).turns = s.turns := rfl
@[simp] theorem setByte_chanXf (s : State) (a : Nat) (v : Byte) : (s.setByte a v).chanXf = s.chanXf := rfl
@[simp] theorem setByte_imgs (s : State) (a : Nat) (v : Byte) : (s.setByte a v).imgs = s.imgs := rfl
@[simp] theorem setByte_streams (s : State) (a : Nat) (v : Byte) : (s.setByte a v).streams = s.streams := rfl
@[simp] theorem setByte_pages (s : State) (a : Nat) (v : Byte) : (s.setByte a v).pages = s.pages := rfl
@[simp] theorem setByte_moves (s : State) (a : Nat) (v : Byte) : (s.setByte a v).moves = s.moves := rfl
@[simp] theorem setByte_brings (s : State) (a : Nat) (v : Byte) : (s.setByte a v).brings = s.brings := rfl
@[simp] theorem setByte_advised (s : State) (a : Nat) (v : Byte) : (s.setByte a v).advised = s.advised := rfl
@[simp] theorem setByte_fetches (s : State) (a : Nat) (v : Byte) : (s.setByte a v).fetches = s.fetches := rfl
@[simp] theorem setByte_cnps (s : State) (a : Nat) (v : Byte) : (s.setByte a v).cnps = s.cnps := rfl
@[simp] theorem setByte_ports (s : State) (a : Nat) (v : Byte) : (s.setByte a v).ports = s.ports := rfl
@[simp] theorem setByte_inbox (s : State) (a : Nat) (v : Byte) : (s.setByte a v).inbox = s.inbox := rfl
@[simp] theorem setByte_left (s : State) (a : Nat) (v : Byte) : (s.setByte a v).left = s.left := rfl
@[simp] theorem setByte_leaves (s : State) (a : Nat) (v : Byte) : (s.setByte a v).leaves = s.leaves := rfl
@[simp] theorem setByte_joined (s : State) (a : Nat) (v : Byte) : (s.setByte a v).joined = s.joined := rfl
@[simp] theorem setByte_servo (s : State) (a : Nat) (v : Byte) : (s.setByte a v).servo = s.servo := rfl
@[simp] theorem setByte_flights (s : State) (a : Nat) (v : Byte) : (s.setByte a v).flights = s.flights := rfl
@[simp] theorem setByte_notes (s : State) (a : Nat) (v : Byte) : (s.setByte a v).notes = s.notes := rfl
@[simp] theorem setByte_slots (s : State) (a : Nat) (v : Byte) : (s.setByte a v).slots = s.slots := rfl
@[simp] theorem setByte_jobWork (s : State) (a : Nat) (v : Byte) : (s.setByte a v).jobWork = s.jobWork := rfl
@[simp] theorem setByte_eth (s : State) (a : Nat) (v : Byte) : (s.setByte a v).eth = s.eth := rfl
@[simp] theorem setByte_setting (s : State) (a : Nat) (v : Byte) : (s.setByte a v).setting = s.setting := rfl
@[simp] theorem setByte_effDig (s : State) (a : Nat) (v : Byte) : (s.setByte a v).effDig = s.effDig := rfl
@[simp] theorem setByte_loadDig (s : State) (a : Nat) (v : Byte) : (s.setByte a v).loadDig = s.loadDig := rfl
@[simp] theorem setByte_store (s : State) (a : Nat) (v : Byte) : (s.setByte a v).store = s.store := rfl
@[simp] theorem setByte_pulls (s : State) (a : Nat) (v : Byte) : (s.setByte a v).pulls = s.pulls := rfl
@[simp] theorem setByte_clasp (s : State) (a : Nat) (v : Byte) : (s.setByte a v).clasp = s.clasp := rfl
@[simp] theorem setByte_rot (s : State) (a : Nat) (v : Byte) : (s.setByte a v).rot = s.rot := rfl
@[simp] theorem setByte_pwr (s : State) (a : Nat) (v : Byte) : (s.setByte a v).pwr = s.pwr := rfl
@[simp] theorem setByte_freeCtr (s : State) (a : Nat) (v : Byte) : (s.setByte a v).freeCtr = s.freeCtr := rfl
@[simp] theorem setByte_pending (s : State) (a : Nat) (v : Byte) : (s.setByte a v).pending = s.pending := rfl

/-! ### setL2 -/

@[simp] theorem setL2_aon (s : State) (k : Nat) (l : L2Line) : (s.setL2 k l).aon = s.aon := rfl
@[simp] theorem setL2_regs (s : State) (k : Nat) (l : L2Line) : (s.setL2 k l).regs = s.regs := rfl
@[simp] theorem setL2_holdHost (s : State) (k : Nat) (l : L2Line) : (s.setL2 k l).holdHost = s.holdHost := rfl
@[simp] theorem setL2_holdFw (s : State) (k : Nat) (l : L2Line) : (s.setL2 k l).holdFw = s.holdFw := rfl
@[simp] theorem setL2_errs (s : State) (k : Nat) (l : L2Line) : (s.setL2 k l).errs = s.errs := rfl
@[simp] theorem setL2_errSeq (s : State) (k : Nat) (l : L2Line) : (s.setL2 k l).errSeq = s.errSeq := rfl
@[simp] theorem setL2_vlog (s : State) (k : Nat) (l : L2Line) : (s.setL2 k l).vlog = s.vlog := rfl
@[simp] theorem setL2_vSeq (s : State) (k : Nat) (l : L2Line) : (s.setL2 k l).vSeq = s.vSeq := rfl
@[simp] theorem setL2_cores (s : State) (k : Nat) (l : L2Line) : (s.setL2 k l).cores = s.cores := rfl
@[simp] theorem setL2_mem (s : State) (k : Nat) (l : L2Line) : (s.setL2 k l).mem = s.mem := rfl
@[simp] theorem setL2_gpoison (s : State) (k : Nat) (l : L2Line) : (s.setL2 k l).gpoison = s.gpoison := rfl
@[simp] theorem setL2_hpoison (s : State) (k : Nat) (l : L2Line) : (s.setL2 k l).hpoison = s.hpoison := rfl
@[simp] theorem setL2_hbmGen (s : State) (k : Nat) (l : L2Line) : (s.setL2 k l).hbmGen = s.hbmGen := rfl
@[simp] theorem setL2_hbmSt (s : State) (k : Nat) (l : L2Line) : (s.setL2 k l).hbmSt = s.hbmSt := rfl
@[simp] theorem setL2_msc (s : State) (k : Nat) (l : L2Line) : (s.setL2 k l).msc = s.msc := rfl
@[simp] theorem setL2_mntPos (s : State) (k : Nat) (l : L2Line) : (s.setL2 k l).mntPos = s.mntPos := rfl
@[simp] theorem setL2_dir (s : State) (k : Nat) (l : L2Line) : (s.setL2 k l).dir = s.dir := rfl
@[simp] theorem setL2_txns (s : State) (k : Nat) (l : L2Line) : (s.setL2 k l).txns = s.txns := rfl
@[simp] theorem setL2_conflict (s : State) (k : Nat) (l : L2Line) : (s.setL2 k l).conflict = s.conflict := rfl
@[simp] theorem setL2_preqs (s : State) (k : Nat) (l : L2Line) : (s.setL2 k l).preqs = s.preqs := rfl
@[simp] theorem setL2_wbuf (s : State) (k : Nat) (l : L2Line) : (s.setL2 k l).wbuf = s.wbuf := rfl
@[simp] theorem setL2_inHold (s : State) (k : Nat) (l : L2Line) : (s.setL2 k l).inHold = s.inHold := rfl
@[simp] theorem setL2_delayed (s : State) (k : Nat) (l : L2Line) : (s.setL2 k l).delayed = s.delayed := rfl
@[simp] theorem setL2_rbuf (s : State) (k : Nat) (l : L2Line) : (s.setL2 k l).rbuf = s.rbuf := rfl
@[simp] theorem setL2_nextTxn (s : State) (k : Nat) (l : L2Line) : (s.setL2 k l).nextTxn = s.nextTxn := rfl
@[simp] theorem setL2_lateInv (s : State) (k : Nat) (l : L2Line) : (s.setL2 k l).lateInv = s.lateInv := rfl
@[simp] theorem setL2_biConf (s : State) (k : Nat) (l : L2Line) : (s.setL2 k l).biConf = s.biConf := rfl
@[simp] theorem setL2_hcReqs (s : State) (k : Nat) (l : L2Line) : (s.setL2 k l).hcReqs = s.hcReqs := rfl
@[simp] theorem setL2_flip (s : State) (k : Nat) (l : L2Line) : (s.setL2 k l).flip = s.flip := rfl
@[simp] theorem setL2_purges (s : State) (k : Nat) (l : L2Line) : (s.setL2 k l).purges = s.purges := rfl
@[simp] theorem setL2_ctxs (s : State) (k : Nat) (l : L2Line) : (s.setL2 k l).ctxs = s.ctxs := rfl
@[simp] theorem setL2_tlbs (s : State) (k : Nat) (l : L2Line) : (s.setL2 k l).tlbs = s.tlbs := rfl
@[simp] theorem setL2_stlb (s : State) (k : Nat) (l : L2Line) : (s.setL2 k l).stlb = s.stlb := rfl
@[simp] theorem setL2_walks (s : State) (k : Nat) (l : L2Line) : (s.setL2 k l).walks = s.walks := rfl
@[simp] theorem setL2_nextWalk (s : State) (k : Nat) (l : L2Line) : (s.setL2 k l).nextWalk = s.nextWalk := rfl
@[simp] theorem setL2_frecs (s : State) (k : Nat) (l : L2Line) : (s.setL2 k l).frecs = s.frecs := rfl
@[simp] theorem setL2_fseq (s : State) (k : Nat) (l : L2Line) : (s.setL2 k l).fseq = s.fseq := rfl
@[simp] theorem setL2_xops (s : State) (k : Nat) (l : L2Line) : (s.setL2 k l).xops = s.xops := rfl
@[simp] theorem setL2_wins (s : State) (k : Nat) (l : L2Line) : (s.setL2 k l).wins = s.wins := rfl
@[simp] theorem setL2_winOld (s : State) (k : Nat) (l : L2Line) : (s.setL2 k l).winOld = s.winOld := rfl
@[simp] theorem setL2_winOut (s : State) (k : Nat) (l : L2Line) : (s.setL2 k l).winOut = s.winOut := rfl
@[simp] theorem setL2_ep (s : State) (k : Nat) (l : L2Line) : (s.setL2 k l).ep = s.ep := rfl
@[simp] theorem setL2_inWait (s : State) (k : Nat) (l : L2Line) : (s.setL2 k l).inWait = s.inWait := rfl
@[simp] theorem setL2_sqs (s : State) (k : Nat) (l : L2Line) : (s.setL2 k l).sqs = s.sqs := rfl
@[simp] theorem setL2_cqs (s : State) (k : Nat) (l : L2Line) : (s.setL2 k l).cqs = s.cqs := rfl
@[simp] theorem setL2_certs (s : State) (k : Nat) (l : L2Line) : (s.setL2 k l).certs = s.certs := rfl
@[simp] theorem setL2_turns (s : State) (k : Nat) (l : L2Line) : (s.setL2 k l).turns = s.turns := rfl
@[simp] theorem setL2_chanXf (s : State) (k : Nat) (l : L2Line) : (s.setL2 k l).chanXf = s.chanXf := rfl
@[simp] theorem setL2_imgs (s : State) (k : Nat) (l : L2Line) : (s.setL2 k l).imgs = s.imgs := rfl
@[simp] theorem setL2_streams (s : State) (k : Nat) (l : L2Line) : (s.setL2 k l).streams = s.streams := rfl
@[simp] theorem setL2_pages (s : State) (k : Nat) (l : L2Line) : (s.setL2 k l).pages = s.pages := rfl
@[simp] theorem setL2_moves (s : State) (k : Nat) (l : L2Line) : (s.setL2 k l).moves = s.moves := rfl
@[simp] theorem setL2_brings (s : State) (k : Nat) (l : L2Line) : (s.setL2 k l).brings = s.brings := rfl
@[simp] theorem setL2_advised (s : State) (k : Nat) (l : L2Line) : (s.setL2 k l).advised = s.advised := rfl
@[simp] theorem setL2_fetches (s : State) (k : Nat) (l : L2Line) : (s.setL2 k l).fetches = s.fetches := rfl
@[simp] theorem setL2_cnps (s : State) (k : Nat) (l : L2Line) : (s.setL2 k l).cnps = s.cnps := rfl
@[simp] theorem setL2_ports (s : State) (k : Nat) (l : L2Line) : (s.setL2 k l).ports = s.ports := rfl
@[simp] theorem setL2_inbox (s : State) (k : Nat) (l : L2Line) : (s.setL2 k l).inbox = s.inbox := rfl
@[simp] theorem setL2_left (s : State) (k : Nat) (l : L2Line) : (s.setL2 k l).left = s.left := rfl
@[simp] theorem setL2_leaves (s : State) (k : Nat) (l : L2Line) : (s.setL2 k l).leaves = s.leaves := rfl
@[simp] theorem setL2_joined (s : State) (k : Nat) (l : L2Line) : (s.setL2 k l).joined = s.joined := rfl
@[simp] theorem setL2_servo (s : State) (k : Nat) (l : L2Line) : (s.setL2 k l).servo = s.servo := rfl
@[simp] theorem setL2_flights (s : State) (k : Nat) (l : L2Line) : (s.setL2 k l).flights = s.flights := rfl
@[simp] theorem setL2_notes (s : State) (k : Nat) (l : L2Line) : (s.setL2 k l).notes = s.notes := rfl
@[simp] theorem setL2_slots (s : State) (k : Nat) (l : L2Line) : (s.setL2 k l).slots = s.slots := rfl
@[simp] theorem setL2_jobWork (s : State) (k : Nat) (l : L2Line) : (s.setL2 k l).jobWork = s.jobWork := rfl
@[simp] theorem setL2_eth (s : State) (k : Nat) (l : L2Line) : (s.setL2 k l).eth = s.eth := rfl
@[simp] theorem setL2_setting (s : State) (k : Nat) (l : L2Line) : (s.setL2 k l).setting = s.setting := rfl
@[simp] theorem setL2_effDig (s : State) (k : Nat) (l : L2Line) : (s.setL2 k l).effDig = s.effDig := rfl
@[simp] theorem setL2_loadDig (s : State) (k : Nat) (l : L2Line) : (s.setL2 k l).loadDig = s.loadDig := rfl
@[simp] theorem setL2_store (s : State) (k : Nat) (l : L2Line) : (s.setL2 k l).store = s.store := rfl
@[simp] theorem setL2_pulls (s : State) (k : Nat) (l : L2Line) : (s.setL2 k l).pulls = s.pulls := rfl
@[simp] theorem setL2_clasp (s : State) (k : Nat) (l : L2Line) : (s.setL2 k l).clasp = s.clasp := rfl
@[simp] theorem setL2_rot (s : State) (k : Nat) (l : L2Line) : (s.setL2 k l).rot = s.rot := rfl
@[simp] theorem setL2_pwr (s : State) (k : Nat) (l : L2Line) : (s.setL2 k l).pwr = s.pwr := rfl
@[simp] theorem setL2_freeCtr (s : State) (k : Nat) (l : L2Line) : (s.setL2 k l).freeCtr = s.freeCtr := rfl
@[simp] theorem setL2_pending (s : State) (k : Nat) (l : L2Line) : (s.setL2 k l).pending = s.pending := rfl

/-! ### setMscLine -/

@[simp] theorem setMscLine_aon (s : State) (k : Nat) (l : MscLine) : (s.setMscLine k l).aon = s.aon := rfl
@[simp] theorem setMscLine_regs (s : State) (k : Nat) (l : MscLine) : (s.setMscLine k l).regs = s.regs := rfl
@[simp] theorem setMscLine_holdHost (s : State) (k : Nat) (l : MscLine) : (s.setMscLine k l).holdHost = s.holdHost := rfl
@[simp] theorem setMscLine_holdFw (s : State) (k : Nat) (l : MscLine) : (s.setMscLine k l).holdFw = s.holdFw := rfl
@[simp] theorem setMscLine_errs (s : State) (k : Nat) (l : MscLine) : (s.setMscLine k l).errs = s.errs := rfl
@[simp] theorem setMscLine_errSeq (s : State) (k : Nat) (l : MscLine) : (s.setMscLine k l).errSeq = s.errSeq := rfl
@[simp] theorem setMscLine_vlog (s : State) (k : Nat) (l : MscLine) : (s.setMscLine k l).vlog = s.vlog := rfl
@[simp] theorem setMscLine_vSeq (s : State) (k : Nat) (l : MscLine) : (s.setMscLine k l).vSeq = s.vSeq := rfl
@[simp] theorem setMscLine_cores (s : State) (k : Nat) (l : MscLine) : (s.setMscLine k l).cores = s.cores := rfl
@[simp] theorem setMscLine_mem (s : State) (k : Nat) (l : MscLine) : (s.setMscLine k l).mem = s.mem := rfl
@[simp] theorem setMscLine_gpoison (s : State) (k : Nat) (l : MscLine) : (s.setMscLine k l).gpoison = s.gpoison := rfl
@[simp] theorem setMscLine_hpoison (s : State) (k : Nat) (l : MscLine) : (s.setMscLine k l).hpoison = s.hpoison := rfl
@[simp] theorem setMscLine_hbmGen (s : State) (k : Nat) (l : MscLine) : (s.setMscLine k l).hbmGen = s.hbmGen := rfl
@[simp] theorem setMscLine_hbmSt (s : State) (k : Nat) (l : MscLine) : (s.setMscLine k l).hbmSt = s.hbmSt := rfl
@[simp] theorem setMscLine_l2 (s : State) (k : Nat) (l : MscLine) : (s.setMscLine k l).l2 = s.l2 := rfl
@[simp] theorem setMscLine_mntPos (s : State) (k : Nat) (l : MscLine) : (s.setMscLine k l).mntPos = s.mntPos := rfl
@[simp] theorem setMscLine_dir (s : State) (k : Nat) (l : MscLine) : (s.setMscLine k l).dir = s.dir := rfl
@[simp] theorem setMscLine_txns (s : State) (k : Nat) (l : MscLine) : (s.setMscLine k l).txns = s.txns := rfl
@[simp] theorem setMscLine_conflict (s : State) (k : Nat) (l : MscLine) : (s.setMscLine k l).conflict = s.conflict := rfl
@[simp] theorem setMscLine_preqs (s : State) (k : Nat) (l : MscLine) : (s.setMscLine k l).preqs = s.preqs := rfl
@[simp] theorem setMscLine_wbuf (s : State) (k : Nat) (l : MscLine) : (s.setMscLine k l).wbuf = s.wbuf := rfl
@[simp] theorem setMscLine_inHold (s : State) (k : Nat) (l : MscLine) : (s.setMscLine k l).inHold = s.inHold := rfl
@[simp] theorem setMscLine_delayed (s : State) (k : Nat) (l : MscLine) : (s.setMscLine k l).delayed = s.delayed := rfl
@[simp] theorem setMscLine_rbuf (s : State) (k : Nat) (l : MscLine) : (s.setMscLine k l).rbuf = s.rbuf := rfl
@[simp] theorem setMscLine_nextTxn (s : State) (k : Nat) (l : MscLine) : (s.setMscLine k l).nextTxn = s.nextTxn := rfl
@[simp] theorem setMscLine_lateInv (s : State) (k : Nat) (l : MscLine) : (s.setMscLine k l).lateInv = s.lateInv := rfl
@[simp] theorem setMscLine_biConf (s : State) (k : Nat) (l : MscLine) : (s.setMscLine k l).biConf = s.biConf := rfl
@[simp] theorem setMscLine_hcReqs (s : State) (k : Nat) (l : MscLine) : (s.setMscLine k l).hcReqs = s.hcReqs := rfl
@[simp] theorem setMscLine_flip (s : State) (k : Nat) (l : MscLine) : (s.setMscLine k l).flip = s.flip := rfl
@[simp] theorem setMscLine_purges (s : State) (k : Nat) (l : MscLine) : (s.setMscLine k l).purges = s.purges := rfl
@[simp] theorem setMscLine_ctxs (s : State) (k : Nat) (l : MscLine) : (s.setMscLine k l).ctxs = s.ctxs := rfl
@[simp] theorem setMscLine_tlbs (s : State) (k : Nat) (l : MscLine) : (s.setMscLine k l).tlbs = s.tlbs := rfl
@[simp] theorem setMscLine_stlb (s : State) (k : Nat) (l : MscLine) : (s.setMscLine k l).stlb = s.stlb := rfl
@[simp] theorem setMscLine_walks (s : State) (k : Nat) (l : MscLine) : (s.setMscLine k l).walks = s.walks := rfl
@[simp] theorem setMscLine_nextWalk (s : State) (k : Nat) (l : MscLine) : (s.setMscLine k l).nextWalk = s.nextWalk := rfl
@[simp] theorem setMscLine_frecs (s : State) (k : Nat) (l : MscLine) : (s.setMscLine k l).frecs = s.frecs := rfl
@[simp] theorem setMscLine_fseq (s : State) (k : Nat) (l : MscLine) : (s.setMscLine k l).fseq = s.fseq := rfl
@[simp] theorem setMscLine_xops (s : State) (k : Nat) (l : MscLine) : (s.setMscLine k l).xops = s.xops := rfl
@[simp] theorem setMscLine_wins (s : State) (k : Nat) (l : MscLine) : (s.setMscLine k l).wins = s.wins := rfl
@[simp] theorem setMscLine_winOld (s : State) (k : Nat) (l : MscLine) : (s.setMscLine k l).winOld = s.winOld := rfl
@[simp] theorem setMscLine_winOut (s : State) (k : Nat) (l : MscLine) : (s.setMscLine k l).winOut = s.winOut := rfl
@[simp] theorem setMscLine_ep (s : State) (k : Nat) (l : MscLine) : (s.setMscLine k l).ep = s.ep := rfl
@[simp] theorem setMscLine_inWait (s : State) (k : Nat) (l : MscLine) : (s.setMscLine k l).inWait = s.inWait := rfl
@[simp] theorem setMscLine_sqs (s : State) (k : Nat) (l : MscLine) : (s.setMscLine k l).sqs = s.sqs := rfl
@[simp] theorem setMscLine_cqs (s : State) (k : Nat) (l : MscLine) : (s.setMscLine k l).cqs = s.cqs := rfl
@[simp] theorem setMscLine_certs (s : State) (k : Nat) (l : MscLine) : (s.setMscLine k l).certs = s.certs := rfl
@[simp] theorem setMscLine_turns (s : State) (k : Nat) (l : MscLine) : (s.setMscLine k l).turns = s.turns := rfl
@[simp] theorem setMscLine_chanXf (s : State) (k : Nat) (l : MscLine) : (s.setMscLine k l).chanXf = s.chanXf := rfl
@[simp] theorem setMscLine_imgs (s : State) (k : Nat) (l : MscLine) : (s.setMscLine k l).imgs = s.imgs := rfl
@[simp] theorem setMscLine_streams (s : State) (k : Nat) (l : MscLine) : (s.setMscLine k l).streams = s.streams := rfl
@[simp] theorem setMscLine_pages (s : State) (k : Nat) (l : MscLine) : (s.setMscLine k l).pages = s.pages := rfl
@[simp] theorem setMscLine_moves (s : State) (k : Nat) (l : MscLine) : (s.setMscLine k l).moves = s.moves := rfl
@[simp] theorem setMscLine_brings (s : State) (k : Nat) (l : MscLine) : (s.setMscLine k l).brings = s.brings := rfl
@[simp] theorem setMscLine_advised (s : State) (k : Nat) (l : MscLine) : (s.setMscLine k l).advised = s.advised := rfl
@[simp] theorem setMscLine_fetches (s : State) (k : Nat) (l : MscLine) : (s.setMscLine k l).fetches = s.fetches := rfl
@[simp] theorem setMscLine_cnps (s : State) (k : Nat) (l : MscLine) : (s.setMscLine k l).cnps = s.cnps := rfl
@[simp] theorem setMscLine_ports (s : State) (k : Nat) (l : MscLine) : (s.setMscLine k l).ports = s.ports := rfl
@[simp] theorem setMscLine_inbox (s : State) (k : Nat) (l : MscLine) : (s.setMscLine k l).inbox = s.inbox := rfl
@[simp] theorem setMscLine_left (s : State) (k : Nat) (l : MscLine) : (s.setMscLine k l).left = s.left := rfl
@[simp] theorem setMscLine_leaves (s : State) (k : Nat) (l : MscLine) : (s.setMscLine k l).leaves = s.leaves := rfl
@[simp] theorem setMscLine_joined (s : State) (k : Nat) (l : MscLine) : (s.setMscLine k l).joined = s.joined := rfl
@[simp] theorem setMscLine_servo (s : State) (k : Nat) (l : MscLine) : (s.setMscLine k l).servo = s.servo := rfl
@[simp] theorem setMscLine_flights (s : State) (k : Nat) (l : MscLine) : (s.setMscLine k l).flights = s.flights := rfl
@[simp] theorem setMscLine_notes (s : State) (k : Nat) (l : MscLine) : (s.setMscLine k l).notes = s.notes := rfl
@[simp] theorem setMscLine_slots (s : State) (k : Nat) (l : MscLine) : (s.setMscLine k l).slots = s.slots := rfl
@[simp] theorem setMscLine_jobWork (s : State) (k : Nat) (l : MscLine) : (s.setMscLine k l).jobWork = s.jobWork := rfl
@[simp] theorem setMscLine_eth (s : State) (k : Nat) (l : MscLine) : (s.setMscLine k l).eth = s.eth := rfl
@[simp] theorem setMscLine_setting (s : State) (k : Nat) (l : MscLine) : (s.setMscLine k l).setting = s.setting := rfl
@[simp] theorem setMscLine_effDig (s : State) (k : Nat) (l : MscLine) : (s.setMscLine k l).effDig = s.effDig := rfl
@[simp] theorem setMscLine_loadDig (s : State) (k : Nat) (l : MscLine) : (s.setMscLine k l).loadDig = s.loadDig := rfl
@[simp] theorem setMscLine_store (s : State) (k : Nat) (l : MscLine) : (s.setMscLine k l).store = s.store := rfl
@[simp] theorem setMscLine_pulls (s : State) (k : Nat) (l : MscLine) : (s.setMscLine k l).pulls = s.pulls := rfl
@[simp] theorem setMscLine_clasp (s : State) (k : Nat) (l : MscLine) : (s.setMscLine k l).clasp = s.clasp := rfl
@[simp] theorem setMscLine_rot (s : State) (k : Nat) (l : MscLine) : (s.setMscLine k l).rot = s.rot := rfl
@[simp] theorem setMscLine_pwr (s : State) (k : Nat) (l : MscLine) : (s.setMscLine k l).pwr = s.pwr := rfl
@[simp] theorem setMscLine_freeCtr (s : State) (k : Nat) (l : MscLine) : (s.setMscLine k l).freeCtr = s.freeCtr := rfl
@[simp] theorem setMscLine_pending (s : State) (k : Nat) (l : MscLine) : (s.setMscLine k l).pending = s.pending := rfl

/-! ### setDir -/

@[simp] theorem setDir_aon (s : State) (k : Nat) (e : DirEnt) : (s.setDir k e).aon = s.aon := rfl
@[simp] theorem setDir_regs (s : State) (k : Nat) (e : DirEnt) : (s.setDir k e).regs = s.regs := rfl
@[simp] theorem setDir_holdHost (s : State) (k : Nat) (e : DirEnt) : (s.setDir k e).holdHost = s.holdHost := rfl
@[simp] theorem setDir_holdFw (s : State) (k : Nat) (e : DirEnt) : (s.setDir k e).holdFw = s.holdFw := rfl
@[simp] theorem setDir_errs (s : State) (k : Nat) (e : DirEnt) : (s.setDir k e).errs = s.errs := rfl
@[simp] theorem setDir_errSeq (s : State) (k : Nat) (e : DirEnt) : (s.setDir k e).errSeq = s.errSeq := rfl
@[simp] theorem setDir_vlog (s : State) (k : Nat) (e : DirEnt) : (s.setDir k e).vlog = s.vlog := rfl
@[simp] theorem setDir_vSeq (s : State) (k : Nat) (e : DirEnt) : (s.setDir k e).vSeq = s.vSeq := rfl
@[simp] theorem setDir_cores (s : State) (k : Nat) (e : DirEnt) : (s.setDir k e).cores = s.cores := rfl
@[simp] theorem setDir_mem (s : State) (k : Nat) (e : DirEnt) : (s.setDir k e).mem = s.mem := rfl
@[simp] theorem setDir_gpoison (s : State) (k : Nat) (e : DirEnt) : (s.setDir k e).gpoison = s.gpoison := rfl
@[simp] theorem setDir_hpoison (s : State) (k : Nat) (e : DirEnt) : (s.setDir k e).hpoison = s.hpoison := rfl
@[simp] theorem setDir_hbmGen (s : State) (k : Nat) (e : DirEnt) : (s.setDir k e).hbmGen = s.hbmGen := rfl
@[simp] theorem setDir_hbmSt (s : State) (k : Nat) (e : DirEnt) : (s.setDir k e).hbmSt = s.hbmSt := rfl
@[simp] theorem setDir_l2 (s : State) (k : Nat) (e : DirEnt) : (s.setDir k e).l2 = s.l2 := rfl
@[simp] theorem setDir_msc (s : State) (k : Nat) (e : DirEnt) : (s.setDir k e).msc = s.msc := rfl
@[simp] theorem setDir_mntPos (s : State) (k : Nat) (e : DirEnt) : (s.setDir k e).mntPos = s.mntPos := rfl
@[simp] theorem setDir_txns (s : State) (k : Nat) (e : DirEnt) : (s.setDir k e).txns = s.txns := rfl
@[simp] theorem setDir_conflict (s : State) (k : Nat) (e : DirEnt) : (s.setDir k e).conflict = s.conflict := rfl
@[simp] theorem setDir_preqs (s : State) (k : Nat) (e : DirEnt) : (s.setDir k e).preqs = s.preqs := rfl
@[simp] theorem setDir_wbuf (s : State) (k : Nat) (e : DirEnt) : (s.setDir k e).wbuf = s.wbuf := rfl
@[simp] theorem setDir_inHold (s : State) (k : Nat) (e : DirEnt) : (s.setDir k e).inHold = s.inHold := rfl
@[simp] theorem setDir_delayed (s : State) (k : Nat) (e : DirEnt) : (s.setDir k e).delayed = s.delayed := rfl
@[simp] theorem setDir_rbuf (s : State) (k : Nat) (e : DirEnt) : (s.setDir k e).rbuf = s.rbuf := rfl
@[simp] theorem setDir_nextTxn (s : State) (k : Nat) (e : DirEnt) : (s.setDir k e).nextTxn = s.nextTxn := rfl
@[simp] theorem setDir_lateInv (s : State) (k : Nat) (e : DirEnt) : (s.setDir k e).lateInv = s.lateInv := rfl
@[simp] theorem setDir_biConf (s : State) (k : Nat) (e : DirEnt) : (s.setDir k e).biConf = s.biConf := rfl
@[simp] theorem setDir_hcReqs (s : State) (k : Nat) (e : DirEnt) : (s.setDir k e).hcReqs = s.hcReqs := rfl
@[simp] theorem setDir_flip (s : State) (k : Nat) (e : DirEnt) : (s.setDir k e).flip = s.flip := rfl
@[simp] theorem setDir_purges (s : State) (k : Nat) (e : DirEnt) : (s.setDir k e).purges = s.purges := rfl
@[simp] theorem setDir_ctxs (s : State) (k : Nat) (e : DirEnt) : (s.setDir k e).ctxs = s.ctxs := rfl
@[simp] theorem setDir_tlbs (s : State) (k : Nat) (e : DirEnt) : (s.setDir k e).tlbs = s.tlbs := rfl
@[simp] theorem setDir_stlb (s : State) (k : Nat) (e : DirEnt) : (s.setDir k e).stlb = s.stlb := rfl
@[simp] theorem setDir_walks (s : State) (k : Nat) (e : DirEnt) : (s.setDir k e).walks = s.walks := rfl
@[simp] theorem setDir_nextWalk (s : State) (k : Nat) (e : DirEnt) : (s.setDir k e).nextWalk = s.nextWalk := rfl
@[simp] theorem setDir_frecs (s : State) (k : Nat) (e : DirEnt) : (s.setDir k e).frecs = s.frecs := rfl
@[simp] theorem setDir_fseq (s : State) (k : Nat) (e : DirEnt) : (s.setDir k e).fseq = s.fseq := rfl
@[simp] theorem setDir_xops (s : State) (k : Nat) (e : DirEnt) : (s.setDir k e).xops = s.xops := rfl
@[simp] theorem setDir_wins (s : State) (k : Nat) (e : DirEnt) : (s.setDir k e).wins = s.wins := rfl
@[simp] theorem setDir_winOld (s : State) (k : Nat) (e : DirEnt) : (s.setDir k e).winOld = s.winOld := rfl
@[simp] theorem setDir_winOut (s : State) (k : Nat) (e : DirEnt) : (s.setDir k e).winOut = s.winOut := rfl
@[simp] theorem setDir_ep (s : State) (k : Nat) (e : DirEnt) : (s.setDir k e).ep = s.ep := rfl
@[simp] theorem setDir_inWait (s : State) (k : Nat) (e : DirEnt) : (s.setDir k e).inWait = s.inWait := rfl
@[simp] theorem setDir_sqs (s : State) (k : Nat) (e : DirEnt) : (s.setDir k e).sqs = s.sqs := rfl
@[simp] theorem setDir_cqs (s : State) (k : Nat) (e : DirEnt) : (s.setDir k e).cqs = s.cqs := rfl
@[simp] theorem setDir_certs (s : State) (k : Nat) (e : DirEnt) : (s.setDir k e).certs = s.certs := rfl
@[simp] theorem setDir_turns (s : State) (k : Nat) (e : DirEnt) : (s.setDir k e).turns = s.turns := rfl
@[simp] theorem setDir_chanXf (s : State) (k : Nat) (e : DirEnt) : (s.setDir k e).chanXf = s.chanXf := rfl
@[simp] theorem setDir_imgs (s : State) (k : Nat) (e : DirEnt) : (s.setDir k e).imgs = s.imgs := rfl
@[simp] theorem setDir_streams (s : State) (k : Nat) (e : DirEnt) : (s.setDir k e).streams = s.streams := rfl
@[simp] theorem setDir_pages (s : State) (k : Nat) (e : DirEnt) : (s.setDir k e).pages = s.pages := rfl
@[simp] theorem setDir_moves (s : State) (k : Nat) (e : DirEnt) : (s.setDir k e).moves = s.moves := rfl
@[simp] theorem setDir_brings (s : State) (k : Nat) (e : DirEnt) : (s.setDir k e).brings = s.brings := rfl
@[simp] theorem setDir_advised (s : State) (k : Nat) (e : DirEnt) : (s.setDir k e).advised = s.advised := rfl
@[simp] theorem setDir_fetches (s : State) (k : Nat) (e : DirEnt) : (s.setDir k e).fetches = s.fetches := rfl
@[simp] theorem setDir_cnps (s : State) (k : Nat) (e : DirEnt) : (s.setDir k e).cnps = s.cnps := rfl
@[simp] theorem setDir_ports (s : State) (k : Nat) (e : DirEnt) : (s.setDir k e).ports = s.ports := rfl
@[simp] theorem setDir_inbox (s : State) (k : Nat) (e : DirEnt) : (s.setDir k e).inbox = s.inbox := rfl
@[simp] theorem setDir_left (s : State) (k : Nat) (e : DirEnt) : (s.setDir k e).left = s.left := rfl
@[simp] theorem setDir_leaves (s : State) (k : Nat) (e : DirEnt) : (s.setDir k e).leaves = s.leaves := rfl
@[simp] theorem setDir_joined (s : State) (k : Nat) (e : DirEnt) : (s.setDir k e).joined = s.joined := rfl
@[simp] theorem setDir_servo (s : State) (k : Nat) (e : DirEnt) : (s.setDir k e).servo = s.servo := rfl
@[simp] theorem setDir_flights (s : State) (k : Nat) (e : DirEnt) : (s.setDir k e).flights = s.flights := rfl
@[simp] theorem setDir_notes (s : State) (k : Nat) (e : DirEnt) : (s.setDir k e).notes = s.notes := rfl
@[simp] theorem setDir_slots (s : State) (k : Nat) (e : DirEnt) : (s.setDir k e).slots = s.slots := rfl
@[simp] theorem setDir_jobWork (s : State) (k : Nat) (e : DirEnt) : (s.setDir k e).jobWork = s.jobWork := rfl
@[simp] theorem setDir_eth (s : State) (k : Nat) (e : DirEnt) : (s.setDir k e).eth = s.eth := rfl
@[simp] theorem setDir_setting (s : State) (k : Nat) (e : DirEnt) : (s.setDir k e).setting = s.setting := rfl
@[simp] theorem setDir_effDig (s : State) (k : Nat) (e : DirEnt) : (s.setDir k e).effDig = s.effDig := rfl
@[simp] theorem setDir_loadDig (s : State) (k : Nat) (e : DirEnt) : (s.setDir k e).loadDig = s.loadDig := rfl
@[simp] theorem setDir_store (s : State) (k : Nat) (e : DirEnt) : (s.setDir k e).store = s.store := rfl
@[simp] theorem setDir_pulls (s : State) (k : Nat) (e : DirEnt) : (s.setDir k e).pulls = s.pulls := rfl
@[simp] theorem setDir_clasp (s : State) (k : Nat) (e : DirEnt) : (s.setDir k e).clasp = s.clasp := rfl
@[simp] theorem setDir_rot (s : State) (k : Nat) (e : DirEnt) : (s.setDir k e).rot = s.rot := rfl
@[simp] theorem setDir_pwr (s : State) (k : Nat) (e : DirEnt) : (s.setDir k e).pwr = s.pwr := rfl
@[simp] theorem setDir_freeCtr (s : State) (k : Nat) (e : DirEnt) : (s.setDir k e).freeCtr = s.freeCtr := rfl
@[simp] theorem setDir_pending (s : State) (k : Nat) (e : DirEnt) : (s.setDir k e).pending = s.pending := rfl

/-! ### setPort -/

@[simp] theorem setPort_aon (s : State) (p : Nat) (v : Port) : (s.setPort p v).aon = s.aon := rfl
@[simp] theorem setPort_regs (s : State) (p : Nat) (v : Port) : (s.setPort p v).regs = s.regs := rfl
@[simp] theorem setPort_holdHost (s : State) (p : Nat) (v : Port) : (s.setPort p v).holdHost = s.holdHost := rfl
@[simp] theorem setPort_holdFw (s : State) (p : Nat) (v : Port) : (s.setPort p v).holdFw = s.holdFw := rfl
@[simp] theorem setPort_errs (s : State) (p : Nat) (v : Port) : (s.setPort p v).errs = s.errs := rfl
@[simp] theorem setPort_errSeq (s : State) (p : Nat) (v : Port) : (s.setPort p v).errSeq = s.errSeq := rfl
@[simp] theorem setPort_vlog (s : State) (p : Nat) (v : Port) : (s.setPort p v).vlog = s.vlog := rfl
@[simp] theorem setPort_vSeq (s : State) (p : Nat) (v : Port) : (s.setPort p v).vSeq = s.vSeq := rfl
@[simp] theorem setPort_cores (s : State) (p : Nat) (v : Port) : (s.setPort p v).cores = s.cores := rfl
@[simp] theorem setPort_mem (s : State) (p : Nat) (v : Port) : (s.setPort p v).mem = s.mem := rfl
@[simp] theorem setPort_gpoison (s : State) (p : Nat) (v : Port) : (s.setPort p v).gpoison = s.gpoison := rfl
@[simp] theorem setPort_hpoison (s : State) (p : Nat) (v : Port) : (s.setPort p v).hpoison = s.hpoison := rfl
@[simp] theorem setPort_hbmGen (s : State) (p : Nat) (v : Port) : (s.setPort p v).hbmGen = s.hbmGen := rfl
@[simp] theorem setPort_hbmSt (s : State) (p : Nat) (v : Port) : (s.setPort p v).hbmSt = s.hbmSt := rfl
@[simp] theorem setPort_l2 (s : State) (p : Nat) (v : Port) : (s.setPort p v).l2 = s.l2 := rfl
@[simp] theorem setPort_msc (s : State) (p : Nat) (v : Port) : (s.setPort p v).msc = s.msc := rfl
@[simp] theorem setPort_mntPos (s : State) (p : Nat) (v : Port) : (s.setPort p v).mntPos = s.mntPos := rfl
@[simp] theorem setPort_dir (s : State) (p : Nat) (v : Port) : (s.setPort p v).dir = s.dir := rfl
@[simp] theorem setPort_txns (s : State) (p : Nat) (v : Port) : (s.setPort p v).txns = s.txns := rfl
@[simp] theorem setPort_conflict (s : State) (p : Nat) (v : Port) : (s.setPort p v).conflict = s.conflict := rfl
@[simp] theorem setPort_preqs (s : State) (p : Nat) (v : Port) : (s.setPort p v).preqs = s.preqs := rfl
@[simp] theorem setPort_wbuf (s : State) (p : Nat) (v : Port) : (s.setPort p v).wbuf = s.wbuf := rfl
@[simp] theorem setPort_inHold (s : State) (p : Nat) (v : Port) : (s.setPort p v).inHold = s.inHold := rfl
@[simp] theorem setPort_delayed (s : State) (p : Nat) (v : Port) : (s.setPort p v).delayed = s.delayed := rfl
@[simp] theorem setPort_rbuf (s : State) (p : Nat) (v : Port) : (s.setPort p v).rbuf = s.rbuf := rfl
@[simp] theorem setPort_nextTxn (s : State) (p : Nat) (v : Port) : (s.setPort p v).nextTxn = s.nextTxn := rfl
@[simp] theorem setPort_lateInv (s : State) (p : Nat) (v : Port) : (s.setPort p v).lateInv = s.lateInv := rfl
@[simp] theorem setPort_biConf (s : State) (p : Nat) (v : Port) : (s.setPort p v).biConf = s.biConf := rfl
@[simp] theorem setPort_hcReqs (s : State) (p : Nat) (v : Port) : (s.setPort p v).hcReqs = s.hcReqs := rfl
@[simp] theorem setPort_flip (s : State) (p : Nat) (v : Port) : (s.setPort p v).flip = s.flip := rfl
@[simp] theorem setPort_purges (s : State) (p : Nat) (v : Port) : (s.setPort p v).purges = s.purges := rfl
@[simp] theorem setPort_ctxs (s : State) (p : Nat) (v : Port) : (s.setPort p v).ctxs = s.ctxs := rfl
@[simp] theorem setPort_tlbs (s : State) (p : Nat) (v : Port) : (s.setPort p v).tlbs = s.tlbs := rfl
@[simp] theorem setPort_stlb (s : State) (p : Nat) (v : Port) : (s.setPort p v).stlb = s.stlb := rfl
@[simp] theorem setPort_walks (s : State) (p : Nat) (v : Port) : (s.setPort p v).walks = s.walks := rfl
@[simp] theorem setPort_nextWalk (s : State) (p : Nat) (v : Port) : (s.setPort p v).nextWalk = s.nextWalk := rfl
@[simp] theorem setPort_frecs (s : State) (p : Nat) (v : Port) : (s.setPort p v).frecs = s.frecs := rfl
@[simp] theorem setPort_fseq (s : State) (p : Nat) (v : Port) : (s.setPort p v).fseq = s.fseq := rfl
@[simp] theorem setPort_xops (s : State) (p : Nat) (v : Port) : (s.setPort p v).xops = s.xops := rfl
@[simp] theorem setPort_wins (s : State) (p : Nat) (v : Port) : (s.setPort p v).wins = s.wins := rfl
@[simp] theorem setPort_winOld (s : State) (p : Nat) (v : Port) : (s.setPort p v).winOld = s.winOld := rfl
@[simp] theorem setPort_winOut (s : State) (p : Nat) (v : Port) : (s.setPort p v).winOut = s.winOut := rfl
@[simp] theorem setPort_ep (s : State) (p : Nat) (v : Port) : (s.setPort p v).ep = s.ep := rfl
@[simp] theorem setPort_inWait (s : State) (p : Nat) (v : Port) : (s.setPort p v).inWait = s.inWait := rfl
@[simp] theorem setPort_sqs (s : State) (p : Nat) (v : Port) : (s.setPort p v).sqs = s.sqs := rfl
@[simp] theorem setPort_cqs (s : State) (p : Nat) (v : Port) : (s.setPort p v).cqs = s.cqs := rfl
@[simp] theorem setPort_certs (s : State) (p : Nat) (v : Port) : (s.setPort p v).certs = s.certs := rfl
@[simp] theorem setPort_turns (s : State) (p : Nat) (v : Port) : (s.setPort p v).turns = s.turns := rfl
@[simp] theorem setPort_chanXf (s : State) (p : Nat) (v : Port) : (s.setPort p v).chanXf = s.chanXf := rfl
@[simp] theorem setPort_imgs (s : State) (p : Nat) (v : Port) : (s.setPort p v).imgs = s.imgs := rfl
@[simp] theorem setPort_streams (s : State) (p : Nat) (v : Port) : (s.setPort p v).streams = s.streams := rfl
@[simp] theorem setPort_pages (s : State) (p : Nat) (v : Port) : (s.setPort p v).pages = s.pages := rfl
@[simp] theorem setPort_moves (s : State) (p : Nat) (v : Port) : (s.setPort p v).moves = s.moves := rfl
@[simp] theorem setPort_brings (s : State) (p : Nat) (v : Port) : (s.setPort p v).brings = s.brings := rfl
@[simp] theorem setPort_advised (s : State) (p : Nat) (v : Port) : (s.setPort p v).advised = s.advised := rfl
@[simp] theorem setPort_fetches (s : State) (p : Nat) (v : Port) : (s.setPort p v).fetches = s.fetches := rfl
@[simp] theorem setPort_cnps (s : State) (p : Nat) (v : Port) : (s.setPort p v).cnps = s.cnps := rfl
@[simp] theorem setPort_inbox (s : State) (p : Nat) (v : Port) : (s.setPort p v).inbox = s.inbox := rfl
@[simp] theorem setPort_left (s : State) (p : Nat) (v : Port) : (s.setPort p v).left = s.left := rfl
@[simp] theorem setPort_leaves (s : State) (p : Nat) (v : Port) : (s.setPort p v).leaves = s.leaves := rfl
@[simp] theorem setPort_joined (s : State) (p : Nat) (v : Port) : (s.setPort p v).joined = s.joined := rfl
@[simp] theorem setPort_servo (s : State) (p : Nat) (v : Port) : (s.setPort p v).servo = s.servo := rfl
@[simp] theorem setPort_flights (s : State) (p : Nat) (v : Port) : (s.setPort p v).flights = s.flights := rfl
@[simp] theorem setPort_notes (s : State) (p : Nat) (v : Port) : (s.setPort p v).notes = s.notes := rfl
@[simp] theorem setPort_slots (s : State) (p : Nat) (v : Port) : (s.setPort p v).slots = s.slots := rfl
@[simp] theorem setPort_jobWork (s : State) (p : Nat) (v : Port) : (s.setPort p v).jobWork = s.jobWork := rfl
@[simp] theorem setPort_eth (s : State) (p : Nat) (v : Port) : (s.setPort p v).eth = s.eth := rfl
@[simp] theorem setPort_setting (s : State) (p : Nat) (v : Port) : (s.setPort p v).setting = s.setting := rfl
@[simp] theorem setPort_effDig (s : State) (p : Nat) (v : Port) : (s.setPort p v).effDig = s.effDig := rfl
@[simp] theorem setPort_loadDig (s : State) (p : Nat) (v : Port) : (s.setPort p v).loadDig = s.loadDig := rfl
@[simp] theorem setPort_store (s : State) (p : Nat) (v : Port) : (s.setPort p v).store = s.store := rfl
@[simp] theorem setPort_pulls (s : State) (p : Nat) (v : Port) : (s.setPort p v).pulls = s.pulls := rfl
@[simp] theorem setPort_clasp (s : State) (p : Nat) (v : Port) : (s.setPort p v).clasp = s.clasp := rfl
@[simp] theorem setPort_rot (s : State) (p : Nat) (v : Port) : (s.setPort p v).rot = s.rot := rfl
@[simp] theorem setPort_pwr (s : State) (p : Nat) (v : Port) : (s.setPort p v).pwr = s.pwr := rfl
@[simp] theorem setPort_freeCtr (s : State) (p : Nat) (v : Port) : (s.setPort p v).freeCtr = s.freeCtr := rfl
@[simp] theorem setPort_pending (s : State) (p : Nat) (v : Port) : (s.setPort p v).pending = s.pending := rfl

/-! ### modPort -/

@[simp] theorem modPort_aon (s : State) (p : Nat) (f : Port → Port) : (s.modPort p f).aon = s.aon := rfl
@[simp] theorem modPort_regs (s : State) (p : Nat) (f : Port → Port) : (s.modPort p f).regs = s.regs := rfl
@[simp] theorem modPort_holdHost (s : State) (p : Nat) (f : Port → Port) : (s.modPort p f).holdHost = s.holdHost := rfl
@[simp] theorem modPort_holdFw (s : State) (p : Nat) (f : Port → Port) : (s.modPort p f).holdFw = s.holdFw := rfl
@[simp] theorem modPort_errs (s : State) (p : Nat) (f : Port → Port) : (s.modPort p f).errs = s.errs := rfl
@[simp] theorem modPort_errSeq (s : State) (p : Nat) (f : Port → Port) : (s.modPort p f).errSeq = s.errSeq := rfl
@[simp] theorem modPort_vlog (s : State) (p : Nat) (f : Port → Port) : (s.modPort p f).vlog = s.vlog := rfl
@[simp] theorem modPort_vSeq (s : State) (p : Nat) (f : Port → Port) : (s.modPort p f).vSeq = s.vSeq := rfl
@[simp] theorem modPort_cores (s : State) (p : Nat) (f : Port → Port) : (s.modPort p f).cores = s.cores := rfl
@[simp] theorem modPort_mem (s : State) (p : Nat) (f : Port → Port) : (s.modPort p f).mem = s.mem := rfl
@[simp] theorem modPort_gpoison (s : State) (p : Nat) (f : Port → Port) : (s.modPort p f).gpoison = s.gpoison := rfl
@[simp] theorem modPort_hpoison (s : State) (p : Nat) (f : Port → Port) : (s.modPort p f).hpoison = s.hpoison := rfl
@[simp] theorem modPort_hbmGen (s : State) (p : Nat) (f : Port → Port) : (s.modPort p f).hbmGen = s.hbmGen := rfl
@[simp] theorem modPort_hbmSt (s : State) (p : Nat) (f : Port → Port) : (s.modPort p f).hbmSt = s.hbmSt := rfl
@[simp] theorem modPort_l2 (s : State) (p : Nat) (f : Port → Port) : (s.modPort p f).l2 = s.l2 := rfl
@[simp] theorem modPort_msc (s : State) (p : Nat) (f : Port → Port) : (s.modPort p f).msc = s.msc := rfl
@[simp] theorem modPort_mntPos (s : State) (p : Nat) (f : Port → Port) : (s.modPort p f).mntPos = s.mntPos := rfl
@[simp] theorem modPort_dir (s : State) (p : Nat) (f : Port → Port) : (s.modPort p f).dir = s.dir := rfl
@[simp] theorem modPort_txns (s : State) (p : Nat) (f : Port → Port) : (s.modPort p f).txns = s.txns := rfl
@[simp] theorem modPort_conflict (s : State) (p : Nat) (f : Port → Port) : (s.modPort p f).conflict = s.conflict := rfl
@[simp] theorem modPort_preqs (s : State) (p : Nat) (f : Port → Port) : (s.modPort p f).preqs = s.preqs := rfl
@[simp] theorem modPort_wbuf (s : State) (p : Nat) (f : Port → Port) : (s.modPort p f).wbuf = s.wbuf := rfl
@[simp] theorem modPort_inHold (s : State) (p : Nat) (f : Port → Port) : (s.modPort p f).inHold = s.inHold := rfl
@[simp] theorem modPort_delayed (s : State) (p : Nat) (f : Port → Port) : (s.modPort p f).delayed = s.delayed := rfl
@[simp] theorem modPort_rbuf (s : State) (p : Nat) (f : Port → Port) : (s.modPort p f).rbuf = s.rbuf := rfl
@[simp] theorem modPort_nextTxn (s : State) (p : Nat) (f : Port → Port) : (s.modPort p f).nextTxn = s.nextTxn := rfl
@[simp] theorem modPort_lateInv (s : State) (p : Nat) (f : Port → Port) : (s.modPort p f).lateInv = s.lateInv := rfl
@[simp] theorem modPort_biConf (s : State) (p : Nat) (f : Port → Port) : (s.modPort p f).biConf = s.biConf := rfl
@[simp] theorem modPort_hcReqs (s : State) (p : Nat) (f : Port → Port) : (s.modPort p f).hcReqs = s.hcReqs := rfl
@[simp] theorem modPort_flip (s : State) (p : Nat) (f : Port → Port) : (s.modPort p f).flip = s.flip := rfl
@[simp] theorem modPort_purges (s : State) (p : Nat) (f : Port → Port) : (s.modPort p f).purges = s.purges := rfl
@[simp] theorem modPort_ctxs (s : State) (p : Nat) (f : Port → Port) : (s.modPort p f).ctxs = s.ctxs := rfl
@[simp] theorem modPort_tlbs (s : State) (p : Nat) (f : Port → Port) : (s.modPort p f).tlbs = s.tlbs := rfl
@[simp] theorem modPort_stlb (s : State) (p : Nat) (f : Port → Port) : (s.modPort p f).stlb = s.stlb := rfl
@[simp] theorem modPort_walks (s : State) (p : Nat) (f : Port → Port) : (s.modPort p f).walks = s.walks := rfl
@[simp] theorem modPort_nextWalk (s : State) (p : Nat) (f : Port → Port) : (s.modPort p f).nextWalk = s.nextWalk := rfl
@[simp] theorem modPort_frecs (s : State) (p : Nat) (f : Port → Port) : (s.modPort p f).frecs = s.frecs := rfl
@[simp] theorem modPort_fseq (s : State) (p : Nat) (f : Port → Port) : (s.modPort p f).fseq = s.fseq := rfl
@[simp] theorem modPort_xops (s : State) (p : Nat) (f : Port → Port) : (s.modPort p f).xops = s.xops := rfl
@[simp] theorem modPort_wins (s : State) (p : Nat) (f : Port → Port) : (s.modPort p f).wins = s.wins := rfl
@[simp] theorem modPort_winOld (s : State) (p : Nat) (f : Port → Port) : (s.modPort p f).winOld = s.winOld := rfl
@[simp] theorem modPort_winOut (s : State) (p : Nat) (f : Port → Port) : (s.modPort p f).winOut = s.winOut := rfl
@[simp] theorem modPort_ep (s : State) (p : Nat) (f : Port → Port) : (s.modPort p f).ep = s.ep := rfl
@[simp] theorem modPort_inWait (s : State) (p : Nat) (f : Port → Port) : (s.modPort p f).inWait = s.inWait := rfl
@[simp] theorem modPort_sqs (s : State) (p : Nat) (f : Port → Port) : (s.modPort p f).sqs = s.sqs := rfl
@[simp] theorem modPort_cqs (s : State) (p : Nat) (f : Port → Port) : (s.modPort p f).cqs = s.cqs := rfl
@[simp] theorem modPort_certs (s : State) (p : Nat) (f : Port → Port) : (s.modPort p f).certs = s.certs := rfl
@[simp] theorem modPort_turns (s : State) (p : Nat) (f : Port → Port) : (s.modPort p f).turns = s.turns := rfl
@[simp] theorem modPort_chanXf (s : State) (p : Nat) (f : Port → Port) : (s.modPort p f).chanXf = s.chanXf := rfl
@[simp] theorem modPort_imgs (s : State) (p : Nat) (f : Port → Port) : (s.modPort p f).imgs = s.imgs := rfl
@[simp] theorem modPort_streams (s : State) (p : Nat) (f : Port → Port) : (s.modPort p f).streams = s.streams := rfl
@[simp] theorem modPort_pages (s : State) (p : Nat) (f : Port → Port) : (s.modPort p f).pages = s.pages := rfl
@[simp] theorem modPort_moves (s : State) (p : Nat) (f : Port → Port) : (s.modPort p f).moves = s.moves := rfl
@[simp] theorem modPort_brings (s : State) (p : Nat) (f : Port → Port) : (s.modPort p f).brings = s.brings := rfl
@[simp] theorem modPort_advised (s : State) (p : Nat) (f : Port → Port) : (s.modPort p f).advised = s.advised := rfl
@[simp] theorem modPort_fetches (s : State) (p : Nat) (f : Port → Port) : (s.modPort p f).fetches = s.fetches := rfl
@[simp] theorem modPort_cnps (s : State) (p : Nat) (f : Port → Port) : (s.modPort p f).cnps = s.cnps := rfl
@[simp] theorem modPort_inbox (s : State) (p : Nat) (f : Port → Port) : (s.modPort p f).inbox = s.inbox := rfl
@[simp] theorem modPort_left (s : State) (p : Nat) (f : Port → Port) : (s.modPort p f).left = s.left := rfl
@[simp] theorem modPort_leaves (s : State) (p : Nat) (f : Port → Port) : (s.modPort p f).leaves = s.leaves := rfl
@[simp] theorem modPort_joined (s : State) (p : Nat) (f : Port → Port) : (s.modPort p f).joined = s.joined := rfl
@[simp] theorem modPort_servo (s : State) (p : Nat) (f : Port → Port) : (s.modPort p f).servo = s.servo := rfl
@[simp] theorem modPort_flights (s : State) (p : Nat) (f : Port → Port) : (s.modPort p f).flights = s.flights := rfl
@[simp] theorem modPort_notes (s : State) (p : Nat) (f : Port → Port) : (s.modPort p f).notes = s.notes := rfl
@[simp] theorem modPort_slots (s : State) (p : Nat) (f : Port → Port) : (s.modPort p f).slots = s.slots := rfl
@[simp] theorem modPort_jobWork (s : State) (p : Nat) (f : Port → Port) : (s.modPort p f).jobWork = s.jobWork := rfl
@[simp] theorem modPort_eth (s : State) (p : Nat) (f : Port → Port) : (s.modPort p f).eth = s.eth := rfl
@[simp] theorem modPort_setting (s : State) (p : Nat) (f : Port → Port) : (s.modPort p f).setting = s.setting := rfl
@[simp] theorem modPort_effDig (s : State) (p : Nat) (f : Port → Port) : (s.modPort p f).effDig = s.effDig := rfl
@[simp] theorem modPort_loadDig (s : State) (p : Nat) (f : Port → Port) : (s.modPort p f).loadDig = s.loadDig := rfl
@[simp] theorem modPort_store (s : State) (p : Nat) (f : Port → Port) : (s.modPort p f).store = s.store := rfl
@[simp] theorem modPort_pulls (s : State) (p : Nat) (f : Port → Port) : (s.modPort p f).pulls = s.pulls := rfl
@[simp] theorem modPort_clasp (s : State) (p : Nat) (f : Port → Port) : (s.modPort p f).clasp = s.clasp := rfl
@[simp] theorem modPort_rot (s : State) (p : Nat) (f : Port → Port) : (s.modPort p f).rot = s.rot := rfl
@[simp] theorem modPort_pwr (s : State) (p : Nat) (f : Port → Port) : (s.modPort p f).pwr = s.pwr := rfl
@[simp] theorem modPort_freeCtr (s : State) (p : Nat) (f : Port → Port) : (s.modPort p f).freeCtr = s.freeCtr := rfl
@[simp] theorem modPort_pending (s : State) (p : Nat) (f : Port → Port) : (s.modPort p f).pending = s.pending := rfl

/-! ### hostSend -/

@[simp] theorem hostSend_aon (s : State) (m : HostMsg) : (s.hostSend m).aon = s.aon := rfl
@[simp] theorem hostSend_regs (s : State) (m : HostMsg) : (s.hostSend m).regs = s.regs := rfl
@[simp] theorem hostSend_holdHost (s : State) (m : HostMsg) : (s.hostSend m).holdHost = s.holdHost := rfl
@[simp] theorem hostSend_holdFw (s : State) (m : HostMsg) : (s.hostSend m).holdFw = s.holdFw := rfl
@[simp] theorem hostSend_errs (s : State) (m : HostMsg) : (s.hostSend m).errs = s.errs := rfl
@[simp] theorem hostSend_errSeq (s : State) (m : HostMsg) : (s.hostSend m).errSeq = s.errSeq := rfl
@[simp] theorem hostSend_vlog (s : State) (m : HostMsg) : (s.hostSend m).vlog = s.vlog := rfl
@[simp] theorem hostSend_vSeq (s : State) (m : HostMsg) : (s.hostSend m).vSeq = s.vSeq := rfl
@[simp] theorem hostSend_cores (s : State) (m : HostMsg) : (s.hostSend m).cores = s.cores := rfl
@[simp] theorem hostSend_mem (s : State) (m : HostMsg) : (s.hostSend m).mem = s.mem := rfl
@[simp] theorem hostSend_gpoison (s : State) (m : HostMsg) : (s.hostSend m).gpoison = s.gpoison := rfl
@[simp] theorem hostSend_hpoison (s : State) (m : HostMsg) : (s.hostSend m).hpoison = s.hpoison := rfl
@[simp] theorem hostSend_hbmGen (s : State) (m : HostMsg) : (s.hostSend m).hbmGen = s.hbmGen := rfl
@[simp] theorem hostSend_hbmSt (s : State) (m : HostMsg) : (s.hostSend m).hbmSt = s.hbmSt := rfl
@[simp] theorem hostSend_l2 (s : State) (m : HostMsg) : (s.hostSend m).l2 = s.l2 := rfl
@[simp] theorem hostSend_msc (s : State) (m : HostMsg) : (s.hostSend m).msc = s.msc := rfl
@[simp] theorem hostSend_mntPos (s : State) (m : HostMsg) : (s.hostSend m).mntPos = s.mntPos := rfl
@[simp] theorem hostSend_dir (s : State) (m : HostMsg) : (s.hostSend m).dir = s.dir := rfl
@[simp] theorem hostSend_txns (s : State) (m : HostMsg) : (s.hostSend m).txns = s.txns := rfl
@[simp] theorem hostSend_conflict (s : State) (m : HostMsg) : (s.hostSend m).conflict = s.conflict := rfl
@[simp] theorem hostSend_preqs (s : State) (m : HostMsg) : (s.hostSend m).preqs = s.preqs := rfl
@[simp] theorem hostSend_wbuf (s : State) (m : HostMsg) : (s.hostSend m).wbuf = s.wbuf := rfl
@[simp] theorem hostSend_inHold (s : State) (m : HostMsg) : (s.hostSend m).inHold = s.inHold := rfl
@[simp] theorem hostSend_delayed (s : State) (m : HostMsg) : (s.hostSend m).delayed = s.delayed := rfl
@[simp] theorem hostSend_rbuf (s : State) (m : HostMsg) : (s.hostSend m).rbuf = s.rbuf := rfl
@[simp] theorem hostSend_nextTxn (s : State) (m : HostMsg) : (s.hostSend m).nextTxn = s.nextTxn := rfl
@[simp] theorem hostSend_lateInv (s : State) (m : HostMsg) : (s.hostSend m).lateInv = s.lateInv := rfl
@[simp] theorem hostSend_biConf (s : State) (m : HostMsg) : (s.hostSend m).biConf = s.biConf := rfl
@[simp] theorem hostSend_hcReqs (s : State) (m : HostMsg) : (s.hostSend m).hcReqs = s.hcReqs := rfl
@[simp] theorem hostSend_flip (s : State) (m : HostMsg) : (s.hostSend m).flip = s.flip := rfl
@[simp] theorem hostSend_purges (s : State) (m : HostMsg) : (s.hostSend m).purges = s.purges := rfl
@[simp] theorem hostSend_ctxs (s : State) (m : HostMsg) : (s.hostSend m).ctxs = s.ctxs := rfl
@[simp] theorem hostSend_tlbs (s : State) (m : HostMsg) : (s.hostSend m).tlbs = s.tlbs := rfl
@[simp] theorem hostSend_stlb (s : State) (m : HostMsg) : (s.hostSend m).stlb = s.stlb := rfl
@[simp] theorem hostSend_walks (s : State) (m : HostMsg) : (s.hostSend m).walks = s.walks := rfl
@[simp] theorem hostSend_nextWalk (s : State) (m : HostMsg) : (s.hostSend m).nextWalk = s.nextWalk := rfl
@[simp] theorem hostSend_frecs (s : State) (m : HostMsg) : (s.hostSend m).frecs = s.frecs := rfl
@[simp] theorem hostSend_fseq (s : State) (m : HostMsg) : (s.hostSend m).fseq = s.fseq := rfl
@[simp] theorem hostSend_xops (s : State) (m : HostMsg) : (s.hostSend m).xops = s.xops := rfl
@[simp] theorem hostSend_wins (s : State) (m : HostMsg) : (s.hostSend m).wins = s.wins := rfl
@[simp] theorem hostSend_winOld (s : State) (m : HostMsg) : (s.hostSend m).winOld = s.winOld := rfl
@[simp] theorem hostSend_winOut (s : State) (m : HostMsg) : (s.hostSend m).winOut = s.winOut := rfl
@[simp] theorem hostSend_inWait (s : State) (m : HostMsg) : (s.hostSend m).inWait = s.inWait := rfl
@[simp] theorem hostSend_sqs (s : State) (m : HostMsg) : (s.hostSend m).sqs = s.sqs := rfl
@[simp] theorem hostSend_cqs (s : State) (m : HostMsg) : (s.hostSend m).cqs = s.cqs := rfl
@[simp] theorem hostSend_certs (s : State) (m : HostMsg) : (s.hostSend m).certs = s.certs := rfl
@[simp] theorem hostSend_turns (s : State) (m : HostMsg) : (s.hostSend m).turns = s.turns := rfl
@[simp] theorem hostSend_chanXf (s : State) (m : HostMsg) : (s.hostSend m).chanXf = s.chanXf := rfl
@[simp] theorem hostSend_imgs (s : State) (m : HostMsg) : (s.hostSend m).imgs = s.imgs := rfl
@[simp] theorem hostSend_streams (s : State) (m : HostMsg) : (s.hostSend m).streams = s.streams := rfl
@[simp] theorem hostSend_pages (s : State) (m : HostMsg) : (s.hostSend m).pages = s.pages := rfl
@[simp] theorem hostSend_moves (s : State) (m : HostMsg) : (s.hostSend m).moves = s.moves := rfl
@[simp] theorem hostSend_brings (s : State) (m : HostMsg) : (s.hostSend m).brings = s.brings := rfl
@[simp] theorem hostSend_advised (s : State) (m : HostMsg) : (s.hostSend m).advised = s.advised := rfl
@[simp] theorem hostSend_fetches (s : State) (m : HostMsg) : (s.hostSend m).fetches = s.fetches := rfl
@[simp] theorem hostSend_cnps (s : State) (m : HostMsg) : (s.hostSend m).cnps = s.cnps := rfl
@[simp] theorem hostSend_ports (s : State) (m : HostMsg) : (s.hostSend m).ports = s.ports := rfl
@[simp] theorem hostSend_inbox (s : State) (m : HostMsg) : (s.hostSend m).inbox = s.inbox := rfl
@[simp] theorem hostSend_left (s : State) (m : HostMsg) : (s.hostSend m).left = s.left := rfl
@[simp] theorem hostSend_leaves (s : State) (m : HostMsg) : (s.hostSend m).leaves = s.leaves := rfl
@[simp] theorem hostSend_joined (s : State) (m : HostMsg) : (s.hostSend m).joined = s.joined := rfl
@[simp] theorem hostSend_servo (s : State) (m : HostMsg) : (s.hostSend m).servo = s.servo := rfl
@[simp] theorem hostSend_flights (s : State) (m : HostMsg) : (s.hostSend m).flights = s.flights := rfl
@[simp] theorem hostSend_notes (s : State) (m : HostMsg) : (s.hostSend m).notes = s.notes := rfl
@[simp] theorem hostSend_slots (s : State) (m : HostMsg) : (s.hostSend m).slots = s.slots := rfl
@[simp] theorem hostSend_jobWork (s : State) (m : HostMsg) : (s.hostSend m).jobWork = s.jobWork := rfl
@[simp] theorem hostSend_eth (s : State) (m : HostMsg) : (s.hostSend m).eth = s.eth := rfl
@[simp] theorem hostSend_setting (s : State) (m : HostMsg) : (s.hostSend m).setting = s.setting := rfl
@[simp] theorem hostSend_effDig (s : State) (m : HostMsg) : (s.hostSend m).effDig = s.effDig := rfl
@[simp] theorem hostSend_loadDig (s : State) (m : HostMsg) : (s.hostSend m).loadDig = s.loadDig := rfl
@[simp] theorem hostSend_store (s : State) (m : HostMsg) : (s.hostSend m).store = s.store := rfl
@[simp] theorem hostSend_pulls (s : State) (m : HostMsg) : (s.hostSend m).pulls = s.pulls := rfl
@[simp] theorem hostSend_clasp (s : State) (m : HostMsg) : (s.hostSend m).clasp = s.clasp := rfl
@[simp] theorem hostSend_rot (s : State) (m : HostMsg) : (s.hostSend m).rot = s.rot := rfl
@[simp] theorem hostSend_pwr (s : State) (m : HostMsg) : (s.hostSend m).pwr = s.pwr := rfl
@[simp] theorem hostSend_freeCtr (s : State) (m : HostMsg) : (s.hostSend m).freeCtr = s.freeCtr := rfl
@[simp] theorem hostSend_pending (s : State) (m : HostMsg) : (s.hostSend m).pending = s.pending := rfl

/-! ### setSq -/

@[simp] theorem setSq_aon (s : State) (q : Nat) (v : Sq) : (s.setSq q v).aon = s.aon := rfl
@[simp] theorem setSq_regs (s : State) (q : Nat) (v : Sq) : (s.setSq q v).regs = s.regs := rfl
@[simp] theorem setSq_holdHost (s : State) (q : Nat) (v : Sq) : (s.setSq q v).holdHost = s.holdHost := rfl
@[simp] theorem setSq_holdFw (s : State) (q : Nat) (v : Sq) : (s.setSq q v).holdFw = s.holdFw := rfl
@[simp] theorem setSq_errs (s : State) (q : Nat) (v : Sq) : (s.setSq q v).errs = s.errs := rfl
@[simp] theorem setSq_errSeq (s : State) (q : Nat) (v : Sq) : (s.setSq q v).errSeq = s.errSeq := rfl
@[simp] theorem setSq_vlog (s : State) (q : Nat) (v : Sq) : (s.setSq q v).vlog = s.vlog := rfl
@[simp] theorem setSq_vSeq (s : State) (q : Nat) (v : Sq) : (s.setSq q v).vSeq = s.vSeq := rfl
@[simp] theorem setSq_cores (s : State) (q : Nat) (v : Sq) : (s.setSq q v).cores = s.cores := rfl
@[simp] theorem setSq_mem (s : State) (q : Nat) (v : Sq) : (s.setSq q v).mem = s.mem := rfl
@[simp] theorem setSq_gpoison (s : State) (q : Nat) (v : Sq) : (s.setSq q v).gpoison = s.gpoison := rfl
@[simp] theorem setSq_hpoison (s : State) (q : Nat) (v : Sq) : (s.setSq q v).hpoison = s.hpoison := rfl
@[simp] theorem setSq_hbmGen (s : State) (q : Nat) (v : Sq) : (s.setSq q v).hbmGen = s.hbmGen := rfl
@[simp] theorem setSq_hbmSt (s : State) (q : Nat) (v : Sq) : (s.setSq q v).hbmSt = s.hbmSt := rfl
@[simp] theorem setSq_l2 (s : State) (q : Nat) (v : Sq) : (s.setSq q v).l2 = s.l2 := rfl
@[simp] theorem setSq_msc (s : State) (q : Nat) (v : Sq) : (s.setSq q v).msc = s.msc := rfl
@[simp] theorem setSq_mntPos (s : State) (q : Nat) (v : Sq) : (s.setSq q v).mntPos = s.mntPos := rfl
@[simp] theorem setSq_dir (s : State) (q : Nat) (v : Sq) : (s.setSq q v).dir = s.dir := rfl
@[simp] theorem setSq_txns (s : State) (q : Nat) (v : Sq) : (s.setSq q v).txns = s.txns := rfl
@[simp] theorem setSq_conflict (s : State) (q : Nat) (v : Sq) : (s.setSq q v).conflict = s.conflict := rfl
@[simp] theorem setSq_preqs (s : State) (q : Nat) (v : Sq) : (s.setSq q v).preqs = s.preqs := rfl
@[simp] theorem setSq_wbuf (s : State) (q : Nat) (v : Sq) : (s.setSq q v).wbuf = s.wbuf := rfl
@[simp] theorem setSq_inHold (s : State) (q : Nat) (v : Sq) : (s.setSq q v).inHold = s.inHold := rfl
@[simp] theorem setSq_delayed (s : State) (q : Nat) (v : Sq) : (s.setSq q v).delayed = s.delayed := rfl
@[simp] theorem setSq_rbuf (s : State) (q : Nat) (v : Sq) : (s.setSq q v).rbuf = s.rbuf := rfl
@[simp] theorem setSq_nextTxn (s : State) (q : Nat) (v : Sq) : (s.setSq q v).nextTxn = s.nextTxn := rfl
@[simp] theorem setSq_lateInv (s : State) (q : Nat) (v : Sq) : (s.setSq q v).lateInv = s.lateInv := rfl
@[simp] theorem setSq_biConf (s : State) (q : Nat) (v : Sq) : (s.setSq q v).biConf = s.biConf := rfl
@[simp] theorem setSq_hcReqs (s : State) (q : Nat) (v : Sq) : (s.setSq q v).hcReqs = s.hcReqs := rfl
@[simp] theorem setSq_flip (s : State) (q : Nat) (v : Sq) : (s.setSq q v).flip = s.flip := rfl
@[simp] theorem setSq_purges (s : State) (q : Nat) (v : Sq) : (s.setSq q v).purges = s.purges := rfl
@[simp] theorem setSq_ctxs (s : State) (q : Nat) (v : Sq) : (s.setSq q v).ctxs = s.ctxs := rfl
@[simp] theorem setSq_tlbs (s : State) (q : Nat) (v : Sq) : (s.setSq q v).tlbs = s.tlbs := rfl
@[simp] theorem setSq_stlb (s : State) (q : Nat) (v : Sq) : (s.setSq q v).stlb = s.stlb := rfl
@[simp] theorem setSq_walks (s : State) (q : Nat) (v : Sq) : (s.setSq q v).walks = s.walks := rfl
@[simp] theorem setSq_nextWalk (s : State) (q : Nat) (v : Sq) : (s.setSq q v).nextWalk = s.nextWalk := rfl
@[simp] theorem setSq_frecs (s : State) (q : Nat) (v : Sq) : (s.setSq q v).frecs = s.frecs := rfl
@[simp] theorem setSq_fseq (s : State) (q : Nat) (v : Sq) : (s.setSq q v).fseq = s.fseq := rfl
@[simp] theorem setSq_xops (s : State) (q : Nat) (v : Sq) : (s.setSq q v).xops = s.xops := rfl
@[simp] theorem setSq_wins (s : State) (q : Nat) (v : Sq) : (s.setSq q v).wins = s.wins := rfl
@[simp] theorem setSq_winOld (s : State) (q : Nat) (v : Sq) : (s.setSq q v).winOld = s.winOld := rfl
@[simp] theorem setSq_winOut (s : State) (q : Nat) (v : Sq) : (s.setSq q v).winOut = s.winOut := rfl
@[simp] theorem setSq_ep (s : State) (q : Nat) (v : Sq) : (s.setSq q v).ep = s.ep := rfl
@[simp] theorem setSq_inWait (s : State) (q : Nat) (v : Sq) : (s.setSq q v).inWait = s.inWait := rfl
@[simp] theorem setSq_cqs (s : State) (q : Nat) (v : Sq) : (s.setSq q v).cqs = s.cqs := rfl
@[simp] theorem setSq_certs (s : State) (q : Nat) (v : Sq) : (s.setSq q v).certs = s.certs := rfl
@[simp] theorem setSq_turns (s : State) (q : Nat) (v : Sq) : (s.setSq q v).turns = s.turns := rfl
@[simp] theorem setSq_chanXf (s : State) (q : Nat) (v : Sq) : (s.setSq q v).chanXf = s.chanXf := rfl
@[simp] theorem setSq_imgs (s : State) (q : Nat) (v : Sq) : (s.setSq q v).imgs = s.imgs := rfl
@[simp] theorem setSq_streams (s : State) (q : Nat) (v : Sq) : (s.setSq q v).streams = s.streams := rfl
@[simp] theorem setSq_pages (s : State) (q : Nat) (v : Sq) : (s.setSq q v).pages = s.pages := rfl
@[simp] theorem setSq_moves (s : State) (q : Nat) (v : Sq) : (s.setSq q v).moves = s.moves := rfl
@[simp] theorem setSq_brings (s : State) (q : Nat) (v : Sq) : (s.setSq q v).brings = s.brings := rfl
@[simp] theorem setSq_advised (s : State) (q : Nat) (v : Sq) : (s.setSq q v).advised = s.advised := rfl
@[simp] theorem setSq_fetches (s : State) (q : Nat) (v : Sq) : (s.setSq q v).fetches = s.fetches := rfl
@[simp] theorem setSq_cnps (s : State) (q : Nat) (v : Sq) : (s.setSq q v).cnps = s.cnps := rfl
@[simp] theorem setSq_ports (s : State) (q : Nat) (v : Sq) : (s.setSq q v).ports = s.ports := rfl
@[simp] theorem setSq_inbox (s : State) (q : Nat) (v : Sq) : (s.setSq q v).inbox = s.inbox := rfl
@[simp] theorem setSq_left (s : State) (q : Nat) (v : Sq) : (s.setSq q v).left = s.left := rfl
@[simp] theorem setSq_leaves (s : State) (q : Nat) (v : Sq) : (s.setSq q v).leaves = s.leaves := rfl
@[simp] theorem setSq_joined (s : State) (q : Nat) (v : Sq) : (s.setSq q v).joined = s.joined := rfl
@[simp] theorem setSq_servo (s : State) (q : Nat) (v : Sq) : (s.setSq q v).servo = s.servo := rfl
@[simp] theorem setSq_flights (s : State) (q : Nat) (v : Sq) : (s.setSq q v).flights = s.flights := rfl
@[simp] theorem setSq_notes (s : State) (q : Nat) (v : Sq) : (s.setSq q v).notes = s.notes := rfl
@[simp] theorem setSq_slots (s : State) (q : Nat) (v : Sq) : (s.setSq q v).slots = s.slots := rfl
@[simp] theorem setSq_jobWork (s : State) (q : Nat) (v : Sq) : (s.setSq q v).jobWork = s.jobWork := rfl
@[simp] theorem setSq_eth (s : State) (q : Nat) (v : Sq) : (s.setSq q v).eth = s.eth := rfl
@[simp] theorem setSq_setting (s : State) (q : Nat) (v : Sq) : (s.setSq q v).setting = s.setting := rfl
@[simp] theorem setSq_effDig (s : State) (q : Nat) (v : Sq) : (s.setSq q v).effDig = s.effDig := rfl
@[simp] theorem setSq_loadDig (s : State) (q : Nat) (v : Sq) : (s.setSq q v).loadDig = s.loadDig := rfl
@[simp] theorem setSq_store (s : State) (q : Nat) (v : Sq) : (s.setSq q v).store = s.store := rfl
@[simp] theorem setSq_pulls (s : State) (q : Nat) (v : Sq) : (s.setSq q v).pulls = s.pulls := rfl
@[simp] theorem setSq_clasp (s : State) (q : Nat) (v : Sq) : (s.setSq q v).clasp = s.clasp := rfl
@[simp] theorem setSq_rot (s : State) (q : Nat) (v : Sq) : (s.setSq q v).rot = s.rot := rfl
@[simp] theorem setSq_pwr (s : State) (q : Nat) (v : Sq) : (s.setSq q v).pwr = s.pwr := rfl
@[simp] theorem setSq_freeCtr (s : State) (q : Nat) (v : Sq) : (s.setSq q v).freeCtr = s.freeCtr := rfl
@[simp] theorem setSq_pending (s : State) (q : Nat) (v : Sq) : (s.setSq q v).pending = s.pending := rfl

/-! ### setCq -/

@[simp] theorem setCq_aon (s : State) (q : Nat) (v : Cq) : (s.setCq q v).aon = s.aon := rfl
@[simp] theorem setCq_regs (s : State) (q : Nat) (v : Cq) : (s.setCq q v).regs = s.regs := rfl
@[simp] theorem setCq_holdHost (s : State) (q : Nat) (v : Cq) : (s.setCq q v).holdHost = s.holdHost := rfl
@[simp] theorem setCq_holdFw (s : State) (q : Nat) (v : Cq) : (s.setCq q v).holdFw = s.holdFw := rfl
@[simp] theorem setCq_errs (s : State) (q : Nat) (v : Cq) : (s.setCq q v).errs = s.errs := rfl
@[simp] theorem setCq_errSeq (s : State) (q : Nat) (v : Cq) : (s.setCq q v).errSeq = s.errSeq := rfl
@[simp] theorem setCq_vlog (s : State) (q : Nat) (v : Cq) : (s.setCq q v).vlog = s.vlog := rfl
@[simp] theorem setCq_vSeq (s : State) (q : Nat) (v : Cq) : (s.setCq q v).vSeq = s.vSeq := rfl
@[simp] theorem setCq_cores (s : State) (q : Nat) (v : Cq) : (s.setCq q v).cores = s.cores := rfl
@[simp] theorem setCq_mem (s : State) (q : Nat) (v : Cq) : (s.setCq q v).mem = s.mem := rfl
@[simp] theorem setCq_gpoison (s : State) (q : Nat) (v : Cq) : (s.setCq q v).gpoison = s.gpoison := rfl
@[simp] theorem setCq_hpoison (s : State) (q : Nat) (v : Cq) : (s.setCq q v).hpoison = s.hpoison := rfl
@[simp] theorem setCq_hbmGen (s : State) (q : Nat) (v : Cq) : (s.setCq q v).hbmGen = s.hbmGen := rfl
@[simp] theorem setCq_hbmSt (s : State) (q : Nat) (v : Cq) : (s.setCq q v).hbmSt = s.hbmSt := rfl
@[simp] theorem setCq_l2 (s : State) (q : Nat) (v : Cq) : (s.setCq q v).l2 = s.l2 := rfl
@[simp] theorem setCq_msc (s : State) (q : Nat) (v : Cq) : (s.setCq q v).msc = s.msc := rfl
@[simp] theorem setCq_mntPos (s : State) (q : Nat) (v : Cq) : (s.setCq q v).mntPos = s.mntPos := rfl
@[simp] theorem setCq_dir (s : State) (q : Nat) (v : Cq) : (s.setCq q v).dir = s.dir := rfl
@[simp] theorem setCq_txns (s : State) (q : Nat) (v : Cq) : (s.setCq q v).txns = s.txns := rfl
@[simp] theorem setCq_conflict (s : State) (q : Nat) (v : Cq) : (s.setCq q v).conflict = s.conflict := rfl
@[simp] theorem setCq_preqs (s : State) (q : Nat) (v : Cq) : (s.setCq q v).preqs = s.preqs := rfl
@[simp] theorem setCq_wbuf (s : State) (q : Nat) (v : Cq) : (s.setCq q v).wbuf = s.wbuf := rfl
@[simp] theorem setCq_inHold (s : State) (q : Nat) (v : Cq) : (s.setCq q v).inHold = s.inHold := rfl
@[simp] theorem setCq_delayed (s : State) (q : Nat) (v : Cq) : (s.setCq q v).delayed = s.delayed := rfl
@[simp] theorem setCq_rbuf (s : State) (q : Nat) (v : Cq) : (s.setCq q v).rbuf = s.rbuf := rfl
@[simp] theorem setCq_nextTxn (s : State) (q : Nat) (v : Cq) : (s.setCq q v).nextTxn = s.nextTxn := rfl
@[simp] theorem setCq_lateInv (s : State) (q : Nat) (v : Cq) : (s.setCq q v).lateInv = s.lateInv := rfl
@[simp] theorem setCq_biConf (s : State) (q : Nat) (v : Cq) : (s.setCq q v).biConf = s.biConf := rfl
@[simp] theorem setCq_hcReqs (s : State) (q : Nat) (v : Cq) : (s.setCq q v).hcReqs = s.hcReqs := rfl
@[simp] theorem setCq_flip (s : State) (q : Nat) (v : Cq) : (s.setCq q v).flip = s.flip := rfl
@[simp] theorem setCq_purges (s : State) (q : Nat) (v : Cq) : (s.setCq q v).purges = s.purges := rfl
@[simp] theorem setCq_ctxs (s : State) (q : Nat) (v : Cq) : (s.setCq q v).ctxs = s.ctxs := rfl
@[simp] theorem setCq_tlbs (s : State) (q : Nat) (v : Cq) : (s.setCq q v).tlbs = s.tlbs := rfl
@[simp] theorem setCq_stlb (s : State) (q : Nat) (v : Cq) : (s.setCq q v).stlb = s.stlb := rfl
@[simp] theorem setCq_walks (s : State) (q : Nat) (v : Cq) : (s.setCq q v).walks = s.walks := rfl
@[simp] theorem setCq_nextWalk (s : State) (q : Nat) (v : Cq) : (s.setCq q v).nextWalk = s.nextWalk := rfl
@[simp] theorem setCq_frecs (s : State) (q : Nat) (v : Cq) : (s.setCq q v).frecs = s.frecs := rfl
@[simp] theorem setCq_fseq (s : State) (q : Nat) (v : Cq) : (s.setCq q v).fseq = s.fseq := rfl
@[simp] theorem setCq_xops (s : State) (q : Nat) (v : Cq) : (s.setCq q v).xops = s.xops := rfl
@[simp] theorem setCq_wins (s : State) (q : Nat) (v : Cq) : (s.setCq q v).wins = s.wins := rfl
@[simp] theorem setCq_winOld (s : State) (q : Nat) (v : Cq) : (s.setCq q v).winOld = s.winOld := rfl
@[simp] theorem setCq_winOut (s : State) (q : Nat) (v : Cq) : (s.setCq q v).winOut = s.winOut := rfl
@[simp] theorem setCq_ep (s : State) (q : Nat) (v : Cq) : (s.setCq q v).ep = s.ep := rfl
@[simp] theorem setCq_inWait (s : State) (q : Nat) (v : Cq) : (s.setCq q v).inWait = s.inWait := rfl
@[simp] theorem setCq_sqs (s : State) (q : Nat) (v : Cq) : (s.setCq q v).sqs = s.sqs := rfl
@[simp] theorem setCq_certs (s : State) (q : Nat) (v : Cq) : (s.setCq q v).certs = s.certs := rfl
@[simp] theorem setCq_turns (s : State) (q : Nat) (v : Cq) : (s.setCq q v).turns = s.turns := rfl
@[simp] theorem setCq_chanXf (s : State) (q : Nat) (v : Cq) : (s.setCq q v).chanXf = s.chanXf := rfl
@[simp] theorem setCq_imgs (s : State) (q : Nat) (v : Cq) : (s.setCq q v).imgs = s.imgs := rfl
@[simp] theorem setCq_streams (s : State) (q : Nat) (v : Cq) : (s.setCq q v).streams = s.streams := rfl
@[simp] theorem setCq_pages (s : State) (q : Nat) (v : Cq) : (s.setCq q v).pages = s.pages := rfl
@[simp] theorem setCq_moves (s : State) (q : Nat) (v : Cq) : (s.setCq q v).moves = s.moves := rfl
@[simp] theorem setCq_brings (s : State) (q : Nat) (v : Cq) : (s.setCq q v).brings = s.brings := rfl
@[simp] theorem setCq_advised (s : State) (q : Nat) (v : Cq) : (s.setCq q v).advised = s.advised := rfl
@[simp] theorem setCq_fetches (s : State) (q : Nat) (v : Cq) : (s.setCq q v).fetches = s.fetches := rfl
@[simp] theorem setCq_cnps (s : State) (q : Nat) (v : Cq) : (s.setCq q v).cnps = s.cnps := rfl
@[simp] theorem setCq_ports (s : State) (q : Nat) (v : Cq) : (s.setCq q v).ports = s.ports := rfl
@[simp] theorem setCq_inbox (s : State) (q : Nat) (v : Cq) : (s.setCq q v).inbox = s.inbox := rfl
@[simp] theorem setCq_left (s : State) (q : Nat) (v : Cq) : (s.setCq q v).left = s.left := rfl
@[simp] theorem setCq_leaves (s : State) (q : Nat) (v : Cq) : (s.setCq q v).leaves = s.leaves := rfl
@[simp] theorem setCq_joined (s : State) (q : Nat) (v : Cq) : (s.setCq q v).joined = s.joined := rfl
@[simp] theorem setCq_servo (s : State) (q : Nat) (v : Cq) : (s.setCq q v).servo = s.servo := rfl
@[simp] theorem setCq_flights (s : State) (q : Nat) (v : Cq) : (s.setCq q v).flights = s.flights := rfl
@[simp] theorem setCq_notes (s : State) (q : Nat) (v : Cq) : (s.setCq q v).notes = s.notes := rfl
@[simp] theorem setCq_slots (s : State) (q : Nat) (v : Cq) : (s.setCq q v).slots = s.slots := rfl
@[simp] theorem setCq_jobWork (s : State) (q : Nat) (v : Cq) : (s.setCq q v).jobWork = s.jobWork := rfl
@[simp] theorem setCq_eth (s : State) (q : Nat) (v : Cq) : (s.setCq q v).eth = s.eth := rfl
@[simp] theorem setCq_setting (s : State) (q : Nat) (v : Cq) : (s.setCq q v).setting = s.setting := rfl
@[simp] theorem setCq_effDig (s : State) (q : Nat) (v : Cq) : (s.setCq q v).effDig = s.effDig := rfl
@[simp] theorem setCq_loadDig (s : State) (q : Nat) (v : Cq) : (s.setCq q v).loadDig = s.loadDig := rfl
@[simp] theorem setCq_store (s : State) (q : Nat) (v : Cq) : (s.setCq q v).store = s.store := rfl
@[simp] theorem setCq_pulls (s : State) (q : Nat) (v : Cq) : (s.setCq q v).pulls = s.pulls := rfl
@[simp] theorem setCq_clasp (s : State) (q : Nat) (v : Cq) : (s.setCq q v).clasp = s.clasp := rfl
@[simp] theorem setCq_rot (s : State) (q : Nat) (v : Cq) : (s.setCq q v).rot = s.rot := rfl
@[simp] theorem setCq_pwr (s : State) (q : Nat) (v : Cq) : (s.setCq q v).pwr = s.pwr := rfl
@[simp] theorem setCq_freeCtr (s : State) (q : Nat) (v : Cq) : (s.setCq q v).freeCtr = s.freeCtr := rfl
@[simp] theorem setCq_pending (s : State) (q : Nat) (v : Cq) : (s.setCq q v).pending = s.pending := rfl

/-! ### setCtx -/

@[simp] theorem setCtx_aon (s : State) (t : Nat) (c : Ctx) : (s.setCtx t c).aon = s.aon := rfl
@[simp] theorem setCtx_regs (s : State) (t : Nat) (c : Ctx) : (s.setCtx t c).regs = s.regs := rfl
@[simp] theorem setCtx_holdHost (s : State) (t : Nat) (c : Ctx) : (s.setCtx t c).holdHost = s.holdHost := rfl
@[simp] theorem setCtx_holdFw (s : State) (t : Nat) (c : Ctx) : (s.setCtx t c).holdFw = s.holdFw := rfl
@[simp] theorem setCtx_errs (s : State) (t : Nat) (c : Ctx) : (s.setCtx t c).errs = s.errs := rfl
@[simp] theorem setCtx_errSeq (s : State) (t : Nat) (c : Ctx) : (s.setCtx t c).errSeq = s.errSeq := rfl
@[simp] theorem setCtx_vlog (s : State) (t : Nat) (c : Ctx) : (s.setCtx t c).vlog = s.vlog := rfl
@[simp] theorem setCtx_vSeq (s : State) (t : Nat) (c : Ctx) : (s.setCtx t c).vSeq = s.vSeq := rfl
@[simp] theorem setCtx_cores (s : State) (t : Nat) (c : Ctx) : (s.setCtx t c).cores = s.cores := rfl
@[simp] theorem setCtx_mem (s : State) (t : Nat) (c : Ctx) : (s.setCtx t c).mem = s.mem := rfl
@[simp] theorem setCtx_gpoison (s : State) (t : Nat) (c : Ctx) : (s.setCtx t c).gpoison = s.gpoison := rfl
@[simp] theorem setCtx_hpoison (s : State) (t : Nat) (c : Ctx) : (s.setCtx t c).hpoison = s.hpoison := rfl
@[simp] theorem setCtx_hbmGen (s : State) (t : Nat) (c : Ctx) : (s.setCtx t c).hbmGen = s.hbmGen := rfl
@[simp] theorem setCtx_hbmSt (s : State) (t : Nat) (c : Ctx) : (s.setCtx t c).hbmSt = s.hbmSt := rfl
@[simp] theorem setCtx_l2 (s : State) (t : Nat) (c : Ctx) : (s.setCtx t c).l2 = s.l2 := rfl
@[simp] theorem setCtx_msc (s : State) (t : Nat) (c : Ctx) : (s.setCtx t c).msc = s.msc := rfl
@[simp] theorem setCtx_mntPos (s : State) (t : Nat) (c : Ctx) : (s.setCtx t c).mntPos = s.mntPos := rfl
@[simp] theorem setCtx_dir (s : State) (t : Nat) (c : Ctx) : (s.setCtx t c).dir = s.dir := rfl
@[simp] theorem setCtx_txns (s : State) (t : Nat) (c : Ctx) : (s.setCtx t c).txns = s.txns := rfl
@[simp] theorem setCtx_conflict (s : State) (t : Nat) (c : Ctx) : (s.setCtx t c).conflict = s.conflict := rfl
@[simp] theorem setCtx_preqs (s : State) (t : Nat) (c : Ctx) : (s.setCtx t c).preqs = s.preqs := rfl
@[simp] theorem setCtx_wbuf (s : State) (t : Nat) (c : Ctx) : (s.setCtx t c).wbuf = s.wbuf := rfl
@[simp] theorem setCtx_inHold (s : State) (t : Nat) (c : Ctx) : (s.setCtx t c).inHold = s.inHold := rfl
@[simp] theorem setCtx_delayed (s : State) (t : Nat) (c : Ctx) : (s.setCtx t c).delayed = s.delayed := rfl
@[simp] theorem setCtx_rbuf (s : State) (t : Nat) (c : Ctx) : (s.setCtx t c).rbuf = s.rbuf := rfl
@[simp] theorem setCtx_nextTxn (s : State) (t : Nat) (c : Ctx) : (s.setCtx t c).nextTxn = s.nextTxn := rfl
@[simp] theorem setCtx_lateInv (s : State) (t : Nat) (c : Ctx) : (s.setCtx t c).lateInv = s.lateInv := rfl
@[simp] theorem setCtx_biConf (s : State) (t : Nat) (c : Ctx) : (s.setCtx t c).biConf = s.biConf := rfl
@[simp] theorem setCtx_hcReqs (s : State) (t : Nat) (c : Ctx) : (s.setCtx t c).hcReqs = s.hcReqs := rfl
@[simp] theorem setCtx_flip (s : State) (t : Nat) (c : Ctx) : (s.setCtx t c).flip = s.flip := rfl
@[simp] theorem setCtx_purges (s : State) (t : Nat) (c : Ctx) : (s.setCtx t c).purges = s.purges := rfl
@[simp] theorem setCtx_tlbs (s : State) (t : Nat) (c : Ctx) : (s.setCtx t c).tlbs = s.tlbs := rfl
@[simp] theorem setCtx_stlb (s : State) (t : Nat) (c : Ctx) : (s.setCtx t c).stlb = s.stlb := rfl
@[simp] theorem setCtx_walks (s : State) (t : Nat) (c : Ctx) : (s.setCtx t c).walks = s.walks := rfl
@[simp] theorem setCtx_nextWalk (s : State) (t : Nat) (c : Ctx) : (s.setCtx t c).nextWalk = s.nextWalk := rfl
@[simp] theorem setCtx_frecs (s : State) (t : Nat) (c : Ctx) : (s.setCtx t c).frecs = s.frecs := rfl
@[simp] theorem setCtx_fseq (s : State) (t : Nat) (c : Ctx) : (s.setCtx t c).fseq = s.fseq := rfl
@[simp] theorem setCtx_xops (s : State) (t : Nat) (c : Ctx) : (s.setCtx t c).xops = s.xops := rfl
@[simp] theorem setCtx_wins (s : State) (t : Nat) (c : Ctx) : (s.setCtx t c).wins = s.wins := rfl
@[simp] theorem setCtx_winOld (s : State) (t : Nat) (c : Ctx) : (s.setCtx t c).winOld = s.winOld := rfl
@[simp] theorem setCtx_winOut (s : State) (t : Nat) (c : Ctx) : (s.setCtx t c).winOut = s.winOut := rfl
@[simp] theorem setCtx_ep (s : State) (t : Nat) (c : Ctx) : (s.setCtx t c).ep = s.ep := rfl
@[simp] theorem setCtx_inWait (s : State) (t : Nat) (c : Ctx) : (s.setCtx t c).inWait = s.inWait := rfl
@[simp] theorem setCtx_sqs (s : State) (t : Nat) (c : Ctx) : (s.setCtx t c).sqs = s.sqs := rfl
@[simp] theorem setCtx_cqs (s : State) (t : Nat) (c : Ctx) : (s.setCtx t c).cqs = s.cqs := rfl
@[simp] theorem setCtx_certs (s : State) (t : Nat) (c : Ctx) : (s.setCtx t c).certs = s.certs := rfl
@[simp] theorem setCtx_turns (s : State) (t : Nat) (c : Ctx) : (s.setCtx t c).turns = s.turns := rfl
@[simp] theorem setCtx_chanXf (s : State) (t : Nat) (c : Ctx) : (s.setCtx t c).chanXf = s.chanXf := rfl
@[simp] theorem setCtx_imgs (s : State) (t : Nat) (c : Ctx) : (s.setCtx t c).imgs = s.imgs := rfl
@[simp] theorem setCtx_streams (s : State) (t : Nat) (c : Ctx) : (s.setCtx t c).streams = s.streams := rfl
@[simp] theorem setCtx_pages (s : State) (t : Nat) (c : Ctx) : (s.setCtx t c).pages = s.pages := rfl
@[simp] theorem setCtx_moves (s : State) (t : Nat) (c : Ctx) : (s.setCtx t c).moves = s.moves := rfl
@[simp] theorem setCtx_brings (s : State) (t : Nat) (c : Ctx) : (s.setCtx t c).brings = s.brings := rfl
@[simp] theorem setCtx_advised (s : State) (t : Nat) (c : Ctx) : (s.setCtx t c).advised = s.advised := rfl
@[simp] theorem setCtx_fetches (s : State) (t : Nat) (c : Ctx) : (s.setCtx t c).fetches = s.fetches := rfl
@[simp] theorem setCtx_cnps (s : State) (t : Nat) (c : Ctx) : (s.setCtx t c).cnps = s.cnps := rfl
@[simp] theorem setCtx_ports (s : State) (t : Nat) (c : Ctx) : (s.setCtx t c).ports = s.ports := rfl
@[simp] theorem setCtx_inbox (s : State) (t : Nat) (c : Ctx) : (s.setCtx t c).inbox = s.inbox := rfl
@[simp] theorem setCtx_left (s : State) (t : Nat) (c : Ctx) : (s.setCtx t c).left = s.left := rfl
@[simp] theorem setCtx_leaves (s : State) (t : Nat) (c : Ctx) : (s.setCtx t c).leaves = s.leaves := rfl
@[simp] theorem setCtx_joined (s : State) (t : Nat) (c : Ctx) : (s.setCtx t c).joined = s.joined := rfl
@[simp] theorem setCtx_servo (s : State) (t : Nat) (c : Ctx) : (s.setCtx t c).servo = s.servo := rfl
@[simp] theorem setCtx_flights (s : State) (t : Nat) (c : Ctx) : (s.setCtx t c).flights = s.flights := rfl
@[simp] theorem setCtx_notes (s : State) (t : Nat) (c : Ctx) : (s.setCtx t c).notes = s.notes := rfl
@[simp] theorem setCtx_slots (s : State) (t : Nat) (c : Ctx) : (s.setCtx t c).slots = s.slots := rfl
@[simp] theorem setCtx_jobWork (s : State) (t : Nat) (c : Ctx) : (s.setCtx t c).jobWork = s.jobWork := rfl
@[simp] theorem setCtx_eth (s : State) (t : Nat) (c : Ctx) : (s.setCtx t c).eth = s.eth := rfl
@[simp] theorem setCtx_setting (s : State) (t : Nat) (c : Ctx) : (s.setCtx t c).setting = s.setting := rfl
@[simp] theorem setCtx_effDig (s : State) (t : Nat) (c : Ctx) : (s.setCtx t c).effDig = s.effDig := rfl
@[simp] theorem setCtx_loadDig (s : State) (t : Nat) (c : Ctx) : (s.setCtx t c).loadDig = s.loadDig := rfl
@[simp] theorem setCtx_store (s : State) (t : Nat) (c : Ctx) : (s.setCtx t c).store = s.store := rfl
@[simp] theorem setCtx_pulls (s : State) (t : Nat) (c : Ctx) : (s.setCtx t c).pulls = s.pulls := rfl
@[simp] theorem setCtx_clasp (s : State) (t : Nat) (c : Ctx) : (s.setCtx t c).clasp = s.clasp := rfl
@[simp] theorem setCtx_rot (s : State) (t : Nat) (c : Ctx) : (s.setCtx t c).rot = s.rot := rfl
@[simp] theorem setCtx_pwr (s : State) (t : Nat) (c : Ctx) : (s.setCtx t c).pwr = s.pwr := rfl
@[simp] theorem setCtx_freeCtr (s : State) (t : Nat) (c : Ctx) : (s.setCtx t c).freeCtr = s.freeCtr := rfl
@[simp] theorem setCtx_pending (s : State) (t : Nat) (c : Ctx) : (s.setCtx t c).pending = s.pending := rfl

/-! ### Free values -/

@[simp] theorem takeFree_aon (s : State) : s.takeFree.1.aon = s.aon := rfl
@[simp] theorem takeFree_regs (s : State) : s.takeFree.1.regs = s.regs := rfl
@[simp] theorem takeFree_holdHost (s : State) : s.takeFree.1.holdHost = s.holdHost := rfl
@[simp] theorem takeFree_holdFw (s : State) : s.takeFree.1.holdFw = s.holdFw := rfl
@[simp] theorem takeFree_errs (s : State) : s.takeFree.1.errs = s.errs := rfl
@[simp] theorem takeFree_errSeq (s : State) : s.takeFree.1.errSeq = s.errSeq := rfl
@[simp] theorem takeFree_vlog (s : State) : s.takeFree.1.vlog = s.vlog := rfl
@[simp] theorem takeFree_vSeq (s : State) : s.takeFree.1.vSeq = s.vSeq := rfl
@[simp] theorem takeFree_cores (s : State) : s.takeFree.1.cores = s.cores := rfl
@[simp] theorem takeFree_mem (s : State) : s.takeFree.1.mem = s.mem := rfl
@[simp] theorem takeFree_gpoison (s : State) : s.takeFree.1.gpoison = s.gpoison := rfl
@[simp] theorem takeFree_hpoison (s : State) : s.takeFree.1.hpoison = s.hpoison := rfl
@[simp] theorem takeFree_hbmGen (s : State) : s.takeFree.1.hbmGen = s.hbmGen := rfl
@[simp] theorem takeFree_hbmSt (s : State) : s.takeFree.1.hbmSt = s.hbmSt := rfl
@[simp] theorem takeFree_l2 (s : State) : s.takeFree.1.l2 = s.l2 := rfl
@[simp] theorem takeFree_msc (s : State) : s.takeFree.1.msc = s.msc := rfl
@[simp] theorem takeFree_mntPos (s : State) : s.takeFree.1.mntPos = s.mntPos := rfl
@[simp] theorem takeFree_dir (s : State) : s.takeFree.1.dir = s.dir := rfl
@[simp] theorem takeFree_txns (s : State) : s.takeFree.1.txns = s.txns := rfl
@[simp] theorem takeFree_conflict (s : State) : s.takeFree.1.conflict = s.conflict := rfl
@[simp] theorem takeFree_preqs (s : State) : s.takeFree.1.preqs = s.preqs := rfl
@[simp] theorem takeFree_wbuf (s : State) : s.takeFree.1.wbuf = s.wbuf := rfl
@[simp] theorem takeFree_inHold (s : State) : s.takeFree.1.inHold = s.inHold := rfl
@[simp] theorem takeFree_delayed (s : State) : s.takeFree.1.delayed = s.delayed := rfl
@[simp] theorem takeFree_rbuf (s : State) : s.takeFree.1.rbuf = s.rbuf := rfl
@[simp] theorem takeFree_nextTxn (s : State) : s.takeFree.1.nextTxn = s.nextTxn := rfl
@[simp] theorem takeFree_lateInv (s : State) : s.takeFree.1.lateInv = s.lateInv := rfl
@[simp] theorem takeFree_biConf (s : State) : s.takeFree.1.biConf = s.biConf := rfl
@[simp] theorem takeFree_hcReqs (s : State) : s.takeFree.1.hcReqs = s.hcReqs := rfl
@[simp] theorem takeFree_flip (s : State) : s.takeFree.1.flip = s.flip := rfl
@[simp] theorem takeFree_purges (s : State) : s.takeFree.1.purges = s.purges := rfl
@[simp] theorem takeFree_ctxs (s : State) : s.takeFree.1.ctxs = s.ctxs := rfl
@[simp] theorem takeFree_tlbs (s : State) : s.takeFree.1.tlbs = s.tlbs := rfl
@[simp] theorem takeFree_stlb (s : State) : s.takeFree.1.stlb = s.stlb := rfl
@[simp] theorem takeFree_walks (s : State) : s.takeFree.1.walks = s.walks := rfl
@[simp] theorem takeFree_nextWalk (s : State) : s.takeFree.1.nextWalk = s.nextWalk := rfl
@[simp] theorem takeFree_frecs (s : State) : s.takeFree.1.frecs = s.frecs := rfl
@[simp] theorem takeFree_fseq (s : State) : s.takeFree.1.fseq = s.fseq := rfl
@[simp] theorem takeFree_xops (s : State) : s.takeFree.1.xops = s.xops := rfl
@[simp] theorem takeFree_wins (s : State) : s.takeFree.1.wins = s.wins := rfl
@[simp] theorem takeFree_winOld (s : State) : s.takeFree.1.winOld = s.winOld := rfl
@[simp] theorem takeFree_winOut (s : State) : s.takeFree.1.winOut = s.winOut := rfl
@[simp] theorem takeFree_ep (s : State) : s.takeFree.1.ep = s.ep := rfl
@[simp] theorem takeFree_inWait (s : State) : s.takeFree.1.inWait = s.inWait := rfl
@[simp] theorem takeFree_sqs (s : State) : s.takeFree.1.sqs = s.sqs := rfl
@[simp] theorem takeFree_cqs (s : State) : s.takeFree.1.cqs = s.cqs := rfl
@[simp] theorem takeFree_certs (s : State) : s.takeFree.1.certs = s.certs := rfl
@[simp] theorem takeFree_turns (s : State) : s.takeFree.1.turns = s.turns := rfl
@[simp] theorem takeFree_chanXf (s : State) : s.takeFree.1.chanXf = s.chanXf := rfl
@[simp] theorem takeFree_imgs (s : State) : s.takeFree.1.imgs = s.imgs := rfl
@[simp] theorem takeFree_streams (s : State) : s.takeFree.1.streams = s.streams := rfl
@[simp] theorem takeFree_pages (s : State) : s.takeFree.1.pages = s.pages := rfl
@[simp] theorem takeFree_moves (s : State) : s.takeFree.1.moves = s.moves := rfl
@[simp] theorem takeFree_brings (s : State) : s.takeFree.1.brings = s.brings := rfl
@[simp] theorem takeFree_advised (s : State) : s.takeFree.1.advised = s.advised := rfl
@[simp] theorem takeFree_fetches (s : State) : s.takeFree.1.fetches = s.fetches := rfl
@[simp] theorem takeFree_cnps (s : State) : s.takeFree.1.cnps = s.cnps := rfl
@[simp] theorem takeFree_ports (s : State) : s.takeFree.1.ports = s.ports := rfl
@[simp] theorem takeFree_inbox (s : State) : s.takeFree.1.inbox = s.inbox := rfl
@[simp] theorem takeFree_left (s : State) : s.takeFree.1.left = s.left := rfl
@[simp] theorem takeFree_leaves (s : State) : s.takeFree.1.leaves = s.leaves := rfl
@[simp] theorem takeFree_joined (s : State) : s.takeFree.1.joined = s.joined := rfl
@[simp] theorem takeFree_servo (s : State) : s.takeFree.1.servo = s.servo := rfl
@[simp] theorem takeFree_flights (s : State) : s.takeFree.1.flights = s.flights := rfl
@[simp] theorem takeFree_notes (s : State) : s.takeFree.1.notes = s.notes := rfl
@[simp] theorem takeFree_slots (s : State) : s.takeFree.1.slots = s.slots := rfl
@[simp] theorem takeFree_jobWork (s : State) : s.takeFree.1.jobWork = s.jobWork := rfl
@[simp] theorem takeFree_eth (s : State) : s.takeFree.1.eth = s.eth := rfl
@[simp] theorem takeFree_setting (s : State) : s.takeFree.1.setting = s.setting := rfl
@[simp] theorem takeFree_effDig (s : State) : s.takeFree.1.effDig = s.effDig := rfl
@[simp] theorem takeFree_loadDig (s : State) : s.takeFree.1.loadDig = s.loadDig := rfl
@[simp] theorem takeFree_store (s : State) : s.takeFree.1.store = s.store := rfl
@[simp] theorem takeFree_pulls (s : State) : s.takeFree.1.pulls = s.pulls := rfl
@[simp] theorem takeFree_clasp (s : State) : s.takeFree.1.clasp = s.clasp := rfl
@[simp] theorem takeFree_rot (s : State) : s.takeFree.1.rot = s.rot := rfl
@[simp] theorem takeFree_pwr (s : State) : s.takeFree.1.pwr = s.pwr := rfl
@[simp] theorem takeFree_pending (s : State) : s.takeFree.1.pending = s.pending := rfl
@[simp] theorem takeFree_freeCtr (s : State) : s.takeFree.1.freeCtr = s.freeCtr + 1 := rfl
@[simp] theorem takeFree_snd (s : State) : s.takeFree.2 = s.freeCtr := rfl

/-! ### Reading what was written -/

@[simp] theorem core_setCore (s : State) (c : Nat) (k : Core) : (s.setCore c k).core c = k := SMap.get_set_self _ _ _ _
theorem core_setCore_ne (s : State) {c d : Nat} (k : Core) (h : d ≠ c) : (s.setCore c k).core d = s.core d := SMap.get_set_ne _ _ _ h
@[simp] theorem core_modCore (s : State) (c : Nat) (f : Core → Core) : (s.modCore c f).core c = f (s.core c) := SMap.get_set_self _ _ _ _
theorem core_modCore_ne (s : State) {c d : Nat} (f : Core → Core) (h : d ≠ c) : (s.modCore c f).core d = s.core d :=
  SMap.get_set_ne _ _ _ h
@[simp] theorem core_setReg (s : State) (o v c : Nat) : (s.setReg o v).core c = s.core c := rfl
@[simp] theorem core_setFld (s : State) (f : FRef) (v c : Nat) : (s.setFld f v).core c = s.core c := rfl
@[simp] theorem core_bump (s : State) (f : FRef) (n c : Nat) : (s.bump f n).core c = s.core c := rfl
@[simp] theorem group_setGroup (k : Core) (g : Nat) (v : Option Group) : (k.setGroup g v).group g = v := SMap.get_set_self _ _ _ _
theorem group_setGroup_ne (k : Core) {g h : Nat} (v : Option Group) (hn : h ≠ g) : (k.setGroup g v).group h = k.group h :=
  SMap.get_set_ne _ _ _ hn
@[simp] theorem team_setTeam (k : Core) (t : Nat) (v : Option Team) : (k.setTeam t v).team t = v := SMap.get_set_self _ _ _ _
theorem team_setTeam_ne (k : Core) {t u : Nat} (v : Option Team) (hn : u ≠ t) : (k.setTeam t v).team u = k.team u :=
  SMap.get_set_ne _ _ _ hn
@[simp] theorem team_setGroup (k : Core) (g : Nat) (v : Option Group) (t : Nat) : (k.setGroup g v).team t = k.team t := rfl
@[simp] theorem group_setTeam (k : Core) (t : Nat) (v : Option Team) (g : Nat) : (k.setTeam t v).group g = k.group g := rfl
@[simp] theorem sq_setSq (s : State) (q : Nat) (v : Sq) : (s.setSq q v).sq q = v := SMap.get_set_self _ _ _ _
theorem sq_setSq_ne (s : State) {q r : Nat} (v : Sq) (h : r ≠ q) : (s.setSq q v).sq r = s.sq r := SMap.get_set_ne _ _ _ h
@[simp] theorem cq_setCq (s : State) (q : Nat) (v : Cq) : (s.setCq q v).cq q = v := SMap.get_set_self _ _ _ _
@[simp] theorem port_setPort (s : State) (p : Nat) (v : Port) : (s.setPort p v).port p = v := SMap.get_set_self _ _ _ _
theorem port_setPort_ne (s : State) {p q : Nat} (v : Port) (h : q ≠ p) : (s.setPort p v).port q = s.port q := SMap.get_set_ne _ _ _ h
@[simp] theorem l2At_setL2 (s : State) (k : Nat) (l : L2Line) : (s.setL2 k l).l2At k = l := SMap.get_set_self _ _ _ _
theorem l2At_setL2_ne (s : State) {k j : Nat} (l : L2Line) (h : j ≠ k) : (s.setL2 k l).l2At j = s.l2At j := SMap.get_set_ne _ _ _ h
@[simp] theorem ctx_setCtx (s : State) (t : Nat) (c : Ctx) : (s.setCtx t c).ctx t = c := SMap.get_set_self _ _ _ _
@[simp] theorem dirAt_setDir (s : State) (k : Nat) (e : DirEnt) : (s.setDir k e).dirAt k = e := SMap.get_set_self _ _ _ _

/-! ### Registers -/

theorem reg_setReg (s : State) (o p v : Nat) : (s.setReg o v).reg p = if p = o then v % 2 ^ 64 else s.reg p := by
  unfold State.reg State.setReg
  simp only [SMap.get_set]
  split <;> simp

@[simp] theorem reg_setReg_self (s : State) (o v : Nat) : (s.setReg o v).reg o = v % 2 ^ 64 := by simp [reg_setReg]
theorem reg_setReg_ne (s : State) {o p : Nat} (v : Nat) (h : p ≠ o) : (s.setReg o v).reg p = s.reg p := by simp [reg_setReg, h]

/-- A write of a field leaves every other register as it read. -/
theorem reg_setFld_ne (s : State) (f : FRef) {o : Nat} (v : Nat) (h : o ≠ f.off) : (s.setFld f v).reg o = s.reg o :=
  reg_setReg_ne s _ h

/-- A field of another register reads as before. -/
theorem fld_setFld_ne (s : State) (f g : FRef) (v : Nat) (h : g.off ≠ f.off) : (s.setFld f v).fld g = s.fld g := by
  simp [State.fld, reg_setFld_ne s f v h]

/-! ### Registers of a group -/

@[simp] theorem xr_255 (g : Group) (lane : Nat) : g.xr 255 lane = 0 := rfl

theorem xr_setX (g : Group) (r q lane l : Nat) (v : W32) (hl : lane < 32) (hl' : l < 32) :
    (g.setX r lane v).xr q l = if q = r ∧ l = lane ∧ r ≠ 255 then v else g.xr q l := by
  by_cases hr : r = 255
  · simp [Group.setX, hr]
  · by_cases hq : q = 255
    · subst hq
      have : ¬ ((255 : Nat) = r ∧ l = lane ∧ r ≠ 255) := by omega
      simp [this]
    · simp only [Group.setX, hr, if_false, Group.xr, hq, SMap.get_set]
      by_cases h : q = r ∧ l = lane
      · simp [h.1, h.2, hr]
      · have : ¬ (32 * q + l = 32 * r + lane) := by omega
        have h2 : ¬ (q = r ∧ l = lane ∧ r ≠ 255) := fun x => h ⟨x.1, x.2.1⟩
        simp only [this, h2, if_false]

@[simp] theorem ur_setX (g : Group) (r lane : Nat) (v : W32) (q : Nat) : (g.setX r lane v).ur q = g.ur q := by
  unfold Group.setX; split <;> rfl
@[simp] theorem pr_setX (g : Group) (r lane : Nat) (v : W32) (q l : Nat) : (g.setX r lane v).pr q l = g.pr q l := by
  unfold Group.setX; split <;> rfl

/-- A predicate after a write. -/
theorem pr_setP (g : Group) (p q lane l : Nat) (b : Bool) (hl : l < 32) :
    (g.setP p lane b).pr q l = if q = p ∧ l = lane ∧ p ≠ 0 then b else g.pr q l := by
  by_cases hp : p = 0
  · simp [Group.setP, hp]
  · by_cases hq : q = p
    · subst hq
      by_cases h : l = lane
      · subst h
        cases b <;> simp [Group.setP, Group.pr, hp, hl]
      · have h2 : l < lane ∨ l - lane ≠ 0 := by omega
        have h3 : ¬ (l < lane) → l - lane ≠ 0 := by omega
        cases b
        · simp [Group.setP, Group.pr, hp, h, hl, h2]
        · simp [Group.setP, Group.pr, hp, h, hl]
          intro h4 h5; exact absurd h5 (h3 (by omega))
    · by_cases hq0 : q = 0
      · have : (0 : Nat) ≠ p := fun e => hp e.symm
        simp [Group.pr, hq0, this]
      · simp [Group.setP, Group.pr, hp, hq, hq0, SMap.get_set_ne]
@[simp] theorem xr_setP (g : Group) (p lane : Nat) (b : Bool) (q l : Nat) : (g.setP p lane b).xr q l = g.xr q l := by
  unfold Group.setP; split <;> rfl
@[simp] theorem ur_setP (g : Group) (p lane : Nat) (b : Bool) (q : Nat) : (g.setP p lane b).ur q = g.ur q := by
  unfold Group.setP; split <;> rfl
@[simp] theorem ur_setU_self (g : Group) (r : Nat) (v : W32) : (g.setU r v).ur r = v := SMap.get_set_self _ _ _ _
theorem ur_setU_ne (g : Group) {r q : Nat} (v : W32) (h : q ≠ r) : (g.setU r v).ur q = g.ur q := SMap.get_set_ne _ _ _ h
@[simp] theorem xr_setU (g : Group) (r : Nat) (v : W32) (q l : Nat) : (g.setU r v).xr q l = g.xr q l := rfl
@[simp] theorem pr_setU (g : Group) (r : Nat) (v : W32) (q l : Nat) : (g.setU r v).pr q l = g.pr q l := rfl

end Sys2Proof.Machine
end

