-- ==== Sys2Proof/Laws/Fields.lean ====
section
/-! SUPPORT. What an accepted register write comes to, and when nothing ends that has waited. -/
namespace Sys2Proof.Machine

theorem violates_touch (s : State) (a : Agent) (q : Nat) (b : Agent) (r : RRow) (o w be : Nat) :
    (s.touchReg a q).violates b r o w be = s.violates b r o w be := by
  cases a <;> rfl

theorem reg_touch (s : State) (a : Agent) (q o : Nat) : (s.touchReg a q).reg o = s.reg o := by
  cases a <;> rfl

/-- The offsets at which BAR0 shows no window: the Inventory mirror, the logs, the MSI-X structures and the component registers. -/
def plainReg (o : Nat) : Bool := !(inMirror o || inErrLog o || inViolLog o || inMsix o || inPba o || inComp o)

/-- An access of at least one byte covers the word at its offset. -/
theorem mem_wordsOf {o n : Nat} (h4 : o % 4 = 0) (hn : 0 < n) : o ∈ wordsOf o n :=
  List.mem_map.mpr ⟨0, List.mem_range.mpr (by omega), by omega⟩

theorem assigned_of_row {s : State} {o n : Nat} {r : RRow} (h4 : o % 4 = 0) (hn : 0 < n) (hr : findReg o = some (r, o))
    (hp : plainReg o = true) : s.assigned o n = true := by
  simp [plainReg] at hp
  exact List.any_eq_true.mpr ⟨o, mem_wordsOf h4 hn, by simp [State.word, hp, hr]⟩

theorem accWrite_reach {s : State} {a : Agent} {o : Nat} (n v : Nat) (h : s.reaches a o = true) :
    s.accWrite a o n v = (s.regWrite a o n v).1 := by
  cases a with
  | firmware => simp only [State.reaches] at h; simp [State.accWrite, h]
  | host =>
    simp only [State.reaches, Bool.and_eq_true, Bool.not_eq_true'] at h
    obtain ⟨⟨⟨⟨h1, h2⟩, h3⟩, h4⟩, h5⟩ := h
    simp [State.accWrite, h1, h2, h3, h4, h5]

/-- An accepted 32-bit write of a register: its fields take up the values, and the write's action follows. -/
theorem accWrite_ok {a : Agent} {s : State} {r : RRow} {o w : Nat} (h : WriteOk a s r o w) (hw : r.wide = false)
    (h4 : o % 4 = 0) (hp : plainReg o = true) (hc : o ≠ Reg.XLT_RING_CONS) :
    s.accWrite a o 4 w =
      (s.written a r o w).regAct a o w ((w &&& (2 ^ 32 - 1)).testBit 31) ((s.reg o).testBit 31) := by
  have hv : (s.touchReg a o).violates a r o w (2 ^ 32 - 1) = none := by
    have := h.ok; simp only [RRow.whole, hw] at this; rw [violates_touch]; exact this
  have hp' := hp
  simp [plainReg] at hp'
  rw [accWrite_reach 4 w h.here]
  simp [State.regWrite, assigned_of_row (n := 4) h4 (by omega) h.row hp, h4, State.write32, hp', h.row, hw, State.commitReg, hc, State.written,
    RRow.whole, reg_touch] at hv ⊢
  simp [hv]

/-- An accepted 64-bit write of a register. -/
theorem accWrite_wide {a : Agent} {s : State} {r : RRow} {o w : Nat} (h : WriteOk a s r o w) (hw : r.wide = true)
    (h8 : o % 8 = 0) (hp : plainReg o = true) (hc : o ≠ Reg.XLT_RING_CONS) :
    s.accWrite a o 8 w =
      (s.written a r o w).regAct a o w ((w &&& (2 ^ 64 - 1)).testBit 31) ((s.reg o).testBit 31) := by
  have hv : (s.touchReg a o).violates a r o w (2 ^ 64 - 1) = none := by
    have := h.ok; simp only [RRow.whole, hw] at this; rw [violates_touch]; exact this
  rw [accWrite_reach 8 w h.here]
  simp [State.regWrite, assigned_of_row (n := 8) (by omega) (by omega) h.row hp, h8, wideAt, h.row, hw, State.commitReg, hc, State.written,
    RRow.whole, reg_touch] at hv ⊢
  simp [hv]

theorem wakeCore_quiet {s : State} (h : Quiet s) (c : Nat) : s.wakeCore c = s := by
  have : ∀ l : List (Nat × Group), (∀ e, e ∈ l → (∀ a m, e.2.hold ≠ .fence a m) ∧ ∀ n, e.2.hold ≠ .xwait n) →
      l.foldl (fun (t : State) e =>
        match e.2.hold with
        | .fence l st => if (t.core c).pendingAny (l ++ st) then t else t.goOn c e.1 id
        | .xwait n => t.xwaitEnd c e.1 n
        | _ => t) s = s := by
    intro l
    induction l with
    | nil => intro _; rfl
    | cons e l ih =>
      intro hl
      have he := hl e (by simp)
      simp only [List.foldl_cons]
      have : (match e.2.hold with
        | .fence l st => if (s.core c).pendingAny (l ++ st) then s else s.goOn c e.1 id
        | .xwait n => s.xwaitEnd c e.1 n
        | _ => s) = s := by
        split
        · rename_i a m h1; exact absurd h1 (he.1 a m)
        · rename_i n h1; exact absurd h1 (he.2 n)
        · rfl
      rw [this]
      exact ih (fun e h => hl e (by simp [h]))
  exact this _ (h.holds c)

theorem reap_quiet {s : State} (h : Quiet s) : s.reap = s := by
  have inner : ∀ (c : Nat) (l : List (Nat × Team)), (∀ e, e ∈ l → e.2.st ≠ .stopping) →
      l.foldl (fun t e =>
        let k := t.core c
        if k.spent e.1 e.2 && !(match k.fault with | some f => f.team == e.1 | none => false) then t.freeTeamAt c e.1 else t) s = s := by
    intro c l
    induction l with
    | nil => intro _; rfl
    | cons e l ih =>
      intro hl
      simp only [List.foldl_cons]
      have : ((s.core c).spent e.1 e.2) = false := by simp [Core.spent, hl e (by simp)]
      simp only [this, Bool.false_and, Bool.false_eq_true, if_false]
      exact ih (fun e h => hl e (by simp [h]))
  have : ∀ l : List Nat, l.foldl (fun t c =>
    ((t.core c).teamList).foldl (fun t e =>
      let k := t.core c
      if k.spent e.1 e.2 && !(match k.fault with | some f => f.team == e.1 | none => false) then t.freeTeamAt c e.1 else t) t) s = s := by
    intro l
    induction l with
    | nil => rfl
    | cons c l ih => simp only [List.foldl_cons]; rw [inner c _ (h.teams c)]; exact ih
  exact this _

theorem get_mem_list {α : Type} (d : Nat → α) : ∀ (m : SMap α) (k : Nat), (∃ v, (k, v) ∈ m) → (k, SMap.get d m k) ∈ m
  | [], _, ⟨_, h⟩ => by simp at h
  | (j, v) :: r, k, ⟨w, h⟩ => by
    by_cases hk : k = j
    · subst hk; simp [SMap.get]
    · have : (k, w) ∈ r := by simpa [hk] using h
      simp [SMap.get, hk, get_mem_list d r k ⟨w, this⟩]

theorem sweepCmds_quiet {s : State} (h : Quiet s) : s.sweepCmds = s := by
  unfold State.sweepCmds
  rw [reap_quiet h]
  have inner : ∀ (e : Nat × Sq), (e.1, s.sq e.1) ∈ s.sqs → ∀ l : List Cmd, (∀ m, m ∈ l → m ∈ (s.sq e.1).cmds) → l.foldl (fun t c =>
      let t := if t.kernelOver e.1 c then (if descType c.desc = 1 then t.endCmd e.1 c.seq 0 0 else t.layerOver e.1 c) else t
      match t.cmd e.1 c.seq with
      | some c =>
        if t.cmdOver e.1 c then
          let pub := descFlag c.desc 0 && c.status != 4
          (if pub then t.publishClean (t.sq e.1).part else t).finishCmd e.1 { c with pub := pub }
        else t
      | none => t) s = s := by
    intro e he l
    induction l with
    | nil => intro _; rfl
    | cons c l ih =>
      intro hl
      simp only [List.foldl_cons]
      have h1 := (h.cmds _ he c (hl c (by simp))).1
      simp only [h1, Bool.false_eq_true, if_false]
      have : (match s.cmd e.1 c.seq with
        | some c => if s.cmdOver e.1 c then
            let pub := descFlag c.desc 0 && c.status != 4
            (if pub then s.publishClean (s.sq e.1).part else s).finishCmd e.1 { c with pub := pub } else s
        | none => s) = s := by
        split
        · rename_i d hd
          have : d ∈ (s.sq e.1).cmds := List.mem_of_find?_eq_some hd
          simp [(h.cmds _ he d this).2]
        · rfl
      rw [this]
      exact ih (fun m hm => hl m (by simp [hm]))
  have : ∀ l : List (Nat × Sq), (∀ e, e ∈ l → e ∈ s.sqs) → l.foldl (fun t e =>
    (t.sq e.1).cmds.foldl (fun t c =>
      let t := if t.kernelOver e.1 c then (if descType c.desc = 1 then t.endCmd e.1 c.seq 0 0 else t.layerOver e.1 c) else t
      match t.cmd e.1 c.seq with
      | some c =>
        if t.cmdOver e.1 c then
          let pub := descFlag c.desc 0 && c.status != 4
          (if pub then t.publishClean (t.sq e.1).part else t).finishCmd e.1 { c with pub := pub }
        else t
      | none => t) t) s = s := by
    intro l
    induction l with
    | nil => intro _; rfl
    | cons e l ih =>
      intro hl
      simp only [List.foldl_cons]
      have he : (e.1, s.sq e.1) ∈ s.sqs := get_mem_list sqDefault s.sqs e.1 ⟨e.2, hl e (by simp)⟩
      have hi := inner e he (s.sq e.1).cmds (fun m hm => hm)
      simp only [] at hi ⊢
      rw [hi]
      exact ih (fun e h => hl e (by simp [h]))
  exact this _ (fun _ h => h)

end Sys2Proof.Machine
end

