-- ==== Sys2Proof/Laws/Issue.lean ====
section
/-! SUPPORT. What the shared operations of core instructions do: events, the instruction cache, fetch, issue, the boundary rows
and retirement. -/
namespace Sys2Proof.Machine

/-! ### Event counters -/

theorem CNT_COUNT_isCount {k : Nat} (h : k < 32) : isCount (Fld.CNT_COUNT k).off = true := by
  have : (Fld.CNT_COUNT k).off = 0x1400800 + 0x8 * k := rfl
  simp only [isCount, this, Bool.and_eq_true, decide_eq_true_eq]; omega

theorem reg_bump_ne (s : State) (f : FRef) {o : Nat} (n : Nat) (h : o ≠ f.off) : (s.bump f n).reg o = s.reg o := reg_setFld_ne s f _ h

/-- An event writes nothing but event counters. -/
theorem event_regs (s : State) (a b e : Nat) : s.event a b e = { s with regs := (s.event a b e).regs } := by
  have fold : ∀ (l : List Nat) (t : State), ∃ r, l.foldl (fun (t : State) k =>
      if t.fld (Fld.CNT_SEL_UKIND k) = a && t.fld (Fld.CNT_SEL_UNIT k) = b && t.fld (Fld.CNT_SEL_EVENT k) = e then
        t.bump (Fld.CNT_COUNT k) 1 else t) t = { t with regs := r } := by
    intro l
    induction l with
    | nil => intro t; exact ⟨t.regs, rfl⟩
    | cons k l ih =>
      intro t
      simp only [List.foldl_cons]
      split
      · obtain ⟨r, h⟩ := ih (t.bump (Fld.CNT_COUNT k) 1)
        exact ⟨r, by rw [h]; rfl⟩
      · exact ih t
  unfold State.event
  split
  · obtain ⟨r, h⟩ := fold (List.range 32) s
    rw [h]
  · rfl

theorem event_reg (s : State) (a b e : Nat) {o : Nat} (ho : isCount o = false) : (s.event a b e).reg o = s.reg o := by
  have fold : ∀ (l : List Nat) (t : State), (∀ k ∈ l, k < 32) → (l.foldl (fun (t : State) k =>
      if t.fld (Fld.CNT_SEL_UKIND k) = a && t.fld (Fld.CNT_SEL_UNIT k) = b && t.fld (Fld.CNT_SEL_EVENT k) = e then
        t.bump (Fld.CNT_COUNT k) 1 else t) t).reg o = t.reg o := by
    intro l
    induction l with
    | nil => intro t _; rfl
    | cons k l ih =>
      intro t hl
      simp only [List.foldl_cons]
      have hk : o ≠ (Fld.CNT_COUNT k).off := by
        intro h; rw [h, CNT_COUNT_isCount (hl k (List.mem_cons_self ..))] at ho; cases ho
      split
      · rw [ih _ (fun j hj => hl j (List.mem_cons_of_mem _ hj)), reg_bump_ne _ _ _ hk]
      · exact ih t (fun j hj => hl j (List.mem_cons_of_mem _ hj))
  unfold State.event
  split
  · exact fold _ _ (fun k hk => List.mem_range.mp hk)
  · rfl

@[simp] theorem event_cores (s : State) (a b e : Nat) : (s.event a b e).cores = s.cores := by rw [event_regs]
@[simp] theorem event_walks (s : State) (a b e : Nat) : (s.event a b e).walks = s.walks := by rw [event_regs]
@[simp] theorem event_core (s : State) (a b e c : Nat) : (s.event a b e).core c = s.core c := by unfold State.core; rw [event_cores]

/-! ### The instruction cache -/

theorem get_mark (m : SMap L1Line) (k j : Nat) (b : Bool) :
    let v := SMap.get l1Default (SMap.set l1Default m k { SMap.get l1Default m k with used := b }) j
    v.valid = (SMap.get l1Default m j).valid ∧ v.line = (SMap.get l1Default m j).line ∧ v.asid = (SMap.get l1Default m j).asid := by
  by_cases h : j = k
  · subst h; simp
  · simp [SMap.get_set_ne _ _ _ h]

/-- Marking a way used leaves every tag. -/
theorem nruUse_tag (m : SMap L1Line) (set : Nat) (ways : List Nat) (w j : Nat) :
    let v := SMap.get l1Default (nruUse m set ways w) j
    v.valid = (SMap.get l1Default m j).valid ∧ v.line = (SMap.get l1Default m j).line ∧ v.asid = (SMap.get l1Default m j).asid := by
  have clear : ∀ (l : List Nat) (t : SMap L1Line),
      let v := SMap.get l1Default (l.foldl (fun t i => if i = w then t else
        SMap.set l1Default t (set * 8 + i) { SMap.get l1Default t (set * 8 + i) with used := false }) t) j
      v.valid = (SMap.get l1Default t j).valid ∧ v.line = (SMap.get l1Default t j).line ∧ v.asid = (SMap.get l1Default t j).asid := by
    intro l
    induction l with
    | nil => intro t; exact ⟨rfl, rfl, rfl⟩
    | cons i l ih =>
      intro t
      simp only [List.foldl_cons]
      split
      · exact ih t
      · obtain ⟨a, b, c⟩ := ih (SMap.set l1Default t (set * 8 + i) { SMap.get l1Default t (set * 8 + i) with used := false })
        obtain ⟨d, e, f⟩ := get_mark t (set * 8 + i) j false
        exact ⟨a.trans d, b.trans e, c.trans f⟩
  have m1 := get_mark m (set * 8 + w) j true
  simp only [nruUse]
  split
  · have := clear ways (SMap.set l1Default m (set * 8 + w) { SMap.get l1Default m (set * 8 + w) with used := true })
    exact ⟨this.1.trans m1.1, this.2.1.trans m1.2.1, this.2.2.trans m1.2.2⟩
  · exact m1

theorem nruFind_use (m : SMap L1Line) (set : Nat) (ways : List Nat) (w set' : Nat) (ways' : List Nat) (asid line : Nat) :
    nruFind (nruUse m set ways w) set' ways' asid line = nruFind m set' ways' asid line := by
  have h : ∀ i, let l := SMap.get l1Default (nruUse m set ways w) (set' * 8 + i)
      (l.valid && l.line == line && l.asid == asid) =
        (let l := SMap.get l1Default m (set' * 8 + i); l.valid && l.line == line && l.asid == asid) := by
    intro i
    obtain ⟨a, b, c⟩ := nruUse_tag m set ways w (set' * 8 + i)
    simp only [a, b, c]
  unfold nruFind
  congr 1
  funext i
  exact h i

/-- A look-up that hits only marks its way. -/
theorem nruTouch_hit {m : SMap L1Line} {ways : List Nat} {asid line : Nat} (old : Bool)
    (h : (nruFind m (line % 128) ways asid line).isSome = true) : ∃ w, nruTouch m ways asid line old = nruUse m (line % 128) ways w := by
  obtain ⟨w, hw⟩ := Option.isSome_iff_exists.mp h
  exact ⟨w, by simp [nruTouch, hw]⟩

/-- A fetch from a line that the instruction cache holds. -/
theorem fetchLine_hit {s : State} {x : Iss} {va : Nat} (h : s.lineIn x.c x.tm.tag va = true) :
    ∃ w, s.fetchLine x va = (s.modCore x.c (fun k => { k with ic := nruUse k.ic (va / 128 % 128) [0, 1, 2, 3] w }), .hit) := by
  obtain ⟨w, hw⟩ := nruTouch_hit (ways := [0, 1, 2, 3]) false h
  refine ⟨w, ?_⟩
  have h' : (nruFind (s.core x.c).ic (va / 128 % 128) [0, 1, 2, 3] x.tm.tag (va / 128)).isSome = true := h
  simp only [State.fetchLine, h', if_true]
  simp only [State.modCore, hw]

theorem lineIn_use (s : State) (c set w d tag va : Nat) :
    (s.modCore c (fun k => { k with ic := nruUse k.ic set [0, 1, 2, 3] w })).lineIn d tag va = s.lineIn d tag va := by
  unfold State.lineIn
  by_cases h : d = c
  · subst h; simp [nruFind_use]
  · rw [core_modCore_ne _ _ h]

/-- The words of an instruction whose lines are held: only used bits of the instruction cache change. -/
theorem fetchWords_hit {s : State} {x : Iss} (hA : s.lineIn x.c x.tm.tag x.g.pc.toNat = true)
    (hB : s.lineIn x.c x.tm.tag (x.g.pc.toNat + encLen x.w - 1) = true) :
    ∃ m, (s.fetchWords x).2 = .hit ∧ (s.fetchWords x).1.core x.c = { s.core x.c with ic := m } ∧
      (s.fetchWords x).1 = { s with cores := (s.fetchWords x).1.cores } ∧
      (∀ d, d ≠ x.c → (s.fetchWords x).1.core d = s.core d) := by
  obtain ⟨w, hw⟩ := fetchLine_hit hA
  unfold State.fetchWords
  simp only [hw]
  split
  · exact ⟨_, rfl, core_modCore _ _ _, rfl, fun d hd => core_modCore_ne _ _ hd⟩
  · obtain ⟨v, hv⟩ := fetchLine_hit (s := s.modCore x.c (fun k => { k with ic := nruUse k.ic (x.g.pc.toNat / 128 % 128) [0, 1, 2, 3] w }))
      (x := x) (va := x.g.pc.toNat + encLen x.w - 1) (by rw [lineIn_use]; exact hB)
    simp only [hv]
    exact ⟨_, trivial, by simp only [core_modCore]; rfl, rfl, fun d hd => by rw [core_modCore_ne _ _ hd, core_modCore_ne _ _ hd]⟩

/-! ### Issue -/

/-- Reading a group's spilled entries back changes nothing but its stack, and nothing at all where the core holds the stack whole. -/
theorem spillIn_eq (s : State) (c slot : Nat) (g : Group) :
    s.spillIn c slot g = { g with stack := (s.spillIn c slot g).stack } ∧ (g.stack.length ≤ 8 → s.spillIn c slot g = g) := by
  unfold State.spillIn
  split
  · exact ⟨rfl, fun _ => rfl⟩
  · rename_i h
    refine ⟨?_, fun h' => absurd h' h⟩
    split <;> rfl

/-- An issue makes the core Active, and dates the first of its kernel there. -/
theorem issues_eq (k : Core) (tm : Team) (now : W64) : ∃ l, k.issues tm now = { k with sleep := .active, began := k.began ++ l } := by
  unfold Core.issues
  split
  · exact ⟨[], by simp⟩
  · exact ⟨_, rfl⟩

/-- What a ready group issues: `x.g` is the group of its slot, with whatever it has waited for gone. -/
theorem ready_iss {s : State} {o : Op} {i : Issue} {x : Iss} (h : s.ready o i = some x) :
    x.c = i.core ∧ x.slot = i.grp ∧ x.w = i.w ∧ (∃ g, (s.core i.core).group i.grp = some g ∧ x.g = s.spillIn i.core i.grp { g with hold := .none }) ∧
      (s.core i.core).team x.g.team = some x.tm ∧ x.g.hold = .none ∧ x.tm.st = .running := by
  unfold State.ready at h
  simp only at h
  split at h
  · cases h
  · split at h
    · cases h
    · split at h
      · rename_i g hg _ tm ht hc
        cases h
        simp only [Bool.and_eq_true, decide_eq_true_eq] at hc
        have he := (spillIn_eq s i.core i.grp { g with hold := .none }).1
        refine ⟨rfl, rfl, rfl, ⟨g, hg, rfl⟩, ?_, ?_, hc.1.1.1.1.1.2⟩
        · rw [he]; exact ht
        · rw [he]
      · cases h

/-- An instruction that issues is carried out on the state after its fetch. -/
theorem issueRaw_next {o : Op} {i : Issue} {s : State} {x : Iss} (h : Issues o i s x) (f : Iss → State → State) :
    Fetched i s (s.fetched x) ∧ s.issueRaw o i f = f x (s.fetched x) := by
  obtain ⟨hc, hs, hw, hg, ht, hh, hr⟩ := ready_iss h.ready
  unfold State.fetched
  rw [hc]
  have hA : (s.modCore i.core (fun k => k.issues x.tm s.aon.newel)).lineIn x.c x.tm.tag x.g.pc.toNat = true := by
    have := h.lineA
    unfold State.lineIn at this ⊢
    rw [hc, core_modCore]; exact this
  have hB : (s.modCore i.core (fun k => k.issues x.tm s.aon.newel)).lineIn x.c x.tm.tag (x.g.pc.toNat + encLen x.w - 1) = true := by
    have := h.lineB
    unfold State.lineIn at this ⊢
    rw [hc, hw, core_modCore]; exact this
  obtain ⟨m, h2, h1, h3, h4⟩ := fetchWords_hit hA hB
  obtain ⟨l, hl⟩ := issues_eq (s.core i.core) x.tm s.aon.newel
  generalize hv : (s.modCore i.core (fun k => k.issues x.tm s.aon.newel)).fetchWords x = v at *
  obtain ⟨v, r⟩ := v
  simp only at h2 h1 h3 h4
  subst h2
  refine ⟨⟨?_, ?_, ⟨m, l, ?_⟩, ?_⟩, ?_⟩
  · rw [event_regs, h3]; rfl
  · intro c hne
    rw [event_core, h4 c (by rw [hc]; exact hne), core_modCore_ne _ _ hne]
  · rw [event_core]; rw [hc] at h1; rw [h1, core_modCore, hl]
  · intro off ho
    rw [event_reg _ _ _ _ ho, h3]; rfl
  · have hl : legal o x.w = true := by rw [hw]; exact h.legal
    simp only [State.issueRaw, State.whenRuns, h.runs, if_true, h.ready, hv, hl, h.names, decide_true, Bool.and_self]

theorem issue_next {o : Op} {i : Issue} {s : State} {x : Iss} (h : Goes o i s x) (f : Iss → State → State) :
    Fetched i s (s.fetched x) ∧ s.issue o i f = f x (s.fetched x) := by
  obtain ⟨hu, he⟩ := issueRaw_next h.toIssues (fun x s => if x.rangeBad (xNamed o x.w) then s.faultOf x 4 x.g.act 0 else f x s)
  refine ⟨hu, ?_⟩
  have hw := (ready_iss h.ready).2.2.1
  unfold State.issue
  rw [he, hw, h.range]
  simp

/-! ### The boundary rows (R97) -/

/-- The rows only move the path: its pc, active threads and stack. -/
structure PathOnly (g h : Group) : Prop where
  eq : h = { g with pc := h.pc, act := h.act, stack := h.stack }

theorem PathOnly.rfl' (g : Group) : PathOnly g g := ⟨rfl⟩

theorem PathOnly.trans {g h k : Group} (a : PathOnly g h) (b : PathOnly h k) : PathOnly g k := ⟨by rw [b.eq, a.eq]⟩

theorem boundaryStep_only {r r' : PathRes} (h : boundaryStep r = some r') : PathOnly r.g r'.g := by
  unfold boundaryStep at h
  repeat' split at h
  all_goals first
    | (cases h; exact ⟨rfl⟩)
    | cases h

theorem boundaryN_only (n : Nat) (r : PathRes) : PathOnly r.g (boundaryN n r).g := by
  induction n generalizing r with
  | zero => exact PathOnly.rfl' _
  | succ n ih =>
    simp only [boundaryN]
    split
    · rename_i r' h; exact (boundaryStep_only h).trans (ih r')
    · exact PathOnly.rfl' _

theorem goto_only (g : Group) (pc : W64) : PathOnly g (g.goto pc).g :=
  (PathOnly.mk rfl : PathOnly g { g with pc := pc }).trans (boundaryN_only _ ({ g with pc := pc } : Group).path)

theorem boundaryStep_short {r r' : PathRes} (h : boundaryStep r = some r') (hs : r.g.stack.length ≤ 8) :
    r'.n = r.n ∧ r'.g.stack.length ≤ 8 := by
  have hn : ¬ (r.g.stack.length > 8) := by omega
  unfold boundaryStep at h
  repeat' split at h
  all_goals first
    | (cases h; simp only [PathRes.pop, PathRes.act, hn, if_false, List.length_tail]; exact ⟨trivial, by omega⟩)
    | cases h

/-- A stack that the core holds whole spills and fills nothing at a boundary. -/
theorem boundaryN_short (n : Nat) (r : PathRes) (hs : r.g.stack.length ≤ 8) : (boundaryN n r).n = r.n := by
  induction n generalizing r with
  | zero => rfl
  | succ n ih =>
    simp only [boundaryN]
    split
    · rename_i r' h
      obtain ⟨a, b⟩ := boundaryStep_short h hs
      rw [ih r' b, a]
    · rfl

theorem goto_short {g : Group} (pc : W64) (hs : g.stack.length ≤ 8) : (g.goto pc).n = 0 := boundaryN_short _ ({ g with pc := pc } : Group).path hs

/-- With an empty stack the path simply runs on. -/
theorem goto_nil {g : Group} (pc : W64) (h : g.stack = []) : g.goto pc = ({ g with pc := pc } : Group).path := by
  have : boundaryStep ({ g with pc := pc } : Group).path = none := by simp [boundaryStep, Group.path, h]
  simp only [Group.goto, boundary, boundaryN, this]

/-! ### Retirement -/

theorem dropLeaves_walks (s : State) (st : Stream) : s.dropLeaves st = { s with walks := (s.dropLeaves st).walks } := by
  unfold State.dropLeaves; split <;> rfl

@[simp] theorem dropLeaves_core (s : State) (st : Stream) (c : Nat) : (s.dropLeaves st).core c = s.core c := by
  unfold State.core; rw [dropLeaves_walks]

@[simp] theorem dropLeaves_reg (s : State) (st : Stream) (o : Nat) : (s.dropLeaves st).reg o = s.reg o := by
  unfold State.reg; rw [dropLeaves_walks]

/-- Putting a path back that spilled nothing. -/
theorem putPath_zero (s : State) (c slot : Nat) {r : PathRes} (h : r.n = 0) :
    s.putPath c slot r = s.modCore c (fun k => k.setGroup slot (some r.g)) := by simp [State.putPath, h]

/-- An instruction that writes only its group's registers: what it leaves as it was. -/
theorem retire_next {i : Issue} {s u : State} {x : Iss} (hu : Fetched i s u) (hc : x.c = i.core) (hs : x.slot = i.grp) (g : Group)
    (hst : g.stack.length ≤ 8) :
    OnlyGroup i s (u.retire x g) ∧ ((u.retire x g).core i.core).group i.grp = some (g.goto (nextPc x.w g)).g := by
  have hn := goto_short (nextPc x.w g) hst
  have he : u.retire x g = (u.modCore i.core (fun k => k.setGroup i.grp (some (g.goto (nextPc x.w g)).g))).dropLeaves x.stream := by
    unfold State.retire
    rw [putPath_zero _ _ _ hn, hc, hs]
  obtain ⟨m, l, hm⟩ := hu.core
  rw [he]
  refine ⟨⟨?_, ?_, ?_, ⟨l, ?_⟩, ?_, ?_⟩, ?_⟩
  · rw [dropLeaves_walks]
    simp only [State.modCore, State.setCore]
    rw [hu.rest]
  · intro c hne
    rw [dropLeaves_core, core_modCore_ne _ _ hne, hu.cores c hne]
  · rw [dropLeaves_core, core_modCore, hm]; rfl
  · rw [dropLeaves_core, core_modCore, hm]; rfl
  · intro g' hne
    rw [dropLeaves_core, core_modCore, group_setGroup_ne _ _ hne, hm]; rfl
  · intro off ho
    rw [dropLeaves_reg]
    exact hu.regs off ho
  · rw [dropLeaves_core, core_modCore, group_setGroup]

end Sys2Proof.Machine
end

