-- ==== Sys2Proof/Laws/Memory.lean ====
section
/-! SUPPORT. Memory: reading a byte after a write, and the canonical form that every operation on the list keeps. -/
namespace Sys2Proof.Machine

theorem memFind_del_self (m : List Host.Cell) (a : Nat) : memFind (SMap.del m a) a = none := by
  induction m with
  | nil => rfl
  | cons e r ih =>
    obtain ⟨j, w⟩ := e
    by_cases h : a = j
    · subst h; simpa [SMap.del] using ih
    · simp [SMap.del, memFind, h, ih]

theorem memFind_del_ne (m : List Host.Cell) {a b : Nat} (h : b ≠ a) : memFind (SMap.del m a) b = memFind m b := by
  induction m with
  | nil => rfl
  | cons e r ih =>
    obtain ⟨j, w⟩ := e
    by_cases h1 : a = j
    · subst h1; simp [SMap.del, memFind, h, ih]
    · simp [SMap.del, memFind, h1, ih]

theorem memFind_put_self (m : List Host.Cell) (a : Nat) (v : Byte) : memFind (SMap.put (SMap.del m a) a v) a = some v := by
  induction m with
  | nil => simp [SMap.del, SMap.put, memFind]
  | cons e r ih =>
    obtain ⟨j, w⟩ := e
    by_cases h : a = j
    · subst h; simpa [SMap.del] using ih
    · by_cases h2 : a < j <;> simp [SMap.del, SMap.put, memFind, h, h2, ih]

theorem memFind_put_ne (m : List Host.Cell) {a b : Nat} (v : Byte) (h : b ≠ a) : memFind (SMap.put m a v) b = memFind m b := by
  induction m with
  | nil => simp [SMap.put, memFind, h]
  | cons e r ih =>
    obtain ⟨j, w⟩ := e
    by_cases h2 : a < j <;> simp [SMap.put, memFind, h2, h, ih]

/-- The byte written is the byte read. -/
@[simp] theorem byteAt_setByte_self (s : State) (a : Nat) (v : Byte) : (s.setByte a v).byteAt a = v := by
  by_cases h : unlisted a = some v
  · have hh : isHbm a = false := by
      cases hb : isHbm a
      · rfl
      · simp [unlisted, hb] at h
    simp only [unlisted, hh, Bool.false_eq_true, if_false, Option.some.injEq] at h
    simp [State.setByte, State.byteAt, memSet, unlisted, hh, h, memFind_del_self]
  · simp [State.setByte, State.byteAt, memSet, h, memFind_put_self]

/-- A write of one byte leaves every other byte as it read. -/
theorem byteAt_setByte_ne (s : State) {a b : Nat} (v : Byte) (h : b ≠ a) : (s.setByte a v).byteAt b = s.byteAt b := by
  by_cases hv : unlisted a = some v
  · simp [State.setByte, State.byteAt, memSet, hv, memFind_del_ne _ h]
  · simp [State.setByte, State.byteAt, memSet, hv, memFind_put_ne _ v h, memFind_del_ne _ h]

/-! ### The canonical form -/

theorem memWfFrom_some {m : List Host.Cell} {b : Option Nat} {j : Nat} (h : memWfFrom (some j) m = true)
    (hb : ∀ c, b = some c → c < j) : memWfFrom b m = true := by
  cases m with
  | nil => rfl
  | cons e r =>
    simp only [memWfFrom, Bool.and_eq_true, decide_eq_true_eq] at h ⊢
    refine ⟨⟨?_, h.1.2⟩, h.2⟩
    cases b with
    | none => rfl
    | some c => simpa using Nat.lt_trans (hb c rfl) h.1.1

theorem memWfFrom_del {m : List Host.Cell} {a : Nat} {b : Option Nat} (h : memWfFrom b m = true) :
    memWfFrom b (SMap.del m a) = true := by
  induction m generalizing b with
  | nil => rfl
  | cons e r ih =>
    obtain ⟨j, w⟩ := e
    simp only [memWfFrom, Bool.and_eq_true] at h
    obtain ⟨⟨hj, hw⟩, hr⟩ := h
    by_cases h1 : a = j
    · simp only [SMap.del, h1, if_true]
      refine memWfFrom_some (h1 ▸ ih hr) ?_
      intro c hc; subst hc; simpa using hj
    · simp only [SMap.del, h1, if_false, memWfFrom, Bool.and_eq_true]
      exact ⟨⟨hj, hw⟩, ih hr⟩

theorem memWfFrom_put {m : List Host.Cell} {a : Nat} {v : Byte} {b : Option Nat} (h : memWfFrom b (SMap.del m a) = true)
    (hb : ∀ c, b = some c → c < a) (hv : unlisted a ≠ some v) : memWfFrom b (SMap.put (SMap.del m a) a v) = true := by
  induction m generalizing b with
  | nil =>
    simp only [SMap.del, SMap.put, memWfFrom, Bool.and_eq_true, decide_eq_true_eq]
    exact ⟨⟨by cases b with | none => rfl | some c => simpa using hb c rfl, hv⟩, trivial⟩
  | cons e r ih =>
    obtain ⟨j, w⟩ := e
    by_cases h1 : a = j
    · simp only [SMap.del, h1, if_true] at h ⊢
      exact h1 ▸ ih (h1 ▸ h) hb
    · simp only [SMap.del, h1, if_false] at h ⊢
      simp only [memWfFrom, Bool.and_eq_true] at h
      obtain ⟨⟨hj, hw⟩, hr⟩ := h
      by_cases h2 : a < j
      · simp only [SMap.put, h2, if_true, memWfFrom, Bool.and_eq_true, decide_eq_true_eq]
        exact ⟨⟨by cases b with | none => rfl | some c => simpa using hb c rfl, hv⟩, ⟨trivial, by simpa using hw⟩, hr⟩
      · simp only [SMap.put, h2, if_false, memWfFrom, Bool.and_eq_true]
        exact ⟨⟨hj, hw⟩, ih hr (by intro c hc; cases hc; omega)⟩

/-- A write of one byte keeps the canonical form. -/
theorem memSet_wf {m : List Host.Cell} (a : Nat) (v : Byte) (h : Memory.wf m = true) : Memory.wf (memSet m a v) = true := by
  by_cases hv : unlisted a = some v
  · simpa [Memory.wf, memSet, hv] using memWfFrom_del h
  · simp only [Memory.wf, memSet, hv, if_false]
    exact memWfFrom_put (memWfFrom_del h) (by intro c hc; cases hc) hv

@[simp] theorem setByte_mem (s : State) (a : Nat) (v : Byte) : (s.setByte a v).mem = memSet s.mem a v := rfl

theorem setByte_wf {s : State} (a : Nat) (v : Byte) (h : Memory.wf s.mem = true) : Memory.wf (s.setByte a v).mem = true :=
  memSet_wf a v h

/-- A write of consecutive bytes keeps the canonical form. -/
theorem setArr_wf {s : State} (a : Nat) (l : List Byte) (h : Memory.wf s.mem = true) : Memory.wf (s.setArr a l).mem = true := by
  induction l generalizing s a with
  | nil => exact h
  | cons v r ih => exact ih (s := s.setByte a v) (a + 1) (setByte_wf a v h)

theorem setArrPoison_mem (s : State) (a : Nat) (b : Bool) : (s.setArrPoison a b).mem = s.mem := by
  by_cases h : isHbm a = true
  · by_cases h2 : (b && !s.arrPoison a && decide (s.poisonUsed (s.stackOf a) ≥ 1024)) = true
    · simp [State.setArrPoison, h, h2]
    · simp only [State.setArrPoison, h, if_true, h2]; rfl
  · simp [State.setArrPoison, h]

theorem setArrSec_wf {s : State} (a : Nat) (d : List Byte) (p : Bool) (h : Memory.wf s.mem = true) :
    Memory.wf (s.setArrSec a d p).mem = true := by
  simp only [State.setArrSec, setArrPoison_mem]
  exact setArr_wf _ _ h

theorem memWfFrom_filter {m : List Host.Cell} (f : Host.Cell → Bool) {b : Option Nat} (h : memWfFrom b m = true) :
    memWfFrom b (m.filter f) = true := by
  induction m generalizing b with
  | nil => rfl
  | cons e r ih =>
    obtain ⟨j, w⟩ := e
    simp only [memWfFrom, Bool.and_eq_true] at h
    obtain ⟨⟨hj, hw⟩, hr⟩ := h
    by_cases hf : f (j, w) = true
    · simp only [List.filter_cons, hf, if_true, memWfFrom, Bool.and_eq_true]
      exact ⟨⟨hj, hw⟩, ih hr⟩
    · simp only [List.filter_cons, hf]
      exact memWfFrom_some (ih hr) (by intro c hc; subst hc; simpa using hj)

/-- Dropping entries keeps the canonical form. -/
theorem filter_wf {m : List Host.Cell} (f : Host.Cell → Bool) (h : Memory.wf m = true) : Memory.wf (m.filter f) = true :=
  memWfFrom_filter f h

/-! ### Writes of runs -/

/-- A state that differs from another only in the contents of memory and the caches below the cores, and in registers. -/
structure MemOnly (s t : State) : Prop where
  eq : t = { s with l2 := t.l2, msc := t.msc, mem := t.mem, hpoison := t.hpoison, gpoison := t.gpoison, regs := t.regs }
  regs : ∀ o, o < 0x600A0 ∨ 0x600C0 ≤ o → t.reg o = s.reg o

theorem MemOnly.rfl' (s : State) : MemOnly s s := ⟨rfl, fun _ _ => rfl⟩
theorem MemOnly.trans {s t u : State} (a : MemOnly s t) (b : MemOnly t u) : MemOnly s u :=
  ⟨by rw [b.eq, a.eq], fun o h => (b.regs o h).trans (a.regs o h)⟩
theorem MemOnly.cores {s t : State} (h : MemOnly s t) : t.cores = s.cores := by rw [h.eq]

theorem MemOnly.foldl {α : Type} {f : State → α → State} (hf : ∀ s a, MemOnly s (f s a)) : ∀ (l : List α) (s : State), MemOnly s (l.foldl f s) := by
  intro l
  induction l with
  | nil => intro s; exact MemOnly.rfl' s
  | cons a l ih => intro s; exact (hf s a).trans (ih _)

theorem nthSet_lt : ∀ (n m j : Nat), nthSet n m j < 8
  | 0, _, _ => by simp [nthSet]
  | n + 1, m, j => by
    unfold nthSet
    split
    · split
      · omega
      · exact nthSet_lt n m _
    · exact nthSet_lt n m j

theorem setArrPoison_only (s : State) (a : Nat) (b : Bool) : MemOnly s (s.setArrPoison a b) := by
  simp only [State.setArrPoison]
  split
  · split
    · exact MemOnly.rfl' s
    · refine ⟨rfl, ?_⟩
      intro o ho
      have hk : s.stackOf a < 8 := nthSet_lt _ _ _
      have : o ≠ 0x600A0 + 0x4 * s.stackOf a := by omega
      simp only [State.setFld, State.setReg, State.reg, Fld.L2C_HBM_POISON_USED]
      rw [SMap.get_set_ne _ _ _ this]
  · exact ⟨rfl, fun _ _ => rfl⟩

theorem setL2Sec_only (s : State) (pa : Nat) (x : Sector) : MemOnly s (s.setL2Sec pa x) := by
  unfold State.setL2Sec
  split <;> exact ⟨rfl, fun _ _ => rfl⟩

theorem setMsc_only (s : State) (a : Nat) (x : Option MscSec) : MemOnly s (s.setMsc a x) := by
  unfold State.setMsc
  split <;> exact ⟨rfl, fun _ _ => rfl⟩

theorem storeSec_only (s : State) (a : Nat) (bs : List (Nat × Byte)) : MemOnly s (s.storeSec a bs) := by
  simp only [State.storeSec]
  split
  · exact setL2Sec_only _ _ _
  · split
    · exact setMsc_only _ _ _
    · have h := MemOnly.foldl (f := fun (t : State) (b : Nat × Byte) => t.setByte (a / 64 * 64 + b.1) b.2) (fun _ _ => ⟨rfl, fun _ _ => rfl⟩) bs s
      split
      · exact h.trans (setArrPoison_only _ _ _)
      · exact h

theorem storeRun_only (s : State) (a : Nat) (d : List Byte) : MemOnly s (s.storeRun a d) := by
  simp only [State.storeRun]
  exact MemOnly.foldl (fun t i => storeSec_only t _ _) _ _

theorem storeRun_cores (s : State) (a : Nat) (d : List Byte) : (s.storeRun a d).cores = s.cores := (storeRun_only s a d).cores

end Sys2Proof.Machine
end

