-- ==== Sys2Proof/Laws/Lanes.lean ====
section
/-! SUPPORT. What the operations on lanes write, and what the instructions built on them do. -/
namespace Sys2Proof.Machine

theorem lt_of_mem_takers {w : Enc} {g : Group} {l : Nat} (h : l ∈ takers w g) : l < 32 := by
  simp only [takers, lanesOf, lanes32, List.mem_filter, List.mem_range] at h
  exact h.1.1

/-- Only the registers of a group are written. -/
structure RegsOnly (g h : Group) : Prop where
  eq : h = { g with x := h.x, u := h.u, p := h.p }

theorem RegsOnly.rfl' (g : Group) : RegsOnly g g := ⟨rfl⟩
theorem RegsOnly.trans {g h k : Group} (a : RegsOnly g h) (b : RegsOnly h k) : RegsOnly g k := ⟨by rw [b.eq, a.eq]⟩
theorem setX_only (g : Group) (r l : Nat) (v : W32) : RegsOnly g (g.setX r l v) := by
  unfold Group.setX; split <;> exact ⟨rfl⟩
theorem setP_only (g : Group) (p l : Nat) (b : Bool) : RegsOnly g (g.setP p l b) := by
  unfold Group.setP; split <;> exact ⟨rfl⟩
theorem setU_only (g : Group) (r : Nat) (v : W32) : RegsOnly g (g.setU r v) := ⟨rfl⟩

/-- Writing a register in each lane of a list. -/
structure LanesX (g h : Group) (ls : List Nat) (r : Nat) (f : Nat → W32) : Prop where
  hit  : r ≠ 255 → ∀ l ∈ ls, h.xr r l = f l
  miss : ∀ q l, l < 32 → ¬ (q = r ∧ r ≠ 255 ∧ l ∈ ls) → h.xr q l = g.xr q l
  u    : ∀ q, h.ur q = g.ur q
  p    : ∀ q l, h.pr q l = g.pr q l
  only : RegsOnly g h

theorem writeLanes_spec (r : Nat) (f : Nat → W32) : ∀ (ls : List Nat), (∀ l ∈ ls, l < 32) → ∀ g : Group,
    LanesX g (g.writeLanes ls r f) ls r f := by
  intro ls
  induction ls with
  | nil => intro _ g; exact ⟨by simp, fun _ _ _ _ => rfl, fun _ => rfl, fun _ _ => rfl, RegsOnly.rfl' _⟩
  | cons a ls ih =>
    intro hl g
    have ha : a < 32 := hl a (List.mem_cons_self ..)
    obtain ⟨h1, h2, h3, h4, h5⟩ := ih (fun l hm => hl l (List.mem_cons_of_mem _ hm)) (g.setX r a (f a))
    refine ⟨?_, ?_, ?_, ?_, ?_⟩
    · intro hr l hm
      by_cases hin : l ∈ ls
      · exact h1 hr l hin
      · have : l = a := by cases hm with | head => rfl | tail _ h => exact absurd h hin
        subst this
        rw [show g.writeLanes (l :: ls) r f = (g.setX r l (f l)).writeLanes ls r f from rfl, h2 r l ha (fun h => hin h.2.2),
          xr_setX _ _ _ _ _ _ ha ha]
        simp [hr]
    · intro q l hl' hn
      rw [show g.writeLanes (a :: ls) r f = (g.setX r a (f a)).writeLanes ls r f from rfl,
        h2 q l hl' (fun h => hn ⟨h.1, h.2.1, List.mem_cons_of_mem _ h.2.2⟩), xr_setX _ _ _ _ _ _ ha hl']
      have : ¬ (q = r ∧ l = a ∧ r ≠ 255) := fun h => hn ⟨h.1, h.2.2, by rw [h.2.1]; exact List.mem_cons_self ..⟩
      simp only [this, if_false]
    · intro q; rw [← ur_setX g r a (f a) q]; exact h3 q
    · intro q l; rw [← pr_setX g r a (f a) q l]; exact h4 q l
    · exact (setX_only _ _ _ _).trans h5

/-- Writing a predicate in each lane of a list. -/
structure LanesP (g h : Group) (ls : List Nat) (r : Nat) (f : Nat → Bool) : Prop where
  hit  : r ≠ 0 → ∀ l ∈ ls, h.pr r l = f l
  miss : ∀ q l, l < 32 → ¬ (q = r ∧ r ≠ 0 ∧ l ∈ ls) → h.pr q l = g.pr q l
  x    : ∀ q l, h.xr q l = g.xr q l
  u    : ∀ q, h.ur q = g.ur q
  only : RegsOnly g h

theorem writePreds_spec (r : Nat) (f : Nat → Bool) : ∀ (ls : List Nat), (∀ l ∈ ls, l < 32) → ∀ g : Group,
    LanesP g (g.writePreds ls r f) ls r f := by
  intro ls
  induction ls with
  | nil => intro _ g; exact ⟨by simp, fun _ _ _ _ => rfl, fun _ _ => rfl, fun _ => rfl, RegsOnly.rfl' _⟩
  | cons a ls ih =>
    intro hl g
    have ha : a < 32 := hl a (List.mem_cons_self ..)
    obtain ⟨h1, h2, h3, h4, h5⟩ := ih (fun l hm => hl l (List.mem_cons_of_mem _ hm)) (g.setP r a (f a))
    refine ⟨?_, ?_, ?_, ?_, ?_⟩
    · intro hr l hm
      by_cases hin : l ∈ ls
      · exact h1 hr l hin
      · have : l = a := by cases hm with | head => rfl | tail _ h => exact absurd h hin
        subst this
        rw [show g.writePreds (l :: ls) r f = (g.setP r l (f l)).writePreds ls r f from rfl, h2 r l ha (fun h => hin h.2.2),
          pr_setP _ _ _ _ _ _ ha]
        simp [hr]
    · intro q l hl' hn
      rw [show g.writePreds (a :: ls) r f = (g.setP r a (f a)).writePreds ls r f from rfl,
        h2 q l hl' (fun h => hn ⟨h.1, h.2.1, List.mem_cons_of_mem _ h.2.2⟩), pr_setP _ _ _ _ _ _ hl']
      have : ¬ (q = r ∧ l = a ∧ r ≠ 0) := fun h => hn ⟨h.1, h.2.2, by rw [h.2.1]; exact List.mem_cons_self ..⟩
      simp only [this, if_false]
    · intro q l; rw [← xr_setP g r a (f a) q l]; exact h3 q l
    · intro q; rw [← ur_setP g r a (f a) q]; exact h4 q
    · exact (setP_only _ _ _ _).trans h5

/-! ### The group after the boundary -/

theorem goto_path {g : Group} (pc : W64) (h : g.stack = []) : (g.goto pc).g = { g with pc := pc } := by rw [goto_nil pc h]; rfl

theorem goto_regs (g : Group) (pc : W64) : (∀ r l, (g.goto pc).g.xr r l = g.xr r l) ∧ (∀ r, (g.goto pc).g.ur r = g.ur r) ∧
    (∀ r l, (g.goto pc).g.pr r l = g.pr r l) := by
  have h := (goto_only g pc).eq
  refine ⟨fun r l => ?_, fun r => ?_, fun r l => ?_⟩ <;> rw [h] <;> rfl

/-- The group that runs on after its registers were written. -/
theorem wrote_of {g k : Group} {px pu pp} (pc : W64) (ho : RegsOnly g k)
    (hx : ∀ r l, l < 32 → ¬ px r l → k.xr r l = g.xr r l) (hu : ∀ r, ¬ pu r → k.ur r = g.ur r)
    (hp : ∀ r l, l < 32 → ¬ pp r l → k.pr r l = g.pr r l) : Wrote g (k.goto pc).g px pu pp := by
  obtain ⟨a, b, c⟩ := goto_regs k pc
  refine ⟨fun r l hl hn => by rw [a, hx r l hl hn], fun r hn => by rw [b, hu r hn], fun r l hl hn => by rw [c, hp r l hl hn], ?_⟩
  have h := (goto_only k pc).eq
  rw [h, ho.eq]

theorem stopTeam_group (k : Core) (t g : Nat) : (k.stopTeam t).group g = k.group g := by unfold Core.stopTeam; split <;> rfl

theorem modCore_group (s : State) (c : Nat) (f : Core → Core) (hf : ∀ k g, (f k).group g = k.group g) (d g : Nat) :
    ((s.modCore c f).core d).group g = (s.core d).group g := by
  by_cases h : d = c
  · subst h; rw [core_modCore, hf]
  · rw [core_modCore_ne _ _ h]

theorem stopKernel_group (s : State) (q seq d g : Nat) : ((s.stopKernel q seq).core d).group g = (s.core d).group g := by
  have inner : ∀ (c : Nat) (l : List (Nat × Team)) (t : State),
      ((l.foldl (fun (u : State) e => u.modCore c (fun k => k.stopTeam e.1)) t).core d).group g = (t.core d).group g := by
    intro c l
    induction l with
    | nil => intro t; rfl
    | cons e l ih => intro t; rw [List.foldl_cons, ih, modCore_group _ _ _ (fun k g => stopTeam_group k e.1 g)]
  have outer : ∀ (l : List Nat) (t : State), ((l.foldl (fun st c =>
      ((st.core c).teamList.filter (fun e => e.2.q == q && e.2.seq == seq)).foldl
        (fun st' e => st'.modCore c (fun k => k.stopTeam e.1)) st) t).core d).group g = (t.core d).group g := by
    intro l
    induction l with
    | nil => intro t; rfl
    | cons c l ih => intro t; rw [List.foldl_cons, ih, inner]
  exact outer _ s

/-- A fault stops teams; no group leaves its slot. -/
theorem raiseFaultAt_group (s : State) (c sl code : Nat) (pc : W64) (mask : W32) (addr : W64) (d g : Nat) :
    ((s.raiseFaultAt c sl code pc mask addr).core d).group g = (s.core d).group g := by
  unfold State.raiseFaultAt
  simp only
  split
  · rfl
  · split
    · rfl
    · have e : ∀ (t : State) (q seq st dt : Nat), (t.endCmd q seq st dt).core d = t.core d := fun _ _ _ _ _ => rfl
      rw [e, stopKernel_group, modCore_group _ _ _ (fun k g => stopTeam_group k _ g)]
      split
      · refine (modCore_group _ _ _ ?_ d g).trans rfl
        exact fun _ _ => rfl
      · rfl

/-- A path put back stands in its slot, whatever its stack. -/
theorem putPath_group (u : State) (c slot : Nat) (r : PathRes) : ((u.putPath c slot r).core c).group slot = some r.g := by
  have st : ∀ (t : State) (n low : Nat) (st : List PathEnt), ((t.bump (Fld.CORE_SPILL_CNT_COUNT c) n).writeSpill c slot low st).core c = t.core c := by
    intro t n low st
    unfold State.writeSpill
    split
    · rfl
    · rw [State.core, storeRun_cores]; rfl
  unfold State.putPath
  simp only
  split
  · simp
  · split
    · rw [raiseFaultAt_group, st]; simp
    · rw [st]; simp

/-- After retirement the group stands in its slot, whatever its stack. -/
theorem retire_group (u : State) (x : Iss) (g : Group) :
    ((u.retire x g).core x.c).group x.slot = some (g.goto (nextPc x.w g)).g := by
  unfold State.retire
  rw [dropLeaves_core, putPath_group]

/-- What the retirement of an instruction that wrote `g'` over the registers of its group leaves. -/
theorem ran_retire {o : Op} {i : Issue} {s u : State} {x : Iss} (h : State.ready s o i = some x) (hu : Fetched i s u) {g : Group}
    (ho : RegsOnly x.g g) : Ran i s (u.retire x g) x (g.goto (nextPc x.w g)).g := by
  obtain ⟨hc, hs, hw, -⟩ := ready_iss h
  have hst : g.stack = x.g.stack := by rw [ho.eq]
  have hpc : nextPc x.w g = nextPc i.w x.g := by rw [nextPc, nextPc, hw, ho.eq]
  refine ⟨?_, ?_, ?_⟩
  · have := retire_group u x g
    rw [hc, hs] at this; exact this
  · intro he
    rw [goto_path _ (by rw [hst]; exact he), hpc]
    exact ⟨rfl, by rw [ho.eq], by rw [ho.eq]; exact he⟩
  · intro hl
    exact (retire_next hu hc hs g (by rw [hst]; exact hl)).1

/-- What an instruction built on `laneOp` does when it is not uniform. -/
theorem laneOp_next {o : Op} {i : Issue} {s : State} {x : Iss} (h : Goes o i s x) (hU : (mayU o && isU i.w) = false)
    (f : Iss → W32 → W32 → W32 → W32) :
    WritesX i s x (fun l => f x (srcA i.w x.g l) (srcB i.w x.g l) (srcC i.w x.g l)) (s.laneOp o i f) := by
  obtain ⟨hu, he⟩ := issue_next h (fun x s =>
    s.retire x
      (if mayU o && isU x.w then x.g.setU (rDst x.w) (f x (uSrcA x.w x.g) (uSrcB x.w x.g) 0)
       else x.g.writeLanes (takers x.w x.g) (rDst x.w)
        (fun l => f x (srcA x.w x.g l) (srcB x.w x.g l) (srcC x.w x.g l))))
  have hw := (ready_iss h.ready).2.2.1
  simp only [hw, hU] at he
  have sp := writeLanes_spec (rDst i.w) (fun l => f x (srcA i.w x.g l) (srcB i.w x.g l) (srcC i.w x.g l)) (takers i.w x.g)
    (fun _ => lt_of_mem_takers) x.g
  have hr := ran_retire h.ready hu sp.only
  unfold State.laneOp
  rw [he]
  refine ⟨_, hr, ?_, wrote_of _ sp.only ?_ (fun r _ => sp.u r) (fun r l _ _ => sp.p r l)⟩
  · intro h255 l hl
    rw [(goto_regs _ _).1, sp.hit h255 l hl]
  · intro r l hl hn
    exact sp.miss r l hl (fun hh => hn ⟨hh.1, by rw [hh.1]; exact hh.2.1, hh.2.2⟩)

/-- An instruction that writes its lanes by a function of its own. -/
theorem writeX_next {o : Op} {i : Issue} {s : State} {x : Iss} (h : Goes o i s x) (f : Iss → Nat → W32) :
    WritesX i s x (f x) (s.issue o i (fun x s => s.retire x (x.g.writeLanes (takers x.w x.g) (rDst x.w) (f x)))) := by
  obtain ⟨hu, he⟩ := issue_next h (fun x s => s.retire x (x.g.writeLanes (takers x.w x.g) (rDst x.w) (f x)))
  have hw := (ready_iss h.ready).2.2.1
  simp only [hw] at he
  have sp := writeLanes_spec (rDst i.w) (f x) (takers i.w x.g) (fun _ => lt_of_mem_takers) x.g
  have hr := ran_retire h.ready hu sp.only
  rw [he]
  refine ⟨_, hr, ?_, wrote_of _ sp.only ?_ (fun r _ => sp.u r) (fun r l _ _ => sp.p r l)⟩
  · intro h255 l hl
    rw [(goto_regs _ _).1, sp.hit h255 l hl]
  · intro r l hl hn
    exact sp.miss r l hl (fun hh => hn ⟨hh.1, by rw [hh.1]; exact hh.2.1, hh.2.2⟩)

/-- What an instruction built on `laneOp` does when it is uniform. -/
theorem laneOp_uniform {o : Op} {i : Issue} {s : State} {x : Iss} (h : Goes o i s x) (hU : (mayU o && isU i.w) = true)
    (f : Iss → W32 → W32 → W32 → W32) :
    WritesU i s x (f x (uSrcA i.w x.g) (uSrcB i.w x.g) 0) (s.laneOp o i f) := by
  obtain ⟨hu, he⟩ := issue_next h (fun x s =>
    s.retire x
      (if mayU o && isU x.w then x.g.setU (rDst x.w) (f x (uSrcA x.w x.g) (uSrcB x.w x.g) 0)
       else x.g.writeLanes (takers x.w x.g) (rDst x.w)
        (fun l => f x (srcA x.w x.g l) (srcB x.w x.g l) (srcC x.w x.g l))))
  have hw := (ready_iss h.ready).2.2.1
  simp only [hw, hU, if_true] at he
  have ho := setU_only x.g (rDst i.w) (f x (uSrcA i.w x.g) (uSrcB i.w x.g) 0)
  have hr := ran_retire h.ready hu ho
  unfold State.laneOp
  rw [he]
  refine ⟨_, hr, ?_, wrote_of _ ho (fun r l _ _ => rfl) (fun r hn => ur_setU_ne _ _ hn) (fun r l _ _ => rfl)⟩
  rw [(goto_regs _ _).2.1, ur_setU_self]

/-- An instruction that writes a predicate. -/
theorem writeP_next {o : Op} {i : Issue} {s : State} {x : Iss} (h : Goes o i s x) (f : Iss → Nat → Bool) :
    WritesP i s x (f x) (s.issue o i (fun x s => s.retire x (x.g.writePreds (takers x.w x.g) (rDst x.w) (f x)))) := by
  obtain ⟨hu, he⟩ := issue_next h (fun x s => s.retire x (x.g.writePreds (takers x.w x.g) (rDst x.w) (f x)))
  have hw := (ready_iss h.ready).2.2.1
  simp only [hw] at he
  have sp := writePreds_spec (rDst i.w) (f x) (takers i.w x.g) (fun _ => lt_of_mem_takers) x.g
  have hr := ran_retire h.ready hu sp.only
  rw [he]
  refine ⟨_, hr, ?_, wrote_of _ sp.only (fun r l _ _ => sp.x r l) (fun r _ => sp.u r) ?_⟩
  · intro h0 l hl
    rw [(goto_regs _ _).2.2, sp.hit h0 l hl]
  · intro r l hl hn
    exact sp.miss r l hl (fun hh => hn ⟨hh.1, by rw [hh.1]; exact hh.2.1, hh.2.2⟩)

end Sys2Proof.Machine
end

