-- ==== Sys2Proof/Laws/Reads.lean ====
section
/-! SUPPORT. CXL.io reads in parts (R317): the parts of an aligned read, and the read whose parts have all been answered. -/
namespace Sys2Proof.Machine

/-- The pieces of `m` bytes of a list, from the first on. -/
theorem chunks {α : Type} (b : List α) (m n : Nat) :
    (List.range n).flatMap (fun i => (b.drop (m * i)).take m) = b.take (m * n) := by
  induction n with
  | zero => simp
  | succ n ih => rw [List.range_succ, List.flatMap_append, ih, Nat.mul_succ, List.take_add]; simp

/-- The one number below `n` that `P` selects. -/
theorem find_range (P : Nat → Bool) (n i : Nat) (hi : i < n) (hp : ∀ j, P j = true ↔ j = i) : (List.range n).find? P = some i := by
  rw [List.find?_eq_some_iff_getElem]
  refine ⟨(hp i).mpr rfl, i, by simpa using hi, by simp, fun j hj => ?_⟩
  cases h : P j with
  | false => simp [h]
  | true => exact absurd ((hp j).mp h) (by omega)

/-- The answer that has come for the part at place `i` of a read at `a`. -/
def ioPiece (m a : Nat) (b : List Byte) (i : Nat) : IoTag :=
  ⟨i, a + m * i, min (a + b.length) (a + m * i + m) - (a + m * i), .unit, some (some ((b.drop (m * i)).take m, false))⟩

/-- The answers that have come for every part of a read of the bytes `b` at `a`. -/
def ioPieces (m a : Nat) (b : List Byte) : List IoTag := (List.range ((b.length - 1) / m + 1)).map (ioPiece m a b)

/-- The parts of a read that starts at a multiple of `m`. -/
theorem ioParts_aligned {m a len : Nat} (hm : 0 < m) (ha : a % m = 0) (hl : 0 < len) :
    ioParts m a len = (List.range ((len - 1) / m + 1)).map (fun i => (a + m * i, min (a + len) (a + m * i + m) - (a + m * i))) := by
  obtain ⟨q, rfl⟩ : ∃ q, a = m * q := ⟨a / m, by rw [Nat.mul_comm, Nat.div_mul_cancel (Nat.dvd_of_mod_eq_zero ha)]⟩
  have h1 : m * q / m = q := Nat.mul_div_cancel_left q hm
  have h2 : (m * q + len - 1) / m = q + (len - 1) / m := by
    rw [show m * q + len - 1 = (len - 1) + m * q by omega, Nat.add_mul_div_left _ _ hm, Nat.add_comm]
  rw [ioParts, if_neg (by omega), h1, h2, show q + (len - 1) / m + 1 - q = (len - 1) / m + 1 by rw [Nat.add_assoc, Nat.add_sub_cancel_left]]
  refine List.map_congr_left (fun i _ => ?_)
  have e1 : (q + i) * m = m * q + m * i := by ring
  have e2 : (q + i + 1) * m = m * q + m * i + m := by ring
  simp only [e1, e2]
  rw [Nat.max_eq_right (by omega)]

/-- The answers of parts give the bytes of each. -/
theorem join_pieces (m a : Nat) (b : List Byte) (l : List Nat) :
    ioJoin (l.map (ioPiece m a b)) = some (l.flatMap (fun i => (b.drop (m * i)).take m), false) := by
  induction l with
  | nil => rfl
  | cons i l ih =>
    rw [List.map_cons, ioJoin, List.foldr_cons]
    rw [ioJoin] at ih
    rw [ih]
    rfl

/-- A read of which every part has been answered gives the bytes. -/
theorem ioRead_answered {u : State} {a : Nat} {b : List Byte} (hm : 0 < u.maxRead) (ha : a % u.maxRead = 0) (hl : 0 < b.length)
    (ht : u.ep.tags = ioPieces u.maxRead a b) :
    u.ioRead .unit a b.length = ({ u with ep := { u.ep with tags := [] } }, some (some (b, false))) := by
  generalize hmr : u.maxRead = m at hm ha ht
  have hg : (ioParts m a b.length).filterMap (u.ioTag .unit) = ioPieces m a b := by
    rw [ioParts_aligned hm ha hl, List.filterMap_map, ioPieces, ← List.filterMap_eq_map]
    refine List.filterMap_congr (fun i hi => ?_)
    have hi : i < (b.length - 1) / m + 1 := List.mem_range.mp hi
    simp only [Function.comp, State.ioTag, ht, ioPieces, List.find?_map]
    rw [find_range _ _ i hi]
    · rfl
    · intro j
      simp only [ioPiece, Bool.and_eq_true, beq_iff_eq]
      constructor
      · rintro ⟨⟨-, h⟩, -⟩
        exact Nat.eq_of_mul_eq_mul_left hm (by omega)
      · rintro rfl
        simp
  have hn : (ioPieces m a b).length = (ioParts m a b.length).length := by rw [ioParts_aligned hm ha hl]; simp [ioPieces]
  have hs : (ioPieces m a b).all (·.ans.isSome) = true := by simp [ioPieces, ioPiece]
  have hj : ioJoin (ioPieces m a b) = some (b, false) := by
    rw [ioPieces, join_pieces, chunks, List.take_of_length_le]
    have := Nat.div_add_mod (b.length - 1) m
    have := Nat.mod_lt (b.length - 1) hm
    rw [Nat.mul_succ]
    omega
  have hf : u.ep.tags.filter (fun t => !(ioPieces m a b).contains t) = [] := by
    rw [ht, List.filter_eq_nil_iff]
    intro t h
    simp [h]
  simp only [State.ioRead, hmr, hg, hn, hs, hj, hf, decide_true, Bool.and_self, if_true]
end Sys2Proof.Machine
end

