-- ==== Sys2Proof/Tests/Setup.lean ====
section
/-! SUPPORT. The small states on which the tests run. -/
namespace Sys2Proof.Tests
open Sys2Proof.Machine
set_option Elab.async false

/-- Service, with the fast clocks on. -/
def aonUp : Aon := { Aon.reset with cold := false, fast := true, dev := .service }

/-- A chip in Service that holds nothing. -/
def base : State := { State.reset with aon := aonUp }

/-- A team of one group of partition 0, in a context of tag 0, with 255 registers per thread and 1 KiB of local memory. -/
def tm0 : Team :=
  { st := .running, cls := 1, tag := 0, part := 0, priv := true, g := 1, r := 255, l := 1024, q := 0, seq := 0, tx := 0, ty := 0,
    tz := 0, units := [], lunits := [0], bars := [], arrs := [], loc := [], saved := [], gslots := [], err := false, errMask := 0, errAddr := 0,
    errPc := 0, errG := 0, lent := false }

def pc0 : W64 := 0x10000001000

/-- Its group, at `pc0`, with all lanes live and active. -/
def gr0 : Group :=
  { team := 0, gidx := 0, live := 0xFFFFFFFF, act := 0xFFFFFFFF, pc := pc0, stack := [], bb := 0, x := [], u := [], p := [],
    hold := .none, gstat := 0, xseq := 0 }

/-- A core that runs the team, with the line of `pc0` in its instruction cache. -/
def coreOf (tm : Team) (g : Group) : Core :=
  { Core.empty with
    teams := [(0, some tm)], groups := [(0, some g)], ctxs := [some 0, none, none, none], sleep := .active,
    ic := [(pc0.toNat / 128 % 128 * 8, ⟨true, false, 0, pc0.toNat / 128⟩)] }

/-- The chip with group `g` of team `tm` on core 0. -/
def withGroup (tm : Team) (g : Group) : State := { base with cores := [(0, coreOf tm g)] }

/-- x registers, each with a function of the lane, and u registers of a group. -/
def Group.withX (g : Group) (l : List (Nat × (Nat → Nat))) : Group :=
  l.foldl (fun g e => (List.range 32).foldl (fun g n => g.setX e.1 n (BitVec.ofNat 32 (e.2 n))) g) g

def Group.withU (g : Group) (l : List (Nat × Nat)) : Group := l.foldl (fun g e => g.setU e.1 (BitVec.ofNat 32 e.2)) g

/-- A record of a Setting from its bytes, and a state with records. -/
def srec (key idx : Nat) (l : List Nat) : SRec := ⟨key, idx, l.map (BitVec.ofNat 8)⟩
def withSet (s : State) (l : List SRec) : State := { s with setting := l }

/-- Ways of the L2 that are powered, all of them partition 0's. -/
def waysOn (s : State) : State := (s.setReg Reg.L2C_WAY_STATE 0xFFFF).setFld (Fld.L2C_PART_WAYS_MASK 0) 0xFFFF

/-- An encoding that names no register, predicate or modifier. -/
def bare : Enc := ⟨false, 255, 255, 255, 255, false, 0, 0, 0⟩

/-- The words that carry fields as operation `o` (Tables 05.1 and 05.2), and the instruction of group slot 0 of core 0 with them. -/
def baseWord (o : Op) (w : Enc) : W64 :=
  let op : BitVec 7 := BitVec.ofNat 7 (((List.range 128).find? (fun b => opOf b == some o)).getD 0)
  BitVec.ofBool w.ext ++ op ++ w.dst ++ w.sa ++ w.sb ++ w.sc ++ BitVec.ofBool w.pneg ++ w.pred ++ w.mod

def at0 (o : Op) (w : Enc) : Issue := ⟨0, 0, baseWord o w, w.xw⟩

/-- Do the conditions of `Goes` hold, whatever the instruction finds? -/
def goesB (o : Op) (i : Issue) (s : State) : Bool :=
  match s.ready o i with
  | none => false
  | some x => s.runs && s.lineIn i.core x.tm.tag x.g.pc.toNat && s.lineIn i.core x.tm.tag (x.g.pc.toNat + encLen i.w - 1) &&
      opOf i.opc == some o && legal o i.w &&
      !x.rangeBad (xNamed o i.w)

theorem goes_of {o : Op} {i : Issue} {s : State} {x : Iss} (hx : s.ready o i = some x) (h : goesB o i s = true) : Goes o i s x := by
  simp only [goesB, hx, Bool.and_eq_true, Bool.not_eq_true', beq_iff_eq] at h
  exact ⟨⟨h.1.1.1.1.1, hx, h.1.1.1.1.2, h.1.1.1.2, h.1.1.2, h.1.2⟩, h.2⟩

/-- The state that an outcome goes on to. -/
def nx (o : Host.Outcome State Fault Refusal) : State := match o with | .next t => t | _ => State.reset

/-- What the group of core 0 issues with encoding `w`. -/
def x0 (s : State) (w : Enc) : Iss :=
  ⟨0, 0, w, s.core 0, ((s.core 0).group 0).getD gr0, (((s.core 0).team 0).getD tm0)⟩

/-- A row of `Sys2Proof.Tests` names an operation and an encoding with which it goes in state `s`, and that meets `p`. -/
def rowOk (s : State) (p : Op → Iss → Bool) (r : Op × Enc) : Bool :=
  s.ready r.1 (at0 r.1 r.2) == some (x0 s r.2) && goesB r.1 (at0 r.1 r.2) s && p r.1 (x0 s r.2)

theorem rows_go {s : State} {p : Op → Iss → Bool} {l : List (Op × Enc)} (h : l.all (rowOk s p) = true) :
    ∀ r, r ∈ l → Goes r.1 (at0 r.1 r.2) s (x0 s r.2) ∧ p r.1 (x0 s r.2) = true := by
  intro r hr
  have h1 := List.all_eq_true.mp h r hr
  simp only [rowOk, Bool.and_eq_true, beq_iff_eq] at h1
  exact ⟨goes_of h1.1.1 h1.1.2, h1.2⟩

/-! ### Register writes -/

/-- Firmware executes. -/
def fwUp (s : State) : State := { s with rot := { s.rot with fw := some ([], 1) } }
/-- The host link is up and memory space is enabled. -/
def hostUp (s : State) : State := ({ s with ep := { s.ep with linkUp := true, modules := 15 } } : State).setCfg 4 (s.cfgRead 4 ||| 6)

/-- The agent's write of `w` to the register at `o` reaches it and breaks no rule. -/
def writeOkB (a : Agent) (s : State) (o w : Nat) : Bool :=
  s.reaches a o && (match findReg o with | some (r, o') => o' == o && s.violates a r o w r.whole == none | none => false)

theorem writeOk_of {a : Agent} {s : State} {o w : Nat} (h : writeOkB a s o w = true) : ∃ r, WriteOk a s r o w := by
  simp only [writeOkB, Bool.and_eq_true] at h
  obtain ⟨h1, h2⟩ := h
  split at h2
  next r o' h3 =>
    simp only [Bool.and_eq_true, beq_iff_eq] at h2
    exact ⟨r, h1, by rw [h3, h2.1], h2.2⟩
  next => cases h2

theorem writesOk_of {a : Agent} {s : State} {l : List (Nat × Nat)} (h : l.all (fun p => writeOkB a s p.1 p.2) = true) :
    ∀ p, p ∈ l → ∃ r, WriteOk a s r p.1 p.2 := fun p hp => writeOk_of (List.all_eq_true.mp h p hp)

/-! ### Quiet states -/

theorem get_mem_or {α : Type} (d : Nat → α) (m : SMap α) (k : Nat) : SMap.get d m k = d k ∨ ∃ e, e ∈ m ∧ e.2 = SMap.get d m k := by
  induction m with
  | nil => exact .inl rfl
  | cons e r ih =>
    obtain ⟨j, v⟩ := e
    by_cases h : k = j
    · exact .inr ⟨(j, v), by simp, by simp [SMap.get, h]⟩
    · rcases ih with h1 | ⟨e, he, h1⟩
      · exact .inl (by simpa [SMap.get, h] using h1)
      · exact .inr ⟨e, by simp [he], by simpa [SMap.get, h] using h1⟩

/-- A group waits in no FENCE and no XWAIT. -/
def calmG (g : Group) : Bool := match g.hold with | .fence _ _ => false | .xwait _ => false | _ => true

/-- `Quiet` as a test. -/
def quietB (s : State) : Bool :=
  s.cores.all (fun e => e.2.groupList.all (fun y => calmG y.2) && e.2.teamList.all (fun y => y.2.st != .stopping)) &&
    s.sqs.all (fun e => e.2.cmds.all (fun m => !s.kernelOver e.1 m && !s.cmdOver e.1 m))

theorem quiet_of {s : State} (h : quietB s = true) : Quiet s := by
  simp only [quietB, Bool.and_eq_true, List.all_eq_true, Bool.not_eq_true'] at h
  constructor
  · intro c e he
    rcases get_mem_or coreDefault s.cores c with h1 | ⟨k, hk, h1⟩
    · rw [State.core, h1] at he; cases he
    · rw [State.core, ← h1] at he
      have h2 := (h.1 k hk).1 e he
      constructor
      · intro l m hh; rw [calmG, hh] at h2; cases h2
      · intro n hh; rw [calmG, hh] at h2; cases h2
  · intro c e he
    rcases get_mem_or coreDefault s.cores c with h1 | ⟨k, hk, h1⟩
    · rw [State.core, h1] at he; cases he
    · rw [State.core, ← h1] at he
      simpa using (h.1 k hk).2 e he
  · intro e he m hm
    exact h.2 e he m hm

end Sys2Proof.Tests
end

