-- ==== Sys2Proof/Tests/Cores.lean ====
section
/-! SUPPORT. Witnesses of the hypotheses of the statements about core instructions, and results of single steps on numbers
worked by hand from the rules that the comments name. -/
namespace Sys2Proof.Tests
open Sys2Proof.Machine
set_option Elab.async false

/-- Encodings with a destination and sources, modifiers, and an extension word. -/
def e3 (d a b c : Nat) (m : Nat) : Enc := ⟨false, BitVec.ofNat 8 d, BitVec.ofNat 8 a, BitVec.ofNat 8 b, BitVec.ofNat 8 c, false, 0, BitVec.ofNat 20 m, 0⟩
def ex (d a b c m w : Nat) : Enc := { e3 d a b c m with ext := true, xw := BitVec.ofNat 64 w }
/-- The same under predicate p1, negated. -/
def np1 (w : Enc) : Enc := { w with pred := 1, pneg := true }

def sA : State := withGroup tm0 gr0

/-! ### Where the instructions go (O3 to O8) -/

/-- The lane-wise integer instructions, each with every FUNC, an immediate form, and x255 as destination. -/
def rowsInt : List (Op × Enc) :=
  [(.add, e3 3 1 2 255 0), (.add, e3 255 1 2 255 0), (.add, ex 3 1 255 255 0x8000 7), (.sub, e3 3 1 2 255 0), (.mul, e3 3 1 2 255 0),
   (.mulh, e3 3 1 2 255 0x80), (.mulh, e3 3 1 2 255 0), (.muladd, e3 3 1 2 4 0), (.bool, e3 3 1 2 255 0), (.bool, e3 3 1 2 255 0x1000),
   (.bool, e3 3 1 2 255 0x2000), (.bool, e3 3 1 2 255 0x3000), (.shift, e3 3 1 2 255 0), (.shift, e3 3 1 2 255 0x1000),
   (.shift, e3 3 1 2 255 0x2000), (.copy, e3 3 255 2 255 0), (.choose, e3 3 1 2 255 0x100), (.choose, e3 3 1 2 255 0x900),
   (.seti, e3 3 255 255 255 0x7FFFF)]

theorem test_int_rows_go : ∀ r, r ∈ rowsInt → Goes r.1 (at0 r.1 r.2) sA (x0 sA r.2) ∧ (!isU r.2) = true :=
  rows_go (p := fun _ x => !isU x.w) (by decide +kernel)

theorem test_seti_negative_go : ∀ r, r ∈ ([(.seti, np1 (e3 3 255 255 255 0x80000))] : List (Op × Enc)) →
    Goes r.1 (at0 r.1 r.2) sA (x0 sA r.2) ∧ true = true := rows_go (p := fun _ _ => true) (by decide +kernel)

def rowsBit : List (Op × Enc) :=
  [(.bitop, e3 3 1 255 255 0), (.bitop, e3 3 1 255 255 0x1000), (.bitop, e3 3 1 255 255 0x2000), (.xlane, e3 3 1 2 255 0),
   (.xlane, e3 3 1 2 255 0x1000), (.xlane, e3 3 1 2 255 0x2000), (.xlane, e3 3 1 2 255 0x3000)]

theorem test_bit_rows_go : ∀ r, r ∈ rowsBit → Goes r.1 (at0 r.1 r.2) sA (x0 sA r.2) ∧ (!isU r.2) = true :=
  rows_go (p := fun _ x => !isU x.w) (by decide +kernel)

def rowsFloat : List (Op × Enc) :=
  [(.addf, e3 3 1 2 255 0x80), (.mulf, e3 3 1 2 255 0), (.fmaf, e3 3 1 2 4 0xE0), (.minf, e3 3 1 2 255 0), (.maxf, ex 3 1 255 255 0x8000 0x3F800000),
   (.fmap, e3 3 1 2 4 0x1000), (.addp, e3 3 1 2 255 0), (.mulp, e3 3 1 2 255 0x1000), (.spf, e3 3 1 255 255 0x5000)]

theorem test_float_rows_go : ∀ r, r ∈ rowsFloat → Goes r.1 (at0 r.1 r.2) sA (x0 sA r.2) ∧ true = true :=
  rows_go (p := fun _ _ => true) (by decide +kernel)

/-- Uniform forms, with every FUNC. -/
def rowsUni : List (Op × Enc) :=
  [(.add, e3 3 1 2 255 0x80000), (.sub, ex 63 1 255 255 0x88000 9), (.mul, e3 3 1 2 255 0x80000), (.bool, e3 3 1 2 255 0x80000),
   (.bool, e3 3 1 2 255 0x83000), (.shift, e3 3 1 2 255 0x82000), (.copy, e3 3 255 2 255 0x80000), (.bitop, e3 3 1 255 255 0x80000),
   (.bitop, e3 3 1 255 255 0x82000)]

theorem test_uniform_rows_go : ∀ r, r ∈ rowsUni → Goes r.1 (at0 r.1 r.2) sA (x0 sA r.2) ∧ isU r.2 = true :=
  rows_go (p := fun _ x => isU x.w) (by decide +kernel)

/-- Comparisons, the three forms of POLL, p0 as destination. -/
def rowsPred : List (Op × Enc) :=
  [(.testi, e3 0 1 2 255 0x500), (.testi, e3 7 1 2 255 0x280), (.testf, e3 1 1 2 255 0x700), (.poll, e3 1 255 255 255 0x100),
   (.poll, e3 1 255 255 255 0x1900), (.poll, e3 200 255 255 255 0x2100)]

theorem test_pred_rows_go : ∀ r, r ∈ rowsPred → Goes r.1 (at0 r.1 r.2) sA (x0 sA r.2) ∧ true = true :=
  rows_go (p := fun _ _ => true) (by decide +kernel)

/-- GETS of every special register and in both forms, GSTATUS with CLR among them; ADDW and NOP. -/
def rowsGets : List (Op × Enc) :=
  [(.addw, e3 2 4 6 255 0), (.nop, bare), (.gets, e3 9 255 255 255 0), (.gets, e3 9 255 255 255 5), (.gets, e3 8 255 255 255 6),
   (.gets, e3 8 255 255 255 10), (.gets, e3 9 255 255 255 0x107), (.gets, e3 9 255 255 255 12), (.gets, e3 9 255 255 255 0x80000),
   (.gets, e3 63 255 255 255 0x8000C), (.gets, e3 62 255 255 255 0x80006)]

theorem test_gets_rows_go : ∀ r, r ∈ rowsGets → Goes r.1 (at0 r.1 r.2) sA (x0 sA r.2) ∧ (!(takers r.2 (x0 sA r.2).g).isEmpty) = true :=
  rows_go (p := fun _ x => !(takers x.w x.g).isEmpty) (by decide +kernel)

/-! ### Local memory (O9): the highest aligned address of the allocation -/

def gLoc : Group := Group.withX gr0 [(1, fun n => 32 * n), (2, fun n => n + 1), (3, fun _ => 0x1010101)]
def sLoc : State := withGroup tm0 gLoc

theorem test_loc_rows_go : ∀ r, r ∈ ([(.ldloc, e3 4 1 255 255 (0x40000 + 28)), (.ldloc, e3 4 1 255 255 (0x10000 + 31)),
      (.stloc, e3 255 1 2 255 (0x40000 + 28))] : List (Op × Enc)) →
    Goes r.1 (at0 r.1 r.2) sLoc (x0 sLoc r.2) ∧ ((takers r.2 (x0 sLoc r.2).g).all (fun l =>
      let a := locAddr (x0 sLoc r.2) (encMod r.2 15 0) l
      let n := sizeBytes (encMod r.2 19 17)
      a + n ≤ (x0 sLoc r.2).tm.locSize && a % n == 0) && (x0 sLoc r.2).g.stack.isEmpty) = true :=
  rows_go (p := fun _ x => (takers x.w x.g).all (fun l =>
    let a := locAddr x (encMod x.w 15 0) l
    let n := sizeBytes (encMod x.w 19 17)
    a + n ≤ x.tm.locSize && a % n == 0) && x.g.stack.isEmpty) (by decide +kernel)

theorem test_rmwl_rows_go : ∀ r, r ∈ ([(.rmwl, e3 4 1 2 255 0), (.rmwl, e3 4 1 2 6 0xA8000), (.rmwl, e3 255 1 2 255 0x90000)] : List (Op × Enc)) →
    Goes r.1 (at0 r.1 r.2) sLoc (x0 sLoc r.2) ∧ (takers r.2 (x0 sLoc r.2).g).all (fun l =>
      locAddr (x0 sLoc r.2) 0 l + 8 ≤ (x0 sLoc r.2).tm.locSize && locAddr (x0 sLoc r.2) 0 l % 8 == 0) = true :=
  rows_go (p := fun _ x => (takers x.w x.g).all (fun l => locAddr x 0 l + 8 ≤ x.tm.locSize && locAddr x 0 l % 8 == 0)) (by decide +kernel)

/-! ### Conversions, quantisation, matrices (O10, O11) -/

/-- Partition 0 may use every format. -/
def allFmts : SRec := srec 0x0307 0 [0xFF, 0xFF, 0xFF, 0xFF]
def sFmt : State := withSet sA [allFmts]

theorem test_cvt_rows_go : ∀ r, r ∈ ([(.cvt, e3 3 1 255 255 0), (.cvt, e3 3 1 255 255 0x8CA0), (.cvt, e3 255 1 255 255 0x21200)] : List (Op × Enc)) →
    Goes r.1 (at0 r.1 r.2) sFmt (x0 sFmt r.2) ∧ (encMod r.2 19 15 ≤ 4 && encMod r.2 14 10 ≤ 4 && sFmt.fmtEnabled (x0 sFmt r.2).tm.part (encMod r.2 19 15) &&
      sFmt.fmtEnabled (x0 sFmt r.2).tm.part (encMod r.2 14 10)) = true :=
  rows_go (p := fun _ x => encMod x.w 19 15 ≤ 4 && encMod x.w 14 10 ≤ 4 && sFmt.fmtEnabled x.tm.part (encMod x.w 19 15) &&
    sFmt.fmtEnabled x.tm.part (encMod x.w 14 10)) (by decide +kernel)

/-- The group-wide rule, as a Bool. -/
def allIn (x : Iss) : Bool := x.g.act == allLanes && takeMask x.w x.g == allLanes && x.g.converged

/-- QNT of an MX and of a FACET format. -/
theorem test_qnt_rows_go : ∀ r, r ∈ ([(.qnt, e3 2 4 1 255 0x40000), (.qnt, e3 2 4 1 255 0x80080)] : List (Op × Enc)) →
    Goes r.1 (at0 r.1 r.2) sFmt (x0 sFmt r.2) ∧ (let x := x0 sFmt r.2
      allIn x && !profBad (x.g.ur (rB x.w)).toNat && sFmt.fmtEnabled x.tm.part (encMod x.w 19 15) &&
        decide ((sFmt.profile x (x.g.ur (rB x.w)).toNat).policy ≠ 2) && (elemOf (encMod x.w 19 15)).isSome &&
        (isMx (encMod x.w 19 15) || isFacet (encMod x.w 19 15))) = true :=
  rows_go (p := fun _ x => allIn x && !profBad (x.g.ur (rB x.w)).toNat && sFmt.fmtEnabled x.tm.part (encMod x.w 19 15) &&
        decide ((sFmt.profile x (x.g.ur (rB x.w)).toNat).policy ≠ 2) && (elemOf (encMod x.w 19 15)).isSome &&
        (isMx (encMod x.w 19 15) || isFacet (encMod x.w 19 15))) (by decide +kernel)

/-- MMA of FP16 by FP16 and of FP8 by MXFP8. -/
theorem test_mma_rows_go : ∀ r, r ∈ ([(.mma, ex 8 16 20 24 0x8400 0xFFFFFFFF), (.mma, ex 8 16 20 24 0x1A100 0xFFFF20FF)] : List (Op × Enc)) →
    Goes r.1 (at0 r.1 r.2) sFmt (x0 sFmt r.2) ∧ (allIn (x0 sFmt r.2) && !sFmt.mmaBad (x0 sFmt r.2)) = true :=
  rows_go (p := fun _ x => allIn x && !sFmt.mmaBad x) (by decide +kernel)

/-! ### Accesses of memory (O12, O13) -/

/-- u2 and u3 name the Gallery; x4, x5 name it in each lane, 16 bytes apart. -/
def gMem : Group := Group.withX (Group.withU gr0 [(2, 0x80001000), (3, 0x100), (4, 0), (5, 0)]) [(4, fun n => 0x80002000 + 16 * n), (5, fun _ => 0x100)]
def sMem : State := waysOn (withSet (withGroup tm0 gMem) [allFmts])

theorem test_ld_lanes_good : Goes .ld (at0 .ld (e3 8 4 255 255 0x80000)) sMem (x0 sMem (e3 8 4 255 255 0x80000)) ∧
    sMem.lanesGood (x0 sMem (e3 8 4 255 255 0x80000)) (uaMem (e3 8 4 255 255 0x80000)) false 16 := by
  refine ⟨goes_of (by decide +kernel) (by decide +kernel), ?_⟩
  unfold State.lanesGood
  decide +kernel

theorem test_ld_uniform_good : Goes .ld (at0 .ld (ex 8 2 255 255 0x41000 0xFFFFFFFC)) sMem (x0 sMem (ex 8 2 255 255 0x41000 0xFFFFFFFC)) ∧
    sMem.lanesGood (x0 sMem (ex 8 2 255 255 0x41000 0xFFFFFFFC)) (uaMem (ex 8 2 255 255 0x41000 0xFFFFFFFC)) false 4 := by
  refine ⟨goes_of (by decide +kernel) (by decide +kernel), ?_⟩
  unfold State.lanesGood
  decide +kernel

theorem test_rmw_lanes_good : Goes .rmw (at0 .rmw (e3 8 4 6 255 0x8000)) sMem (x0 sMem (e3 8 4 6 255 0x8000)) ∧
    sMem.lanesGood (x0 sMem (e3 8 4 6 255 0x8000)) (uaRmw (e3 8 4 6 255 0x8000)) true 8 := by
  refine ⟨goes_of (by decide +kernel) (by decide +kernel), ?_⟩
  unfold State.lanesGood
  decide +kernel

/-- A store, its blocks, and room for them. -/
def wSt : Enc := e3 255 4 6 255 0x4E000

theorem test_st_lanes_good : Goes .st (at0 .st wSt) sMem (x0 sMem wSt) ∧ sMem.lanesGood (x0 sMem wSt) (uaMem wSt) true 4 := by
  refine ⟨goes_of (by decide +kernel) (by decide +kernel), ?_⟩
  unfold State.lanesGood
  decide +kernel

theorem test_st_room : (gather ((sMem.pieces ((takers wSt (x0 sMem wSt).g).map (sMem.accessOf (x0 sMem wSt) (uaMem wSt) 4))).map (fun a =>
    (a, (((x0 sMem wSt).g.runBytes (rB wSt) 4 a.lane).drop a.off).take a.n)))).length = 8 := by decide +kernel

/-- The store is a release: free where nothing is buffered, held where a store is. -/
theorem test_release_free_and_held : encMod wSt 15 15 = 1 ∧
    sMem.relWaits (x0 sMem wSt) (encMod wSt 14 13) = [] ∧
    (let s := sMem.modCore 0 (fun k => { k with sq := [⟨7, 0, 0, 0, 0, .wb, .coh 0 0x10080002000, [(0, 0xAB)], [], false, 0, 0, pc0, 0, 1⟩] })
     goesB .st (at0 .st wSt) s = true ∧ s.relWaits (x0 s wSt) (encMod wSt 14 13) = [7] ∧ (x0 s wSt).waited = false) :=
  by decide +kernel

/-- A descriptor at 0x10080001000: FACET4 or MXFP4, 16 rows of 128 elements, the planes at multiples of 4 KiB of the Gallery. -/
def descBytes (fmt : Nat) : List Byte :=
  [BitVec.ofNat 8 fmt, 0, 0, 0] ++ natLe 4 16 ++ natLe 4 128 ++ natLe 4 0 ++ natLe 8 0x10080010000 ++ natLe 8 0x10080020000 ++ natLe 8 0 ++
    natLe 8 0x10080030000 ++ natLe 8 0x10080040000 ++ natLe 8 0x10080050000

def sDesc (fmt : Nat) : State := sMem.storeRun 0x10080001000 (descBytes fmt)

/-- STQ of both kinds of format meets what its statement asks. -/
def stqGood (fmt : Nat) : Bool :=
  let w := e3 255 4 2 6 0
  let s := sDesc fmt
  let x := x0 s w
  let u := s.fetched x
  match u.loadNow x (uPair x.g 2) 64 with
  | (u1, .bytes d) => !u1.stqBad x 0 0 d && (match u1.xlateStores x (stqStores x.g 4 0 0 d) with
    | (u2, l, [], []) => decide ((u2.core 0).sq.length + l.length ≤ 128) && l.all (fun b => !b.merges) && !l.isEmpty
    | _ => false)
  | _ => false

theorem test_stq_rows_go : ∀ r, r ∈ ([(.stq, e3 255 4 2 6 0)] : List (Op × Enc)) →
    Goes r.1 (at0 r.1 r.2) (sDesc 0x10) (x0 (sDesc 0x10) r.2) ∧ allIn (x0 (sDesc 0x10) r.2) = true :=
  rows_go (p := fun _ x => allIn x) (by decide +kernel)

theorem test_stq_meets : stqGood 0x10 = true ∧ stqGood 0x0C = true := by decide +kernel

/-- MLD of both kinds of format meets what its statement asks; of FACET4 no block is escalated. -/
def mldGood (fmt : Nat) : Bool :=
  let w := e3 8 2 4 100 0xFF000
  let s := sDesc fmt
  let x := x0 s w
  match (s.fetched x).loadNow x (uPair x.g 2) 64 with
  | (u1, .bytes d) => !(s.core 0).acquiring x.g && !u1.mldBad x d 0 0 && (mldRange x (dFmt d)).isEmpty &&
    (let rows := (List.range 16).filter (fun r => r < dRows d)
     match u1.loadNums x (if isFacet (dFmt d) then rows.map (fun r => tagAt d r 0) else []) with
     | (u2, .nums tags) => (escBlocks (dFmt d) (tags.map (fun t => t % 2 ^ (depthOf (dFmt d) / 8)))).isEmpty &&
       (match u2.xlateReads x (rows.flatMap (fun r => [2 * r, 2 * r + 1].flatMap (fun lane => laneReads d r 0 lane []))) with
        | (_, ⟨q, [], []⟩) => !q.isEmpty && q.all (fun a => a.ty != .wtm)
        | _ => false)
     | _ => false)
  | _ => false

theorem test_mld_rows_go : ∀ r, r ∈ ([(.mld, e3 8 2 4 100 0xFF000)] : List (Op × Enc)) →
    Goes r.1 (at0 r.1 r.2) (sDesc 0x10) (x0 (sDesc 0x10) r.2) ∧ allIn (x0 (sDesc 0x10) r.2) = true :=
  rows_go (p := fun _ x => allIn x) (by decide +kernel)

theorem test_mld_meets : mldGood 0x10 = true ∧ mldGood 0x0C = true := by decide +kernel

/-! ### Paths (O14, O15) -/

/-- p1 is true in lanes 0 to 15. -/
def gHalf : Group := { gr0 with p := [(1, 0xFFFF)] }
def sHalf : State := withGroup tm0 gHalf
def p1 (w : Enc) : Enc := { w with pred := 1 }
def p2 (w : Enc) : Enc := { w with pred := 2 }
/-- BR with byte offsets of its target and its reconvergence point. -/
def wBr (t r : Nat) : Enc := ex 255 255 255 255 0 (t + r * 2 ^ 32)

/-- Which case of Table 03.3 a branch falls under, where no path waits. -/
def brCase (x : Iss) : Nat :=
  let T := takeMask x.w x.g
  let N := x.g.act &&& ~~~ T
  let pN := nextPc x.w x.g
  let pT := pcPlus x.g.pc (brTgt x.w)
  let r := pcPlus x.g.pc (brRcv x.w)
  if !x.g.stack.isEmpty then 0 else if T = 0 then 1 else if N = 0 then 2
  else if pT = r then (if pN = r then 0 else 4) else if pN = r then 5 else if pT = pN then 0 else 3

theorem test_br_rows_go : ∀ r, r ∈ ([(.br, p2 (wBr 64 32)), (.br, wBr (2 ^ 32 - 64) 32), (.br, p1 (wBr 64 32)), (.br, p1 (wBr 32 32)),
      (.br, p1 (wBr 64 16)), (.br, { wBr 64 32 with dst := 62, mod := 0x80000 })] : List (Op × Enc)) →
    Goes r.1 (at0 r.1 r.2) sHalf (x0 sHalf r.2) ∧ (brCase (x0 sHalf r.2) != 0) = true :=
  rows_go (p := fun _ x => brCase x != 0) (by decide +kernel)

theorem test_br_cases : [p2 (wBr 64 32), wBr (2 ^ 32 - 64) 32, p1 (wBr 64 32), p1 (wBr 32 32), p1 (wBr 64 16)].map (fun w => brCase (x0 sHalf w)) =
    [1, 2, 3, 4, 5] := by decide +kernel

/-- BRI where all lanes go to one address, and where they go to two. -/
def wBri : Enc := ex 255 4 255 255 0 (32 * 2 ^ 32)
def gBri : Group := Group.withX gHalf [(4, fun _ => 0x2000), (5, fun _ => 0x100)]

theorem test_bri_rows_go : ∀ r, r ∈ ([(.bri, wBri), (.bri, p1 wBri)] : List (Op × Enc)) →
    Goes r.1 (at0 r.1 r.2) (withGroup tm0 gBri) (x0 (withGroup tm0 gBri) r.2) ∧ (x0 (withGroup tm0 gBri) r.2).g.stack.isEmpty = true :=
  rows_go (p := fun _ x => x.g.stack.isEmpty) (by decide +kernel)

theorem test_bri_targets : ((lanesOf gBri.act).all (fun l => briTarget (x0 (withGroup tm0 gBri) wBri) l == 0x10000002000#64)) = true ∧
    targetGroups ((lanesOf gBri.act).map (fun l => (l, briTarget (x0 (withGroup tm0 gBri) (p1 wBri)) l))) =
      [(0x10000002000#64, 0xFFFF#32), (0x10000001010#64, 0xFFFF0000#32)] := by decide +kernel

/-- EXIT of half the lanes, and of all of them with a path waiting. -/
def gWait : Group := { gHalf with act := 0xFFFF, stack := [⟨false, 0x10000001040, 0xFFFF0000⟩] }

theorem test_exit_rows_go : (∀ r, r ∈ ([(.exit, p1 bare)] : List (Op × Enc)) → Goes r.1 (at0 r.1 r.2) sHalf (x0 sHalf r.2) ∧
      ((x0 sHalf r.2).g.act &&& ~~~ takeMask r.2 (x0 sHalf r.2).g != 0) = true) ∧
    ∀ r, r ∈ ([(.exit, bare)] : List (Op × Enc)) → Goes r.1 (at0 r.1 r.2) (withGroup tm0 gWait) (x0 (withGroup tm0 gWait) r.2) ∧
      ((x0 (withGroup tm0 gWait) r.2).g.act &&& ~~~ takeMask r.2 (x0 (withGroup tm0 gWait) r.2).g == 0) = true :=
  ⟨rows_go (p := fun _ x => x.g.act &&& ~~~ takeMask x.w x.g != 0) (by decide +kernel),
   rows_go (p := fun _ x => x.g.act &&& ~~~ takeMask x.w x.g == 0) (by decide +kernel)⟩

/-- YIELD is due at exactly 64 backward branches, with and without a path waiting. -/
theorem test_yield_due : (withGroup tm0 { gr0 with bb := 64 }).runs = true ∧
    ((withGroup tm0 { gr0 with bb := 64 }).core 0).group 0 = some { gr0 with bb := 64 } ∧
    ((withGroup tm0 { gWait with bb := 64 }).core 0).group 0 = some { gWait with bb := 64 } ∧ gWait.pc ≠ 0x10000001040 := by decide +kernel

/-! ### Waits, transfers, barriers (O16 to O18) -/

/-- A buffered store of the team to the Gallery. -/
def st1 : StoreEnt := ⟨7, 0, 0, 0, 0, .wb, .coh 0 0x10080002000, [(0, 0xAB)], [], false, 0, 0, pc0, 0, 1⟩
def xf1 : Xfer := ⟨3, 0, 0, 0, false, false, 0, 0x10080002000, 0x10080003000, 64, 0, 0, [], [], 0, false, 0, pc0⟩
def sWait (k : Nat) : State := base.setCore 0 { coreOf tm0 gr0 with sq := [st1], xfers := List.replicate k xf1 }

theorem test_fence_free_go : ∀ r, r ∈ ([(.fence, e3 255 255 255 255 0xC0000), (.xwait, e3 255 255 255 255 16)] : List (Op × Enc)) →
    Goes r.1 (at0 r.1 r.2) sA (x0 sA r.2) ∧ ((sA.core 0).reqs.isEmpty && (sA.releaseWaits 0 (x0 sA r.2).tm.tag (x0 sA r.2).g 3).isEmpty &&
      ((sA.core 0).xfersOf (x0 sA r.2).g).isEmpty) = true :=
  rows_go (p := fun _ x => (sA.core 0).reqs.isEmpty && (sA.releaseWaits 0 x.tm.tag x.g 3).isEmpty &&
    ((sA.core 0).xfersOf x.g).isEmpty) (by decide +kernel)

theorem test_fence_waits_go : ∀ r, r ∈ ([(.fence, e3 255 255 255 255 0xC0000), (.fence, e3 255 255 255 255 0x80000), (.xwait, e3 255 255 255 255 0)] :
      List (Op × Enc)) →
    Goes r.1 (at0 r.1 r.2) (sWait 1) (x0 (sWait 1) r.2) ∧ (!(takers r.2 (x0 (sWait 1) r.2).g).isEmpty &&
      (sWait 1).releaseWaits 0 (x0 (sWait 1) r.2).tm.tag (x0 (sWait 1) r.2).g 2 == [7] && ((sWait 1).core 0).xferLeft (x0 (sWait 1) r.2).g == 1) = true :=
  rows_go (p := fun _ x => !(takers x.w x.g).isEmpty && (sWait 1).releaseWaits 0 x.tm.tag x.g 2 == [7] && ((sWait 1).core 0).xferLeft x.g == 1)
    (by decide +kernel)

/-- Flight entry 0 of partition 0 is ARMED, entry 1 has FIRED; the Flight has two entries. -/
def sFlight : State :=
  (sA.setFld (Fld.NWL_FLIGHT_N 0) 2).setFlight 0 0 { Landing.empty with st := .armed, time := 100 } |>.setFlight 0 1 { Landing.empty with st := .fired }

theorem test_lwait_rows_go : ∀ r, r ∈ ([(.lwait, e3 3 255 255 255 0), (.lwait, e3 3 255 255 255 1), (.lwait, e3 3 255 255 255 2)] : List (Op × Enc)) →
    Goes r.1 (at0 r.1 r.2) sFlight (x0 sFlight r.2) ∧ (!(takers r.2 (x0 sFlight r.2).g).isEmpty && sFlight.fld (Fld.NWL_FLIGHT_N 0) == 2 &&
      (sFlight.flight 0 (encMod r.2 7 0)).st == (if encMod r.2 7 0 = 0 then .armed else if encMod r.2 7 0 = 1 then .fired else .empty)) = true :=
  rows_go (p := fun _ x => !(takers x.w x.g).isEmpty && sFlight.fld (Fld.NWL_FLIGHT_N 0) == 2 &&
      (sFlight.flight 0 (encMod x.w 7 0)).st == (if encMod x.w 7 0 = 0 then .armed else if encMod x.w 7 0 = 1 then .fired else .empty)) (by decide +kernel)

/-- XFER with 15 transfers outstanding, and with 16. -/
theorem test_xfer_rows_go : (∀ r, r ∈ ([(.xfer, e3 6 2 4 8 0)] : List (Op × Enc)) → Goes r.1 (at0 r.1 r.2) (sWait 15) (x0 (sWait 15) r.2) ∧
      (shapeOk ((x0 (sWait 15) r.2).g.ur 9) && ((sWait 15).core 0).xferLeft (x0 (sWait 15) r.2).g == 15) = true) ∧
    ∀ r, r ∈ ([(.xfer, e3 6 2 4 8 0xC0000)] : List (Op × Enc)) → Goes r.1 (at0 r.1 r.2) (sWait 16) (x0 (sWait 16) r.2) ∧
      (shapeOk ((x0 (sWait 16) r.2).g.ur 9) && ((sWait 16).core 0).xferLeft (x0 (sWait 16) r.2).g == 16) = true :=
  ⟨rows_go (p := fun _ x => shapeOk (x.g.ur 9) && ((sWait 15).core 0).xferLeft x.g == 15) (by decide +kernel),
   rows_go (p := fun _ x => shapeOk (x.g.ur 9) && ((sWait 16).core 0).xferLeft x.g == 16) (by decide +kernel)⟩

/-- A team of two groups, of which neither has arrived. -/
def sTwo : State :=
  base.setCore 0 { coreOf { tm0 with g := 2 } gr0 with groups := [(0, some gr0), (1, some { gr0 with gidx := 1 })] }

theorem test_tbr_rows_go : ∀ r, r ∈ ([(.tbr, e3 255 255 255 255 0x04000), (.tbr, e3 255 255 255 255 0xF8200)] : List (Op × Enc)) →
    Goes r.1 (at0 r.1 r.2) sTwo (x0 sTwo r.2) ∧ (let x := x0 sTwo r.2
      SMap.wf noGroup (sTwo.core 0).groups && x.g.converged && !(takers x.w x.g).isEmpty && !(x.tm.bar (encMod x.w 18 15)).active &&
      ((sTwo.core 0).liveGroups x.g.team).length == 2 && (List.range 16).all (fun j => !(x.tm.bar j).done 2)) = true :=
  rows_go (p := fun _ x => SMap.wf noGroup (sTwo.core 0).groups && x.g.converged && !(takers x.w x.g).isEmpty && !(x.tm.bar (encMod x.w 18 15)).active &&
      ((sTwo.core 0).liveGroups x.g.team).length == 2 && (List.range 16).all (fun j => !(x.tm.bar j).done 2)) (by decide +kernel)

theorem test_tbr_other_group : ∃ e, e ∈ (sTwo.core 0).liveGroups 0 ∧ e.1 ≠ 0 ∧ ∀ m, e.2.hold ≠ .tbr m :=
  ⟨(1, { gr0 with gidx := 1 }), by decide +kernel, by decide, fun _ h => nomatch h⟩

end Sys2Proof.Tests
end

