-- ==== Sys2Proof/Tests/Answers.lean ====
section
/-! SUPPORT. Witnesses of the hypotheses of the statements about answers of memory, placement, faults, preemption, the error
log, maintenance and way power (O19 to O27). -/
namespace Sys2Proof.Tests
open Sys2Proof.Machine
set_option Elab.async false

/-! ### Answers of memory (O19) -/

/-- One instruction of the group of core 0 has issued; afterwards the core is as `f` leaves it. -/
def sLd : State := nx (execLd (at0 .ld (e3 8 4 255 255 0x80000)) sMem)
def sRmw : State := nx (execRmw (at0 .rmw (e3 8 4 6 255 0x8000)) sMem)
def sSt : State := nx (execSt (at0 .st wSt) sMem)
def sXf : State := nx (execXfer (at0 .xfer (e3 6 2 2 8 0)) (withGroup tm0 (Group.withU gMem [(8, 64), (2, 0x80001000)]) |> waysOn))

/-- A load of host memory through the L2: the host has not answered. -/
def sLdHost : State :=
  nx (execLd (at0 .ld (ex 8 2 255 255 0x41000 0)) (waysOn (withGroup tm0 (Group.withU gr0 [(2, 0), (3, 0x1000)]))))

/-- The first request of core 0 goes on; `all` says whether it gets everything. -/
def reqMeets (s : State) (all : Bool) : Bool :=
  match (s.core 0).reqs with
  | r :: _ =>
    let p := match r.kind with | .rmw op w64 _ => s.rmwStep 0 (s.teamPart 0 r.team) r op w64 | _ => s.loadStep 0 (s.teamPart 0 r.team) r
    let full : MemReq := { r with got := p.2 }
    let t := (p.1.modCore 0 (fun q => { q with reqs := q.reqs.filter (fun y => y.id != r.id) })).modGroup 0 r.team r.gidx full.deliver
    s.runs && (s.core 0).reqs.find? (fun q => q.id == r.id) == some r && !(s.core 0).pendingAny r.after && !(s.core 0).olderReq r &&
      (if all then (List.range r.lanes.length).all (fun n => gotAt p.2 n != none) && p.2.all (fun e => e.2 != none) && quietB t && !((t.core 0).liveGroups r.team).isEmpty
       else (List.range r.lanes.length).any (fun n => gotAt p.2 n == none))
  | [] => false

theorem test_load_answers : reqMeets sLd true = true ∧ reqMeets sRmw true = true ∧ reqMeets sLdHost false = true := by decide +kernel

/-- The first buffered store of the queue is performed. -/
def stMeets (s : State) : Bool :=
  match (s.core 0).sq with
  | e :: _ =>
    (s.core 0).sq.find? (fun y => y.id == e.id) == some e && !e.sent && !(s.core 0).storeHeld e.id e.tgt e.after [(e.team, e.gidx)] &&
      (match s.storeTo e.part e.tgt e.ty.pol e.bytes (some 0) (.store 0 e.id) with
       | (u, some .done) => ((u.core 0).sq.find? (fun y => y.id == e.id)).isSome && quietB (u.modCore 0 (fun q => { q with sq := q.sq.filter (fun y => y.id != e.id) }))
       | _ => false)
  | [] => false

/-- A closed entry of the merging buffer, alone. -/
def mb1 : MergeEnt := ⟨7, 0, 0, .coh 0 0x10080002000, [(0, some 0xAB)], [⟨0, 0, pc0, 0, 1⟩], true, false, []⟩
def sMb : State := waysOn (base.setCore 0 { coreOf tm0 gr0 with mb := [mb1] })

def mbMeets (s : State) : Bool :=
  match (s.core 0).mb with
  | e :: _ =>
    (s.core 0).sq.find? (fun y => y.id == e.id) == none && e.closed && !e.sent && !(s.core 0).storeHeld e.id e.tgt [] (e.grps.map MergeBy.grp) &&
      (match s.storeTo e.part e.tgt MType.wtm.pol e.list (some 0) (.merge 0 e.id) with
       | (u, some .done) => ((u.core 0).sq.find? (fun y => y.id == e.id)).isNone && ((u.core 0).mb.find? (fun y => y.id == e.id)).isSome &&
          quietB (u.modCore 0 (fun q => { q with mb := q.mb.filter (fun y => y.id != e.id) }))
       | _ => false)
  | [] => false

theorem test_store_answers : stMeets sSt = true ∧ mbMeets sMb = true := by decide +kernel

/-- The transfer of the core's engine, and one of a chip-level channel. -/
def xfMeets (s : State) : Bool :=
  match (s.core 0).xfReady with
  | [x] =>
    let u := s.xfRun (.core 0 x.id) (x.total + 1)
    s.xf (.core 0 x.id) == some x &&
      (match u.xf (.core 0 x.id) with
       | some y => decide (y.total ≤ y.done) && y.pend == [] && !y.failed &&
          (let t := u.modCore 0 (fun q => { q with xfers := q.xfers.filter (fun z => z.id != x.id) })
           quietB t && !((t.core 0).liveGroups y.team).isEmpty)
       | none => false)
  | _ => false

def xfC : Xfer := ⟨0, 0, 0, 0, false, false, 0, 0x10080001000, 0x10080003000, 16, 0, 0, [], [], 0, false, 0, 0⟩
def sCh : State := ({ waysOn base with sqs := [(0, { Sq.empty with st := .enabled })] } : State).setChan 0 (some xfC)

def chMeets (s : State) : Bool :=
  match s.chan 0 with
  | some x => (match (s.xfRun (.chan 0) (x.total + 1)).chan 0 with | some y => decide (y.total ≤ y.done) && y.pend == [] && !y.failed | none => false)
  | none => false

theorem test_transfer_answers : xfMeets sXf = true ∧ chMeets sCh = true := by decide +kernel

/-! ### Placement, faults, preemption (O20 to O22) -/

/-- Partition 0 has all 256 cores; queue 0 is its queue of class 1. -/
def allCores : SRec := srec 0x0301 0 (List.replicate 32 0xFF)
/-- A launch block: entry 0x1000, a grid of 3 by 1 by 1, 2 groups, 16 registers, 2 KiB. -/
def blk1 : List Byte := natLe 8 0x1000 ++ natLe 4 3 ++ natLe 2 1 ++ natLe 2 1 ++ [2, 16] ++ natLe 2 0 ++ natLe 4 2048 ++ natLe 8 0
def run1 : Cmd := { newCmd 5 (natLe 4 5 ++ [1, 0, 0, 0]) 0 0 with st := .running, begun := true, blk := blk1, args := [0x11, 0x22], total := 3 }
def sPlace : State :=
  ({ withSet base [allCores] with sqs := [(0, { Sq.empty with st := .enabled, cls := 1, cmds := [run1] })] } : State).setCore 3
    { Core.empty with sleep := .active }

theorem test_place_meets : sPlace.inService = true ∧ Quiet sPlace ∧ sPlace.cmd 0 5 = some run1 ∧ sPlace.placeable 0 run1 3 15 = true ∧
    sPlace.placeNext 0 run1 3 15 = true :=
  ⟨by decide +kernel, quiet_of (by decide +kernel), by decide +kernel, by decide +kernel, by decide +kernel⟩

/-- A fault of a stopping team that has nothing left to drain. -/
def f1 : FaultRec := ⟨0, 0, 63, 255, 65535, 0xFFFFFFFFFFF8, 0x80000001, 0x123, 0, 0⟩
def sFault : State := base.setCore 0 { coreOf { tm0 with st := .stopping } gr0 with fault := some f1 }

theorem test_fault_meets : sFault.runs = true ∧ (sFault.core 0).fault = some f1 ∧ (sFault.core 0).team f1.team = some { tm0 with st := .stopping } ∧
    (sFault.core 0).spent f1.team { tm0 with st := .stopping } = true ∧ Quiet ((sFault.recordFault 0 f1).freeTeamAt 0 f1.team) :=
  ⟨by decide +kernel, by decide +kernel, by decide +kernel, by decide +kernel, quiet_of (by decide +kernel)⟩

/-- Firmware may preempt a running team of class 1 where the core has a save frame. -/
def sPre : State := fwUp ((withGroup tm0 gr0).setReg (Reg.CORE_SAVE_BASE 0) 0x10080100000)

theorem test_preempt_meets : (∃ r, WriteOk .firmware sPre r (Reg.CORE_PREEMPT 0) (2 ^ 31 + 1)) ∧ sPre.fldB (Fld.CORE_PREEMPT_GO 0) = false ∧
    (sPre.frame 0).isSome = true ∧ (sPre.core 0).holding = false ∧ tm0.preemptable = true ∧ (sPre.core 0).team 0 = some tm0 :=
  ⟨writeOk_of (by decide +kernel), by decide +kernel, by decide +kernel, by decide +kernel, by decide +kernel, by decide +kernel⟩

/-- The save is in progress. -/
def sSave : State := nx (execPreempt .firmware 0 1 sPre)

theorem test_preempt_complete_meets : sSave.runs = true ∧ SMap.wf noGroup (sSave.core 0).groups = true ∧ sSave.fldB (Fld.CORE_PREEMPT_GO 0) = true ∧
    (sSave.core 0).teamList = [(0, { tm0 with st := .saving })] ∧ (sSave.core 0).group 0 = some gr0 := by decide +kernel

/-- The team is preempted; RESUME and DISCARD are open to firmware. -/
def sHeld : State := nx (execPreemptComplete 0 sSave)
def tmH : Team := ((sHeld.core 0).team 0).getD tm0

theorem test_resume_meets : (∀ p, p ∈ [(Reg.CORE_RESUME 0, 2 ^ 31 + 1), (Reg.CORE_RESUME 0, 2 ^ 31 + 2 ^ 30 + 1)] → ∃ r, WriteOk .firmware sHeld r p.1 p.2) ∧
    sHeld.fldB (Fld.CORE_RESUME_GO 0) = false ∧ (sHeld.core 0).team 0 = some tmH ∧ tmH.st = .preempted :=
  ⟨writesOk_of (by decide +kernel), by decide +kernel, by decide +kernel, by decide +kernel⟩

/-- The restore is in progress and everything it needs is free. -/
def sRest : State := nx (execResume .firmware 0 1 sHeld)
def tmR : Team := { tmH with st := .restoring }

theorem test_restore_meets : sRest.runs = true ∧ (sRest.core 0).team 0 = some tmR ∧ tmR.err = false ∧ (sRest.core 0).reqs = [] ∧
    (sRest.core 0).answered 0 = true ∧ sRest.walksOver 0 0 = true ∧ (sRest.core 0).fits tmR.saved.length 1 0 = true ∧ (sRest.core 0).fits 1 (8 * tmR.g * ceilDiv tmR.r 8) tmR.l = true ∧
    sRest.framePoison 0 0 tmR = none := by decide +kernel

/-! ### Counters, errors, maintenance, way power (O23 to O27) -/

theorem test_fmt_writes : ∀ p, p ∈ [(Reg.FMT_GUARD_CTL 0, (fwUp sA).reg (Reg.FMT_GUARD_CTL 0) &&& 0x31F3 ||| 8), (Reg.FMT_SR_SEED 0, 0),
    (Reg.FMT_SR_SEED 255, 2 ^ 64 - 1)] → ∃ r, WriteOk .firmware (fwUp sA) r p.1 p.2 := writesOk_of (by decide +kernel)

/-- A store to a chip that does not answer. -/
def stP : StoreEnt := { st1 with tgt := .coh 5 0x2000, sent := true }
def sPeer : State := base.setCore 0 { coreOf tm0 gr0 with sq := [stP] }

/-- Lines of an instruction cache, an L1 and an L2 that hold something, and a way of an L1 with three errors. -/
def l2Dirty : L2Line := ⟨true, false, 0x10080001000 / 128, 0, false, none, 0, 0, true, false, ⟨.m, false, zero64⟩, ⟨.s, false, zero64⟩⟩
def l2Clean : L2Line := { l2Dirty with dup0 := false, s0 := ⟨.s, false, zero64⟩ }
def sLines : State :=
  ({ waysOn base with l2 := [(l2Key 3 4 5, l2Dirty)], msc := [(8, ⟨3, 0, none, some ⟨true, false, zero64⟩⟩), (16, ⟨5, 0, some ⟨false, false, zero64⟩, none⟩)] } : State).setCore 0
    { coreOf tm0 gr0 with l1 := [(8, ⟨true, false, 0, 9⟩)], l1cnt := [(0, (3, 1000))] }

theorem test_array_lines : sLines.runs = true ∧ (SMap.get l1Default (sLines.core 0).ic (pc0.toNat / 128 % 128 * 8)).valid = true ∧
    (SMap.get l1Default (sLines.core 0).l1 (1 * 8 + 0)).valid = true ∧ SMap.get noCount (sLines.core 0).l1cnt 0 = (3, 1000) ∧
    (sLines.l2At (l2Key 3 4 5)).valid = true ∧ ((sLines.l2At (l2Key 3 4 5)).sec (0x10080001000)).st = .m ∧
    ((sLines.l2At (l2Key 3 4 5)).sec (0x10080001040)).st = .s ∧ sLines.mscFind 0x1C0 = some 8 ∧ (sLines.mscAt 8).dirty = true ∧ ((sLines.mscAt 8).sec 0x1C0).isSome = true ∧ (sLines.mscAt 8).sec 0x180 = none ∧
    sLines.mscFind 0x280 = some 16 ∧ (sLines.mscAt 16).dirty = false ∧ sLines.mscFind 0x300 = none ∧
    (sLines.l2At (l2Key 3 4 5)).dirty = true ∧ l2Clean.dirty = false := by decide +kernel

/-- Gallery and HBM that are there, at the last word and the last sector of it. -/
def sHbm : State := ((base.setFld Fld.L2C_CFG_HBM_MASK 0xFF).setFld Fld.L2C_CFG_MSC_SIZE 1)

theorem test_array_places : (0x77FFFF < sHbm.tier0W ∧ ¬ 0x780000 < sHbm.tier0W) ∧ (384 * 0x40000000 - 64 < sHbm.hbmCap) ∧
    ¬ (384 * 0x40000000 < sHbm.hbmCap) ∧ sHbm.poisonUsed 0 < 1024 := by decide +kernel

theorem test_log_is_free : base.logFree ∧ base.sameUnitOpen 2 7 = false ∧ base.fldB Fld.ERR_TRACE_CTL_EN = false ∧
    (base.setFldB Fld.ERR_CTL_ALERT_EN false).fldB Fld.ERR_CTL_ALERT_EN = false :=
  ⟨.inl rfl, by decide +kernel, by decide +kernel, by decide +kernel⟩

/-- Channel 6 may clean, and may not invalidate; a range of partition 0, and one that starts off a line. -/
def mntSet : SRec := srec 0x0302 0 ((natLe 8 0x10080000000 ++ natLe 8 0x100000).map (·.toNat))
def sMnt (ch a : Nat) : State :=
  (((fwUp (withSet base [allCores, mntSet])).setFld (Fld.L2C_MNT_ADDR_ADDR ch) a).setFld (Fld.L2C_MNT_LEN_LEN ch) 128)

theorem test_mnt_meets : (∀ p, p ∈ (List.range 5).map (fun op => (Reg.L2C_MNT_CMD 6, 2 ^ 31 + op)) → ∃ r, WriteOk .firmware (sMnt 6 0x10080000080) r p.1 p.2) ∧
    (sMnt 6 0x10080000080).rangeOk 6 0 = true ∧ (sMnt 5 0x10080000040).rangeOk 5 0 = false :=
  ⟨writesOk_of (by decide +kernel), by decide +kernel, by decide +kernel⟩

theorem test_mnt_runs : (nx (execClean .firmware 6 0 (sMnt 6 0x10080000080))).fldB (Fld.L2C_MNT_CMD_GO 6) = true ∧
    ((nx (execClean .firmware 6 0 (sMnt 6 0x10080000080))).mntRun 6).ok = true := by decide +kernel

theorem test_ways_meets : (∀ p, p ∈ [(Reg.L2C_WAY_PWR, 2 ^ 31 + 0x0003), (Reg.L2C_WAY_PWR, 2 ^ 31 + 1)] → ∃ r, WriteOk .firmware (fwUp sPlace) r p.1 p.2) ∧
    (fwUp sPlace).fldB Fld.L2C_WAY_PWR_GO = false ∧ (fwUp sPlace).l2 = [] ∧ (fwUp sPlace).partsOf = [0] ∧ (fwUp sPlace).fence 0x21 2 = 0 :=
  ⟨writesOk_of (by decide +kernel), by decide +kernel, by decide +kernel, by decide +kernel, by decide +kernel⟩

end Sys2Proof.Tests
end

