-- ==== Sys2Proof/Tests/Homes.lean ====
section
/-! SUPPORT. Witnesses of the hypotheses of the statements about the home, the peers and the host (O28 to O37). -/
namespace Sys2Proof.Tests
open Sys2Proof.Machine
set_option Elab.async false

/-! ### Messages of span members (O28 to O32) -/

/-- Chips 0, 1 and 2 are span members 0, 1 and 2, all of them active; this chip is member 0. -/
def spanSet : List SRec := [srec 0x0801 0 [0, 0], srec 0x0801 1 [1, 0], srec 0x0801 2 [2, 0]]
def sSpan : State := (withSet (waysOn base) spanSet).setReg (Reg.STW_SPAN_STATE 0) 0x15

/-- The last granule of bank 0 of the Gallery. -/
def gA : Nat := 0x10080000000 + 0x7FFFC0
/-- A message of member 1 about it. -/
def msg1 (opc : Nat) : Msg := { mkMsg opc 0 1 9 gA 0 (List.replicate 64 0x5A) with span := 1, mask := 0xFF }
def withMsg (s : State) (m : Msg) : State := { s with inbox := [(8, m)] }

/-- The state with the message taken. -/
def took (s : State) (m : Msg) : State := (s.takeMsg m m.opc.toNat).getD s

def arrivesB (s : State) (m : Msg) (opc : Nat) (u : State) : Bool := s.runs && s.takeMsg m opc == some u && !u.fromSilent m opc && u.biConf.isEmpty && u.flip.isNone

theorem arrives_of {s : State} {m : Msg} {opc : Nat} {u : State} (h : arrivesB s m opc u = true) : Arrives s m opc u := by
  simp only [arrivesB, Bool.and_eq_true, beq_iff_eq, List.isEmpty_iff, Option.isNone_iff_eq_none, Bool.not_eq_true'] at h
  exact ⟨h.1.1.1.1, h.1.1.1.2, h.1.1.2, h.1.2, h.2⟩

def admittedB (s : State) (m : Msg) (opc : Nat) (op : HOp) (u : State) : Bool :=
  arrivesB s m opc u && !u.behindEvs m && u.fromMember m && !u.compat (msgLocal m) && u.holdsMem (msgLocal m) && u.conflict.isEmpty && !u.blocked (msgLocal m) &&
    u.wayFor (peerReq m op) == (u, .ok)

theorem admitted_of {s : State} {m : Msg} {opc : Nat} {op : HOp} {u : State} (h : admittedB s m opc op u = true) : Admitted s m opc op u := by
  simp only [admittedB, Bool.and_eq_true, beq_iff_eq, List.isEmpty_iff, Bool.not_eq_true'] at h
  exact ⟨arrives_of h.1.1.1.1.1.1.1, h.1.1.1.1.1.1.2, h.1.1.1.1.1.2, h.1.1.1.1.2, h.1.1.1.2, h.1.1.2, h.1.2, h.2⟩

/-- The directory entries of the clauses: none, S with member 1, S with member 2, M of member 2, M of member 1, M of the host. -/
def ents : List DirEnt :=
  [DirEnt.empty, { DirEnt.empty with st := .s, ptrs := [1] }, { DirEnt.empty with st := .s, ptrs := [2] }, { DirEnt.empty with st := .m, ptrs := [2] },
   { DirEnt.empty with st := .m, ptrs := [1] }, { DirEnt.empty with st := .m, h := true }]

def sEnt (e : DirEnt) (opc : Nat) : State := withMsg (sSpan.dirPut gA e) (msg1 opc)

theorem test_requests_admitted : ∀ e, e ∈ ents → ∀ p, p ∈ [(0x10, HOp.rds), (0x11, .rdm), (0x12, .upg), (0x13, .wbm), (0x15, .wrf), (0x16, .wrp)] →
    Admitted (sEnt e p.1) (msg1 p.1) p.1 p.2 (took (sEnt e p.1) (msg1 p.1)) := by
  intro e he p hp
  have h : ents.all (fun e => [(0x10, HOp.rds), (0x11, .rdm), (0x12, .upg), (0x13, .wbm), (0x15, .wrf), (0x16, .wrp)].all (fun p =>
      admittedB (sEnt e p.1) (msg1 p.1) p.1 p.2 (took (sEnt e p.1) (msg1 p.1)))) = true := by decide +kernel
  exact admitted_of (List.all_eq_true.mp (List.all_eq_true.mp h e he) p hp)

/-- The entry that is read back is the one that was put, and each differs in what the clauses ask. -/
theorem test_request_entries : ents.all (fun e => let u := took (sEnt e 0x10) (msg1 0x10)
      let d := u.dirGet (msgLocal (msg1 0x10))
      d.st == e.st && d.h == e.h && !d.cv && d.ptrs == e.ptrs && u.memberOk 2 && (u.holders d).filter (fun n => n != 1) == e.ptrs.filter (fun n => n != 1) &&
        u.ep.cont == .normal) = true := by decide +kernel

/-- Member 2 is the nearest sharer where its route to member 1 is shorter than the home's. -/
theorem test_nearest (h : Config.hopCount 2 1 < Config.hopCount 0 1) : sSpan.nearest { DirEnt.empty with st := .s, ptrs := [2] } 1 = some 2 := by
  have h1 : sSpan.spanIdx = 0 := by decide +kernel
  have h2 : sSpan.memberOk 2 = true := by decide +kernel
  have h3 : sSpan.spanChip 0 = some 0 ∧ sSpan.spanChip 1 = some 1 ∧ sSpan.spanChip 2 = some 2 := by decide +kernel
  have h4 : sSpan.route 1 = [] := by decide +kernel
  simp [State.nearest, State.hops, h1, h2, h4, h3.1, h3.2.1, h3.2.2, DirEnt.empty, Nat.not_le.mpr h]

/-- An Inv is awaited of member 2 when member 1 asks for M. -/
theorem test_ask_inv : (sSpan.askInv (1, 9) gA [2]).2 = [.invAck 2] := by decide +kernel

theorem test_evs_arrives : ∀ e, e ∈ ents → Arrives (sEnt e 0x14) (msg1 0x14) 0x14 (took (sEnt e 0x14) (msg1 0x14)) ∧
    (took (sEnt e 0x14) (msg1 0x14)).fromMember (msg1 0x14) = true ∧ (took (sEnt e 0x14) (msg1 0x14)).blocked (msgLocal (msg1 0x14)) = false := by
  intro e he
  have h : ents.all (fun e => arrivesB (sEnt e 0x14) (msg1 0x14) 0x14 (took (sEnt e 0x14) (msg1 0x14)) &&
      (took (sEnt e 0x14) (msg1 0x14)).fromMember (msg1 0x14) && !(took (sEnt e 0x14) (msg1 0x14)).blocked (msgLocal (msg1 0x14))) = true := by decide +kernel
  have h1 := List.all_eq_true.mp h e he
  simp only [Bool.and_eq_true, Bool.not_eq_true'] at h1
  exact ⟨arrives_of h1.1.1, h1.1.2, h1.2⟩

/-- A transaction of member 2 that waits for answers of member 1. -/
def txn2 (w : List HWait) (granted done : Bool) : HTxn :=
  { mkTxn ⟨gA, .peer 2 2 4, .rdm, false, false, 0, zero64, false⟩ w with granted := granted, done := done }
def sTxn (t : HTxn) (opc : Nat) : State := withMsg { sSpan with txns := [t] } (msg1 opc)

def awaitedB (s : State) (m : Msg) (opc : Nat) (k : Nat) (w : HWait) (u : State) (t : HTxn) : Bool :=
  arrivesB s m opc u && u.replier m == some k && u.txns.find? (fun y => y.req.gran == msgLocal m && y.waits.contains w) == some t

theorem awaited_of {s : State} {m : Msg} {opc k : Nat} {w : HWait} {u : State} {t : HTxn} (h : awaitedB s m opc k w u t = true) :
    Awaited s m opc k w u t := by
  simp only [awaitedB, Bool.and_eq_true, beq_iff_eq] at h
  exact ⟨arrives_of h.1.1, h.1.2, h.2⟩

/-- The four kinds of answer, each as the last one and as one of two, before and after the grant. -/
def txnsFor (w : HWait) : List HTxn := [txn2 [w] false false, txn2 [w, .invAck 5] false false, txn2 [w] true false, txn2 [w] true true]

theorem test_answers_awaited : ∀ p, p ∈ [(0x33, HWait.wbS 1), (0x34, .rclData 1), (0x35, .invAck 1), (0x36, .fwdAck 1)] → ∀ t, t ∈ txnsFor p.2 →
    Awaited (sTxn t p.1) (msg1 p.1) p.1 1 p.2 (took (sTxn t p.1) (msg1 p.1)) t := by
  intro p hp t ht
  have h : [(0x33, HWait.wbS 1), (0x34, .rclData 1), (0x35, .invAck 1), (0x36, .fwdAck 1)].all (fun p => (txnsFor p.2).all (fun t =>
      awaitedB (sTxn t p.1) (msg1 p.1) p.1 1 p.2 (took (sTxn t p.1) (msg1 p.1)) t)) = true := by decide +kernel
  exact awaited_of (List.all_eq_true.mp (List.all_eq_true.mp h p hp) t ht)

/-- Where the last answer leads to the grant, the data is in place and the transaction waits for Done. -/
def grantsB (p : Nat × HWait) (data : Bool) : Bool :=
  let t := txn2 [p.2] false false
  let u := took (sTxn t p.1) (msg1 p.1)
  let d := if data then u.homeData gA (msg1 p.1).data false else u
  let v := if p.2 = .wbS 1 then d.dirPut gA (d.dirGet gA).shared else d
  let t' : HTxn := { t with waits := [] }
  v.txns == u.txns && v.biConf.isEmpty && v.flip.isNone && !((v.retxn gA t').homeServe t').2 &&
    (((v.retxn gA (txn2 [] true true)).grantEnd (txn2 [] true true)).dropTxn gA).conflict.isEmpty && u.lateInv.isEmpty

theorem test_answers_grant : grantsB (0x33, .wbS 1) true = true ∧ grantsB (0x34, .rclData 1) true = true ∧ grantsB (0x35, .invAck 1) false = true ∧
    grantsB (0x36, .fwdAck 1) false = true := by decide +kernel

/-- A late InvAck, and the Done of a granted transaction of member 1. -/
def sLate : State := withMsg { sSpan with lateInv := [(gA, 1)] } (msg1 0x35)
def txn1 (w : List HWait) : HTxn := { mkTxn ⟨gA, .peer 1 1 9, .rds, false, false, 0, zero64, false⟩ w with granted := true }

theorem test_late_and_done : Arrives sLate (msg1 0x35) 0x35 (took sLate (msg1 0x35)) ∧ (took sLate (msg1 0x35)).replier (msg1 0x35) = some 1 ∧ (took sLate (msg1 0x35)).lateInv = [(gA, 1)] ∧
    (took sLate (msg1 0x35)).awaits gA (.invAck 1) = false ∧ Arrives (sTxn (txn1 []) 0x3A) (msg1 0x3A) 0x3A (took (sTxn (txn1 []) 0x3A) (msg1 0x3A)) ∧
    (took (sTxn (txn1 []) 0x3A) (msg1 0x3A)).txns.find? (fun y => y.req.gran == gA && y.granted && !y.done && y.req.rq.peerOf == some (1, 9)) = some (txn1 []) ∧
    msgLocal (msg1 0x3A) = gA :=
  ⟨arrives_of (by decide +kernel), by decide +kernel, by decide +kernel, by decide +kernel, arrives_of (by decide +kernel), by decide +kernel,
    by decide +kernel⟩

/-- The time of a transaction that waits for one Inv runs out. -/
def timeoutB : Bool :=
  let t := txn2 [.invAck 1] false false
  let s : State := { sSpan with txns := [t] }
  let t' : HTxn := { t with waits := [], granted := false, fwd := false }
  s.runs && s.txns.find? (fun y => y.req.gran == canon gA / 64 * 64) == some t && !t.lost &&
    !((((((s.bump Fld.HOME_TIMEOUT_CNT_COUNT 1).memErr 0x15 1 1 (sliceOf gA) gA 1).retxn gA t').dirPut gA ((s.dirGet gA).drop 1)).homeServe t')).2

theorem test_timeout_meets : timeoutB = true := by decide +kernel

/-! ### As a peer and as a requester (O31, O32) -/

/-- A granule of chip 1, which this chip holds in M or S; a message of its home. -/
def gB : Nat := 2 ^ 46 + 0x10080000040
def msgB (opc : Nat) : Msg := { mkMsg opc 0 1 9 gB 0 (List.replicate 64 0x5A) with span := 2 }
def sHold (st : Coh) : State := { sSpan with rbuf := [(gB, ⟨st, false, zero64⟩)] }

theorem test_forwards_arrive : ∀ st, st ∈ [Coh.s, .m] → ∀ opc, opc ∈ [0x20, 0x21, 0x22, 0x23, 0x24] →
    Arrives (withMsg (sHold st) (msgB opc)) (msgB opc) opc (took (withMsg (sHold st) (msgB opc)) (msgB opc)) := by
  intro st hs opc ho
  have h : [Coh.s, .m].all (fun st => [0x20, 0x21, 0x22, 0x23, 0x24].all (fun opc =>
      arrivesB (withMsg (sHold st) (msgB opc)) (msgB opc) opc (took (withMsg (sHold st) (msgB opc)) (msgB opc)))) = true := by decide +kernel
  exact arrives_of (List.all_eq_true.mp (List.all_eq_true.mp h st hs) opc ho)

theorem test_forward_copies : (sHold .m).peerCopy gB = some ⟨.m, false, zero64⟩ ∧ (sHold .s).peerCopy gB = some ⟨.s, false, zero64⟩ ∧ msgGran (msgB 0x20) = gB ∧
    gB ∉ (sHold .m).inHold := by decide +kernel

/-- The granule is in its minimum hold, and one message waits for its end. -/
def sInHold : State := { sHold .m with inHold := [gB], delayed := [msgB 0x21] }

theorem test_hold_meets : Arrives (withMsg sInHold (msgB 0x24)) (msgB 0x24) 0x24 (took (withMsg sInHold (msgB 0x24)) (msgB 0x24)) ∧
    gB ∈ (took (withMsg sInHold (msgB 0x24)) (msgB 0x24)).inHold ∧ sInHold.delayed.filter (fun y => msgGran y == gB) = [msgB 0x21] :=
  ⟨arrives_of (by decide +kernel), by decide +kernel, by decide +kernel⟩

/-- Requests of this chip that are outstanding at chip 1. -/
def preq (op : HOp) : PReq := ⟨gB, op, 9, 3, false, false, some 0, 0, zero64, 0, .nobody⟩
def sReq (op : HOp) (opc : Nat) : State := withMsg { sSpan with preqs := [preq op] } (msgB opc)
def grants : List (HOp × Nat) := [(.rds, 0x30), (.rdm, 0x31), (.upg, 0x31), (.rdm, 0x32), (.upg, 0x32), (.wrf, 0x38), (.wrp, 0x38), (.rds, 0x39), (.wrf, 0x39), (.rds, 0x37)]

theorem test_grants_arrive : ∀ p, p ∈ grants → Arrives (sReq p.1 p.2) (msgB p.2) p.2 (took (sReq p.1 p.2) (msgB p.2)) := by
  intro p hp
  have h : grants.all (fun p => arrivesB (sReq p.1 p.2) (msgB p.2) p.2 (took (sReq p.1 p.2) (msgB p.2))) = true := by decide +kernel
  exact arrives_of (List.all_eq_true.mp h p hp)

theorem test_grants_asked : grants.all (fun p => (took (sReq p.1 p.2) (msgB p.2)).preqs.find? (fun q => q.gran == msgGran (msgB p.2) && q.txn == (msgB p.2).txn.toNat && q.op == p.1) ==
    some (preq p.1)) = true := by decide +kernel

/-- DataS with POISON in answer to RDM; a sector of the L2 that GRANTM raises to M; a request that waits to be sent again. -/
def sPois : State := withMsg { sSpan with preqs := [preq .rdm] } { msgB 0x30 with poison := true }
def sUpg : State := (withMsg { sSpan with preqs := [preq .upg], l2 := [(l2Base gB, ⟨true, false, gB / 128, 0, false, none, 0, 0, false, false, Sector.empty, ⟨.s, false, zero64⟩⟩)] } (msgB 0x32))

theorem test_more_grants : Arrives sPois { msgB 0x30 with poison := true } 0x30 (took sPois { msgB 0x30 with poison := true }) ∧
    Arrives sUpg (msgB 0x32) 0x32 (took sUpg (msgB 0x32)) ∧ ((took sUpg (msgB 0x32)).l2Sec gB).isSome = true ∧
    ({ sSpan with preqs := [{ preq .rds with waiting := true, retries := 4 }] } : State).starving gB = false :=
  ⟨arrives_of (by decide +kernel), arrives_of (by decide +kernel), by decide +kernel, by decide +kernel⟩

/-! ### The host at the home (O33 to O37) -/

def sHost : State := hostUp sSpan
def hReq (op : HOp) (mv : Meta) : HReq := ⟨gA, .host mv, op, false, false, 0, zero64, false⟩

def hostAdmittedB (s : State) (addr : Nat) (r : HReq) : Bool :=
  s.hostHere && s.memReady r.gran && !s.hostDenied r.gran && !s.compat r.gran && r.gran == canon addr / 64 * 64 && s.conflict.isEmpty && !s.blocked r.gran &&
    s.wayFor r == (s, .ok) && s.biConf.isEmpty && s.flip.isNone && s.inWait.isEmpty

theorem hostAdmitted_of {s : State} {addr : Nat} {r : HReq} (h : hostAdmittedB s addr r = true) : HostAdmitted s addr r := by
  simp only [hostAdmittedB, Bool.and_eq_true, beq_iff_eq, List.isEmpty_iff, Bool.not_eq_true', Option.isNone_iff_eq_none] at h
  obtain ⟨⟨⟨⟨⟨⟨⟨⟨⟨⟨a, b⟩, c⟩, d⟩, e⟩, f⟩, g⟩, i⟩, j⟩, k⟩, l⟩ := h
  exact ⟨a, b, c, d, e, f, g, i, ⟨j, k⟩, l⟩

theorem test_host_admitted : ∀ op, op ∈ [HOp.hostRead, .hostInv, .memWr, .memWrPtl] → ∀ mv, mv ∈ [Meta.i, .s, .a] → ∀ e, e ∈ ents.take 4 →
    HostAdmitted (sHost.dirPut gA e) gA (hReq op mv) := by
  intro op ho mv hm e he
  have h : [HOp.hostRead, .hostInv, .memWr, .memWrPtl].all (fun op => [Meta.i, .s, .a].all (fun mv => (ents.take 4).all (fun e =>
      hostAdmittedB (sHost.dirPut gA e) gA (hReq op mv)))) = true := by decide +kernel
  exact hostAdmitted_of (List.all_eq_true.mp (List.all_eq_true.mp (List.all_eq_true.mp h op ho) mv hm) e he)

/-- Partition 0 has core 0 and the Gallery by its linear alias. -/
def galSet : List SRec := [srec 0x0301 0 [1], srec 0x0302 0 ((natLe 8 0x10080000000 ++ natLe 8 0x80000000).map (·.toNat))]
def sDeny : State := hostUp (withSet sSpan (srec 0x0903 0 [1, 0] :: galSet))

/-- Memory that is not there, and memory that is withheld from the host. -/
theorem test_host_refused : sHost.hostHere = true ∧ sHost.memReady 0x40 = false ∧ sDeny.hostHere = true ∧ sDeny.memReady gA = true ∧
    sDeny.hostDenied gA = true := by decide +kernel

/-- A transaction that waits for the host's answer to a back-invalidate snoop. -/
def sSnoop : State := { sHost with txns := [txn2 [.biRsp] false false] }

def snoopB : Bool :=
  let t' : HTxn := txn2 [] false false
  sSnoop.hostHere && sSnoop.flip.isNone && sSnoop.biConf.isEmpty &&
    sSnoop.txns.find? (fun t => t.req.gran == canon gA / 64 * 64 && t.waits.contains .biRsp) == some (txn2 [.biRsp] false false) &&
    !((sSnoop.retxn gA t').homeServe t').2

theorem test_snoop_answers : snoopB = true ∧ sHost.hostHere = true ∧ sHost.awaits gA .biRsp = false := by decide +kernel

/-- A line of the host in the L2. -/
def hA : Nat := hostBase + 0x40
def sCached (st : Coh) : State :=
  { sHost with l2 := [(l2Base (sHost.paOf (sHost.snoopName 0x40)), ⟨true, true, sHost.paOf (sHost.snoopName 0x40) / 128, 0, false, none, 0, 0, false, st == .m, Sector.empty, ⟨st, false, zero64⟩⟩)] }

theorem test_host_snoops : sHost.l2Sec (sHost.paOf (sHost.snoopName 0x40)) = none ∧ sHost.rbuf = [] ∧
    (sCached .m).l2Sec (sHost.paOf (sHost.snoopName 0x40)) = some ⟨.m, false, zero64⟩ ∧ (sCached .s).l2Sec (sHost.paOf (sHost.snoopName 0x40)) = some ⟨.s, false, zero64⟩ ∧
    (sCached .m).hostHere = true := by decide +kernel

/-- An earlier request of the host is open, and none is (O35). -/
def hTxn : HTxn := mkTxn (hReq .hostRead .a) [.rclData 1]

theorem test_conflict_meets : ({ sHost with txns := [hTxn] } : State).hostHere = true ∧ hTxn.req.gran = canon gA / 64 * 64 ∧ hTxn.req.rq = .host .a := by decide +kernel

/-- Requests of the L2 that the host answers (O36): of host memory by its host name, and of device memory that the host hands back. -/
def hcReq (op : HcOp) (a : Nat) : HcReq := ⟨a, op, some 0, 0, zero64, 0xFF, .nobody, false⟩
def sAsk (op : HcOp) (a : Nat) : State := { sHost with hcReqs := [hcReq op a] }

theorem test_host_cache_asked : [HcOp.rdShared, .rdOwn].all (fun op => let s := sAsk op hA
      s.hostHere && s.hcReqs.find? (fun q => s.hostName q.addr == s.hostName hA && q.op.reads) == some (hcReq op hA)) = true ∧
    [HcOp.rdOwnNoData, .woWrInvF, .woWrInv, .dirtyEvict, .cleanEvictNoData].all (fun op => let s := sAsk op hA
      s.hcReqs.find? (fun q => s.hostName q.addr == s.hostName hA && !q.op.reads) == some (hcReq op hA)) = true ∧
    [HcOp.rdShared, .rdOwn].all (fun op => (sAsk op gA).hcReqs.find? (fun q => q.addr == canon gA / 64 * 64 && q.op.reads) == some (hcReq op gA)) = true ∧
    [HcOp.rdOwnNoData, .woWrInvF, .woWrInv, .dirtyEvict].all (fun op => (sAsk op gA).hcReqs.find? (fun q => q.addr == canon gA / 64 * 64 && !q.op.reads && q.op != .clflush) ==
      some (hcReq op gA)) = true := by decide +kernel

/-- A flip of one page of a partition in compatibility mode (O37). -/
def sFlip : State := fwUp ((((withSet (waysOn base) galSet).setFld Fld.HOME_MODE_COMPAT 1).setFld Fld.HOME_BIAS_ADDR_ADDR 0x10080010000))

theorem test_flip_meets : (∀ p, p ∈ [(Reg.HOME_BIAS_CMD, 2 ^ 31 + 2 ^ 30 + 1), (Reg.HOME_BIAS_CMD, 2 ^ 31 + 1), (Reg.HOME_BIAS_CMD, 2 ^ 31)] →
      ∃ r, WriteOk .firmware sFlip r p.1 p.2) ∧
    sFlip.fld Fld.HOME_BIAS_ADDR_ADDR % 0x10000 = 0 ∧ (List.range 128).all (fun j =>
      let a := canon (biasBase 0x10080010000 + 512 * j); sFlip.holdsMem a && sFlip.compat a) = true ∧ sFlip.txns = [] ∧ sFlip.ep.cont = .normal :=
  ⟨writesOk_of (by decide +kernel), by decide +kernel, by decide +kernel, by decide +kernel, by decide +kernel⟩

/-- The flip has started; a walk over an empty directory, and over one entry that the silent member owns. -/
def sFlipping : State := { sFlip with flip := some ⟨0x10080010000, 1, false, true⟩ }
def sWalk : State := { sSpan with purges := [some 1, none] }
def entO : DirEnt := { DirEnt.empty with st := .m, ptrs := [1], gran := gA }
def sWalk1 : State := { sSpan with purges := [some 1], dir := [(0, entO)] }

theorem test_walks_meet : sFlipping.runs = true ∧ sFlipping.hcReqs = [] ∧ sWalk.runs = true ∧ sWalk.dir = [] ∧ sWalk.conflict = [] ∧ sWalk.spanState 1 ≠ 2 ∧ sWalk1.runs = true ∧
    sWalk1.txns = [] ∧ sWalk1.conflict = [] ∧ 1 ∈ entO.ptrs := by decide +kernel

end Sys2Proof.Tests
end

