-- ==== Sys2Proof/Tests/Control.lean ====
section
/-! SUPPORT. Witnesses of the hypotheses of the statements about the Stairway, Newel, Landings, the Setting, security, power, resets,
read-out and registers (O47 to O60). -/
namespace Sys2Proof.Tests
open Sys2Proof.Machine
set_option Elab.async false

/-! ### Ports (O47) -/

def sPort (q : Port) : State := { base with ports := [(2, q)] }
def portSt (st : PortSt) : Port := { Port.empty with st := st }

def lonelyB (s : State) (p : Nat) : Bool :=
  (s.portUsers p).isEmpty && s.armed.isEmpty &&
    !((s.fld Fld.NWL_STATUS_STATE == 1 || s.fld Fld.NWL_STATUS_STATE == 2) && s.fld Fld.NWL_STATUS_UPPORT == p)

theorem lonely_of {s : State} {p : Nat} (h : lonelyB s p = true) : Lonely s p := by
  simp only [lonelyB, Bool.and_eq_true, List.isEmpty_iff, Bool.not_eq_true', Bool.and_eq_false_iff, Bool.or_eq_false_iff, beq_eq_false_iff_ne] at h
  refine ⟨h.1.1, h.1.2, ?_⟩
  rintro ⟨h1, h2⟩
  rcases h.2 with h3 | h3
  · rcases h1 with h1 | h1
    · exact h3.1 h1
    · exact h3.2 h1
  · exact h3 h2

theorem test_port_lonely : Lonely (sPort (portSt .up)) 2 := lonely_of (by decide +kernel)

/-- Every state of a port stands in a state that runs. -/
theorem test_port_states : [PortSt.down, .train, .ident, .key, .up, .contained, .disabled].all (fun x => (sPort (portSt x)).runs && ((sPort (portSt x)).port 2).st == x) = true ∧
    base.aon.serdesOk = true ∧ (List.range 64).all (fun k => base.spanState k != 2) = true ∧ base.purges = [] := by decide +kernel

/-- An IDENT of the expected neighbour, with the Setting that expects it. -/
def idSet : List SRec := [srec 0x0102 0 [7, 0, 0, 0], srec 0x0702 2 [5, 0, 3]]
def sIdent (q : Port) : State := withSet (sPort q) idSet
def ident1 (acked : Bool) : IdentPayload := ⟨true, 7, 5, 3, acked, 9, 1, 2, [8, 8, 8, 8, 8, 8], 100, 100⟩
theorem test_ident_meets : (let s := sIdent { portSt .ident with heard := true, matched := true, sentAck := true, rxAck := true }
    let r := s.srec 0x0702 2
    let d := ident1 true
    s.runs = true ∧ (s.port 2).st = .ident ∧ d.crcOk = true ∧ d.stairwell.toNat = s.snat 0x0102 0 ∧ 3 ≤ r.length ∧ d.chip.toNat = at' r 0 2 ∧ d.port.toNat = at' r 2 1 ∧
      d.major = 1 ∧ s.roots = []) := by decide +kernel

/-- Flits: a port that is UP with a replay buffer and a NAK counter, messages for this chip, and a queue. -/
def flit1 (n : Nat) : Flit := ⟨BitVec.ofNat 12 n, false, 1, []⟩
def upPort_ : Port := { portSt .up with rxSeq := 7, txSeq := 12, replay := [flit1 9, flit1 10, flit1 11], nakSeq := 10, nakCnt := 7, unacked := 3, queue := [] }
theorem test_flits_meet : upPort_.covered 10 = 2 ∧ upPort_.covered 5 = 0 ∧ (0 < upPort_.nakCnt ∧ upPort_.nakSeq = 10) ∧ 8 ≤ upPort_.nakCnt + 1 ∧ upPort_.unacked < 63 ∧
    (let m := msg1 0x10
     m.dst.toNat = (sPort upPort_).chip ∧ opcodeOk m.opc.toNat = true ∧ m.opc ≠ 0x60 ∧ m.opc ≠ 0x61) ∧
    (∃ m, m ∈ ({ upPort_ with queue := [msg1 0x10] } : Port).queue ∧ vcOf m.opc.toNat = 0) := by
  refine ⟨by decide +kernel, by decide +kernel, by decide +kernel, by decide +kernel, by decide +kernel, by decide +kernel, msg1 0x10, ?_, by decide +kernel⟩
  simp

/-- A port that discards until its expected flit comes: sequence number 7 is that flit, 9 is not. -/
theorem test_naking_meets : (let q := { upPort_ with naking := true }
    q.st = .up ∧ (q.naking = true ∧ (9 : BitVec 12) ≠ q.rxSeq) ∧ (7 : BitVec 12) = q.rxSeq ∧ q.unacked < 63) := by decide +kernel

/-- Firmware may give every command of STW_PORT_CMD. -/
theorem test_port_writes : ∀ p, p ∈ (List.range 4).flatMap (fun op => [(Reg.STW_PORT_CMD 2, 2 ^ 31 + op), (Reg.STW_PORT_CMD 7, 2 ^ 31 + op)]) →
    ∃ r, WriteOk .firmware (fwUp (sPort (portSt .contained))) r p.1 p.2 := writesOk_of (by decide +kernel)
theorem test_port_causes : (sPort (portSt .contained)).fld (Fld.STW_PORT_STATUS_CAUSE 2) = 0 ∧
    ((sPort (portSt .contained)).setFldBit (Fld.STW_PORT_STATUS_CAUSE 2) 1 true).fld (Fld.STW_PORT_STATUS_CAUSE 2) ≠ 0 ∧
    (List.range 8).all (fun k => k == 2 || ((sPort (portSt .up)).port k).st != .up) = true ∧
    (List.range 8).all (fun k => !((sPort (portSt .contained)).port k).st.live) = true := by decide +kernel

/-! ### Newel, trays and Ethernet (O48) -/

/-- Chip 5, reached over port 2, is the root; port 2 is UP and an exchange is in progress. -/
def rootSet : List SRec := [srec 0x0803 0 [5, 0, 255, 255, 255, 255, 255, 255], srec 0x0802 5 [2, 255, 255, 255]]
def sDown : State := { withSet (sPort { portSt .up with t1 := some 1000 }) rootSet with servo := { Servo.empty with pend := some 2 } }
def selfSet : List SRec := [srec 0x0803 0 [0, 0, 255, 255, 255, 255, 255, 255], srec 0x0703 0 [1], srec 0x0703 1 [1]]
def sRoot : State := (withSet (sPort (portSt .up)) selfSet).setFldB Fld.ETH_CFG_PTP_EN true

theorem test_newel_meets : sDown.runs = true ∧ sDown.upPort = some 2 ∧ sRoot.upPort = none ∧ sRoot.root = some sRoot.chip ∧ sDown.servo.pend = some 2 ∧ (sDown.port 2).t1 = some 1000 ∧
    (sDown.port 2).st = .up ∧ sDown.armed = [] := by decide +kernel

/-- The offsets of R394: 1 ns, 5 ns and 2 µs, and the states of the servo. -/
theorem test_offsets :
    (sext 64 ((2007 : W64) - 1000).toNat - sext 64 ((3000 : W64) - 2000).toNat).tdiv 2 = 3 ∧
    (sext 64 ((1001 : W64) - 1000).toNat - sext 64 ((1010 : W64) - 1010).toNat).tdiv 2 = 0 ∧
    (sext 64 ((9000 : W64) - 1000).toNat - sext 64 ((1010 : W64) - 1010).toNat).tdiv 2 = 4000 ∧
    (sDown.setFld Fld.NWL_STATUS_STATE 2).fld Fld.NWL_STATUS_STATE = 2 := by decide +kernel

theorem test_ptp_follows : (let s := { sRoot with eth := [(0, { EthPort.empty with link := true })] }
    s.fldB Fld.ETH_CFG_PTP_EN = true ∧ s.fld Fld.ETH_CFG_PTP_PORT = 0 ∧ (s.ethPort 0).link = true ∧ s.root = some s.chip) := by decide +kernel

/-- A two-step Sync waits for its Follow_Up; a Delay_Req waits for its answer, and another sequence number is none. -/
def sPtp (sync : Option (W16 × W64)) (dreq : Option (W16 × W64)) : State :=
  { sRoot with eth := [(0, { EthPort.empty with link := true })], servo := { Servo.empty with ptp := ⟨sync, some (1000, 2007), dreq, 5⟩ } }
theorem test_ptp_meets : (let s := sPtp (some (4, 2007)) (some (4, 3000))
    s.runs = true ∧ (0 : Byte).toNat = at' (s.srec 0x0705 0) 2 1 ∧ (1 : Byte).toNat ≠ at' (s.srec 0x0705 0) 2 1 ∧ s.servo.ptp.sync = some (4, 2007) ∧
      s.servo.ptp.dreq = some (4, 3000) ∧ (4 : W16) ≠ 9 ∧ s.servo.ptp.pair = some (1000, 2007) ∧ s.armed = []) ∧
    1000 < ((sext 64 ((9000 : W64) - 3000).toNat - sext 64 ((2007 : W64) - 1000).toNat).tdiv 2).natAbs := by decide +kernel

/-- Notices of trays that came on port 2: a first LEAVE of tray 9, a second one, and a LAST_GASP that follows it. -/
def notice (opc : Nat) : Msg := mkMsg opc 0 5 0 0 0 (natLe 2 9 ++ natLe 2 5 ++ List.replicate 60 0)
def sNotice (opc : Nat) (q : List (Nat × Nat)) (st : PortSt) : State := { sPort (portSt st) with inbox := [(2, notice opc)], leaves := q }
def came (s : State) (m : Msg) : State := (s.takeFrom 2 m m.opc.toNat).getD s
theorem came_of {s : State} {m : Msg} {opc : Nat} (ho : m.opc.toNat = opc) (h : (s.runs && (s.takeFrom 2 m opc).isSome) = true) : Came s 2 m opc (came s m) := by
  subst ho
  obtain ⟨h1, h2⟩ := Bool.and_eq_true _ _ ▸ h
  obtain ⟨u, hu⟩ := Option.isSome_iff_exists.mp h2
  exact ⟨h1, by simp [came, hu]⟩

theorem test_leave_came : Came (sNotice 0x65 [] .down) 2 (notice 0x65) 0x65 (came (sNotice 0x65 [] .down) (notice 0x65)) :=
  came_of (by decide) (by decide +kernel)
theorem test_leave_meets : (let u := came (sNotice 0x65 [] .down) (notice 0x65)
    let tray := at' (notice 0x65).data 0 2
    let origin := at' (notice 0x65).data 2 2
    (tray, origin) = (9, 5) ∧ (tray, origin) ∉ u.leaves ∧ tray ≠ u.fld Fld.STW_CFG_TRAY ∧ (List.range 8).all (fun k => u.port k == Port.empty) = true ∧ u.armed = [] ∧
      origin ∉ u.left ∧ u.spanOf origin = none) ∧ (9, 5) ∈ (came (sNotice 0x65 [(9, 5)] .down) (notice 0x65)).leaves := by decide +kernel
theorem test_gasp_came : Came (sNotice 0x64 [(9, 5)] .up) 2 (notice 0x64) 0x64 (came (sNotice 0x64 [(9, 5)] .up) (notice 0x64)) ∧
    Lonely (came (sNotice 0x64 [(9, 5)] .up) (notice 0x64)) 2 ∧ ((came (sNotice 0x64 [(9, 5)] .up) (notice 0x64)).port 2).st = .up ∧
    (at' (notice 0x64).data 0 2, (notice 0x64).src.toNat) ∈ (came (sNotice 0x64 [(9, 5)] .up) (notice 0x64)).leaves :=
  ⟨came_of (by decide) (by decide +kernel), lonely_of (by decide +kernel), by decide +kernel, by decide +kernel⟩

/-- Member 1 is SILENT and joins, with and without its purge walk still in progress. -/
def joinMsg : Msg := mkMsg 0x66 0 1 0 0 0 (natLe 1 1 ++ List.replicate 63 0)
def sJoin (w : List (Option Nat)) : State := { sSpan.setSpanState 1 2 with inbox := [(2, joinMsg)], purges := w }
theorem test_join_arrives : Arrives (sJoin []) joinMsg 0x66 (took (sJoin []) joinMsg) ∧ Arrives (sJoin [some 1]) joinMsg 0x66 (took (sJoin [some 1]) joinMsg) :=
  ⟨arrives_of (by decide +kernel), arrives_of (by decide +kernel)⟩
theorem test_join_meets : (let u := took (sJoin []) joinMsg
    u.spanChip (at' joinMsg.data 0 1) = some joinMsg.src.toNat ∧ u.spanState 1 = 2 ∧ some 1 ∉ u.purges ∧ some 1 ∈ (took (sJoin [some 1]) joinMsg).purges) := by decide +kernel
theorem test_mail_arrives : Arrives (withMsg sSpan (mkMsg 0x67 0 1 0 0 0 (List.replicate 64 3))) (mkMsg 0x67 0 1 0 0 0 (List.replicate 64 3)) 0x67 sSpan :=
  arrives_of (by decide +kernel)

/-- Ethernet port 0 exists and has a link; telemetry goes to entry 0. -/
def sEth : State :=
  ((({ withSet (waysOn base) selfSet with eth := [(0, { EthPort.empty with link := true })] } : State).setReg Reg.ETH_EP_BASE 0x10080000000).setFld
    Fld.PWR_TELEM_CTL_PERIOD 10) |>.storeRun 0x10080000000 ([3, 0, 0, 0] ++ natLe 2 1 ++ List.replicate 58 0)
theorem test_eth_meets : sEth.inService = true ∧ sEth.ethExists 0 = true ∧ sEth.ethExists 15 = false ∧ (sEth.ethPort 0).link = true ∧ (sEth.ethPort 1).link = false ∧
    sEth.aon.serdesOk = true ∧ sEth.fld Fld.PWR_TELEM_CTL_PERIOD ≠ 0 ∧
    (let e := sEth.loadRun (sEth.fld Fld.ETH_EP_BASE_BASE + 64 * sEth.fld Fld.ETH_CFG_TELEM_EP) 64
     at' e 0 1 % 4 = 3 ∧ sEth.epPort e = some 0) := by decide +kernel

/-! ### Landings (O49) -/

/-- Partition 3 has a Flight of 16 entries that the host may use; set 1 names entry 4 of it. -/
def land0 (st : LSt) : Landing := ⟨5000, 5000, 100, 7, 0, 0, 40000, 0, 0, st, false, 0, 0⟩
def sFl (l : Landing) : State :=
  (((((fwUp base).setFld (Fld.NWL_FLIGHT_N 3) 16).setFldB (Fld.NWL_FLIGHT_HOST 3) true).setFld (Fld.NWL_LAND_SEL_PARTITION 1) 3).setFld
    (Fld.NWL_LAND_SEL_INDEX 1) 4).setFlight 3 4 l

/-- An exchange that ends more than 1 µs out while an entry is armed (O48). -/
theorem test_armed_offset : (let s := sDown.setFlight 3 4 (land0 .armed)
    s.runs = true ∧ s.upPort = some 2 ∧ (s.port 2).st = .up ∧ s.servo.pend = some 2 ∧ (s.port 2).t1 = some 1000 ∧ s.armed ≠ [] ∧
      1000 < ((sext 64 ((9000 : W64) - 1000).toNat - sext 64 ((1010 : W64) - 1010).toNat).tdiv 2).natAbs) := by decide +kernel

theorem test_land_writes : ∀ p, p ∈ (List.range 5).flatMap (fun op => [(Reg.NWL_LAND_CMD 0, 2 ^ 31 + op), (Reg.NWL_LAND_CMD 1, 2 ^ 31 + op)]) →
    ∃ r, WriteOk .firmware (sFl (land0 .armed)) r p.1 p.2 := writesOk_of (by decide +kernel)

/-- Each state of an entry; data words that can be armed, and ones that cannot (a WORK above the PERIOD). -/
theorem test_land_states : [LSt.empty, .armed, .fired, .cancelled].all (fun x => let s := sFl (land0 x)
      (s.flight (s.fld (Fld.NWL_LAND_SEL_PARTITION 1)) (s.fld (Fld.NWL_LAND_SEL_INDEX 1))).st == x &&
        s.fldB (Fld.NWL_FLIGHT_HOST 3) && decide (4 < s.fld (Fld.NWL_FLIGHT_N 3)) && s.cores.isEmpty && s.sqs.isEmpty && s.clasp.st == .idle && !s.landBad 1 &&
        (s.setReg (Reg.NWL_LAND_DATA 1 2) (1000 + 2000 * 2 ^ 32)).landBad 1 && s.inService && (s.jobOf 7).isEmpty) = true ∧
    (let s := (sFl (land0 .fired)).setReg (Reg.NWL_LAND_DATA 1 0) 9000
     s.reg (Reg.NWL_LAND_DATA 1 0) + 0 < 2 ^ 64 ∧ s.aon.newel.toNat < s.reg (Reg.NWL_LAND_DATA 1 0) + 0) ∧
    (sFl (land0 .armed)).fldB (Fld.NWL_FLIGHT_HOST 0) = false := by decide +kernel

/-- An entry whose time has come, the earliest of those that have not, one behind it, and a periodic one. -/
theorem test_fire_meets : (let s := (sFl (land0 .armed)).setFlight 3 5 { land0 .armed with time := 6000 }
    s.armed = [(3, 4), (3, 5)] ∧ s.aon.newel.toNat < (s.flight 3 5).time.toNat ∧ (s.flight 3 4).time.toNat < (s.flight 3 5).time.toNat ∧
      (∀ x, x ∈ s.armed → (s.flight 3 4).time.toNat ≤ (s.flight x.1 x.2).time.toNat) ∧ s.clasp.st ≠ .pending) ∧
    ({ land0 .armed with period := 50000 } : Landing).period ≠ 0 := by decide +kernel

/-- SLIP and JOB_CANCEL of job 7 from sequence number 100 on. -/
def jobMsg (opc : Nat) : Msg := mkMsg opc 0 5 0 0 0 (natLe 2 7 ++ [0, 0] ++ natLe 4 100 ++ natLe 4 11024 ++ List.replicate 52 0)
def sJob (opc : Nat) (l : Landing) : State := { sFl l with inbox := [(2, jobMsg opc)] }
theorem test_job_messages : [0x62, 0x63].all (fun o => (sJob o (land0 .armed)).runs && ((sJob o (land0 .armed)).takeMsg (jobMsg o) o == some (sFl (land0 .armed)))) = true ∧
    (sFl (land0 .armed)).jobEntries 7 = [(3, 4)] ∧ precedes 32 (land0 .armed).jseq.toNat 100 = false ∧ (sFl (land0 .fired)).hasFired 7 100 = true ∧
    (sFl (land0 .armed)).armed = [(3, 4)] ∧
    (sFl (land0 .armed)).aon.newel.toNat < ((sFl (land0 .armed)).flight 3 4).time.toNat := by decide +kernel

/-- The prediction of Table 13.7: at 961,000, work 10,600 of 40,000 at 1.2 GHz is late for a Landing at 1,000,000. Core 0 of partition 3 is
awake, and the governor holds it at 1.2 GHz. -/
def sPred : State :=
  let s := (sFl { land0 .armed with time0 := 1000000, time := 1000000 }).setFld Fld.NWL_SLIP_CFG_THRESH 125
  let s := (s.setFld Fld.NWL_SLIP_CFG_MARGIN 64).setFldB Fld.NWL_SLIP_CFG_ECO false
  let s := { withSet s [srec 0x0301 3 [1]] with pwr := { s.pwr with gov := [(0, 1200)] }, cores := [(0, { Core.empty with sleep := .active })], jobWork := [(65536 * 3 + 7, some 21200000)] }
  { s with aon := { s.aon with newel := 961000 } }
theorem test_prediction_meets : sPred.inService = true ∧ sPred.jobEntries 7 = [(3, 4)] ∧ sPred.fldB Fld.NWL_SLIP_CFG_ECO = false ∧
    sPred.partClock 3 = 1200 ∧ (SMap.get noWork sPred.jobWork (65536 * 3 + 7)).getD 0 = 21200000 ∧ 10600 = 21200000 / 2000 ∧
    sPred.jobOf 7 = [] ∧
    (let e := sPred.flight 3 4
     e.work ≠ 0 ∧ precedes 32 e.jseq.toNat e.jseq.toNat = false ∧
      (sPred.aon.newel.toNat : Int) + ((e.work * 2000 : Int) - 21200000).tdiv 1200 = 1010000 ∧
      (1010000 : Int) - e.time.toNat > 16 * sPred.fld Fld.NWL_SLIP_CFG_THRESH) := by decide +kernel
/-- Its slip is D = 11,024. -/
theorem test_slip_table : ((nx (execSlipPrediction 3 7 10600 1200 sPred)).flight 3 4).time = 1011024 := by decide +kernel

/-! ### The Setting and Clasp (O50) -/

def recBytes (r : SRec) : List Byte :=
  natLe 2 r.key ++ natLe 2 r.idx ++ natLe 2 r.val.length ++ [0, 0] ++ r.val ++ List.replicate ((8 - r.val.length % 8) % 8) 0
def section_ (ty : Nat) (l : List SRec) : List Byte :=
  let b := l.flatMap recBytes
  natLe 2 ty ++ natLe 2 1 ++ natLe 4 (8 + b.length) ++ b
/-- An image with its sections, its base, and signatures of zeros. -/
def image (kind : Nat) (n : Nat) (base : List Byte) (body : List Byte) : List Byte :=
  natLe 4 0x54454C50 ++ natLe 2 1 ++ natLe 1 kind ++ [0] ++ natLe 4 (96 + body.length + 4723) ++ natLe 2 n ++ [1, 0] ++ natLe 8 0 ++ base ++
    natLe 4 (96 + body.length) ++ List.replicate 20 0 ++ body ++ List.replicate 4723 0

def chipRecs : List SRec := [srec 0x0101 0 [0, 0], srec 0x0102 0 [1, 0, 0, 0], srec 0x0103 0 [0, 0], srec 0x0104 0 [0]]
def memRecs : List SRec :=
  [srec 0x0201 0 [255], srec 0x0202 0 [7], srec 0x0203 0 [0x10, 0x27], srec 0x0204 0 [0], srec 0x0205 0 [0, 0, 0, 0, 0x7F, 0, 0, 0],
   srec 0x0206 0 [0, 0, 0x10, 0, 0x7F, 0, 0, 0], srec 0x0207 0 [0, 0, 0x20, 0, 0x7F, 0, 0, 0], srec 0x0208 0 [0, 0, 0, 0, 0, 0, 0, 0]]
def ownerKey : List Byte := List.replicate 2689 0
def keyRec : SRec := ⟨0x0901, 0, ownerKey⟩
def loadRecs : List SRec := chipRecs ++ memRecs ++ [keyRec]
def loadImg : List Byte := image 1 3 zeros48 (section_ 1 chipRecs ++ section_ 2 memRecs ++ section_ 9 [keyRec])

/-- The image reads as its records; no value is out of range, and no rule is broken. -/
theorem test_image_reads : (match readImage 1 loadImg with | .ok l => l.map (·.2) == loadRecs && (firstRange (recHbm loadRecs) l).isNone | _ => false) = true := by
  decide +kernel

/-- A load that is in progress, from the store. -/
def sLoad (img : List Byte) : State :=
  let s := ((fwUp base).setFld Fld.SET_LOAD_CMD_GO 1).setFldB Fld.SET_LOAD_CMD_SRC true
  { s with store := img, aon := { s.aon with dev := .vestibule, owners := [sha384 ownerKey] } }

theorem test_load_meets : (sLoad loadImg).runs = true ∧ (sLoad loadImg).fld Fld.SET_LOAD_CMD_GO = 1 ∧ (List.range 2).all (fun n => (sLoad []).fld (Fld.SEC_CMD_GO n) == 0) = true ∧
    (sLoad []).fldB Fld.SET_LOAD_CMD_SRC = true ∧ (sLoad []).ruleBroken loadRecs = none ∧ leNat (recVal loadRecs 0x0201 0) = 255 ∧
    leNat (recVal loadRecs 0x0202 0) = 7 ∧ (sLoad []).l2 = [] ∧ (sLoad []).msc = [] := by decide +kernel

/-- Where both signatures of the owner verify, the image is authentic. -/
theorem test_load_authentic
    (h1 : Config.ecdsaOk ((recVal loadRecs 0x0901 0).take 97) (loadImg.take (at' loadImg 0x48 4)) ((loadImg.drop (at' loadImg 0x48 4)).take 96) = true)
    (h2 : Config.mldsaOk ((recVal loadRecs 0x0901 0).drop 97) (loadImg.take (at' loadImg 0x48 4)) ((loadImg.drop (at' loadImg 0x48 4 + 96)).take 4627) = true) :
    (sLoad loadImg).authentic loadRecs loadImg = true := by
  have hk : recVal loadRecs 0x0901 0 = ownerKey := by decide +kernel
  have ho : (sLoad loadImg).aon.owners.getLast? = some (sha384 ownerKey) := rfl
  rw [hk] at h1 h2
  simp only [State.authentic, ho, hk, h1, h2, Bool.and_true, beq_self_eq_true]
  decide +kernel

/-- Each step that can fail: an empty store, an address that is not aligned, a length above 4 MiB, a malformed image, a value out of
range, a broken rule, memory that does not train. -/
theorem test_load_failures : (sLoad []).store = [] ∧ (match readImage 1 [1] with | .error _ => true | _ => false) = true ∧
    (((sLoad []).setFldB Fld.SET_LOAD_CMD_SRC false).setFld Fld.SET_LOAD_ADDR_ADDR 8).fld Fld.SET_LOAD_ADDR_ADDR % 4096 ≠ 0 ∧
    4194304 < (((sLoad []).setFldB Fld.SET_LOAD_CMD_SRC false).setFld Fld.SET_LOAD_CMD_LEN 0x400008).fld Fld.SET_LOAD_CMD_LEN ∧
    (firstRange 0 [(2, srec 0x0202 0 [9])]).isSome = true ∧ (sLoad []).ruleBroken (srec 0x0301 0 [0] :: loadRecs) = some 2 ∧
    sameMemory loadRecs (sLoad []).setting = false := by decide +kernel

end Sys2Proof.Tests
end

