-- ==== Sys2Proof/Tests/Links.lean ====
section
/-! SUPPORT. Witnesses of the hypotheses of the statements about translation, windows, the endpoint, queues, the tier manager, the
Stairway, Newel and Landings (O38 to O49). -/
namespace Sys2Proof.Tests
open Sys2Proof.Machine
set_option Elab.async false

/-! ### Translation (O38, O39) -/

/-- Partition 0 has core 0 and the Gallery; tag 5 has a context, whose root stands at 0x10080010000. -/
def sXlt : State := (waysOn (withSet base galSet)).setCtx 5 ⟨true, 0, false, 0x10080010000⟩

/-- Firmware may give every translation command on channel 0, with tag 65535 and with tag zero, and an advice 1 to 4. -/
theorem test_xlt_writes : ∀ p, p ∈ [0, 1, 2, 3, 4, 5, 6, 8].flatMap (fun op => [(Reg.XLT_CMD 0, 2 ^ 31 + op * 2 ^ 26 + 65535), (Reg.XLT_CMD 3, 2 ^ 31 + op * 2 ^ 26)]) ++
      [(Reg.XLT_CMD 0, 2 ^ 31 + 2 * 2 ^ 26 + 2 ^ 25 + 15 * 2 ^ 21 + 5)] ++ [1, 2, 3, 4].map (fun a => (Reg.XLT_CMD 0, 2 ^ 31 + 7 * 2 ^ 26 + a * 2 ^ 18 + 5)) →
    ∃ r, WriteOk .firmware (fwUp sXlt) r p.1 p.2 := writesOk_of (by decide +kernel)

/-- An advise with ADVICE 0, and one with ADVICE 5, carry a reserved encoding (R14). -/
theorem test_advice_reserved : [0, 5].all (fun a => (match findReg (Reg.XLT_CMD 0) with
    | some (r, o) => (fwUp sXlt).violates .firmware r o (2 ^ 31 + 7 * 2 ^ 26 + a * 2 ^ 18 + 5) (2 ^ 32 - 1) == some 3
    | none => false)) = true := by decide +kernel

theorem test_xlt_contexts : (sXlt.ctx 5).valid = true ∧ sXlt.tagUsed 5 = false ∧ (sXlt.ctx 6).valid = false ∧ sXlt.rootOk 0 0x10080010000 = true ∧
    sXlt.rootOk 0 0x10080010800 = false ∧ (sXlt.setCore 0 (coreOf { tm0 with tag := 5 } gr0)).tagUsed 5 = true := by decide +kernel

/-- An invalidation whose old store is still there, and one that has nothing left. -/
def sInval (olds : List OldAcc) : State := (sWait 1).setXop 2 (.inval false 5 true olds)

theorem test_inval_meets : (sInval []).inService = true ∧ (sInval []).xop 2 = .inval false 5 true [] ∧ (sInval []).oldLeft [] = [] ∧
    (sInval [.core 0 7]).oldLeft [.core 0 7] ≠ [] := by decide +kernel

/-- Commands that end on channel 1: CREATE of tag 6, CREATE of tag 5, ADVISE, a prefetch of nothing. -/
def sXdone (op tag : Nat) : State :=
  ((((sXlt.setXop 1 (.run 0 0)).setFld (Fld.XLT_CMD_OP 1) op).setFld (Fld.XLT_CMD_TAG 1) tag).setFld (Fld.XLT_CMD_ADVICE 1) 4).setFld
    (Fld.XLT_CMD_ADDR_ADDR 1) 0x10080010000

theorem test_xdone_meets : [(2, 6), (2, 5), (7, 5), (4, 5), (6, 5)].all (fun p => let s := sXdone p.1 p.2
    s.inService && s.xop 1 == .run 0 0 && s.fld (Fld.XLT_CMD_OP 1) == p.1 && s.fld (Fld.XLT_CMD_TAG 1) == p.2 && s.fld (Fld.XLT_CMD_ADVICE 1) != 0 &&
      s.pages.isEmpty && s.rootOk (s.fld (Fld.XLT_CMD_PARTITION 1)) (s.fld (Fld.XLT_CMD_ADDR_ADDR 1)) && s.fld (Fld.XLT_CMD_LEN_LEN 1) == 0) = true := by decide +kernel

/-- A four-level table that maps 0x1000 to 0x10080200000 in 4 KiB, as memory of the Gallery. -/
def sTable (leaf : Nat) : State :=
  ((((sXlt.storeRun 0x10080010000 (natLe 8 (0x10080011000 + 1))).storeRun 0x10080011000 (natLe 8 (0x10080012000 + 1))).storeRun 0x10080012000
    (natLe 8 (0x10080013000 + 1))).storeRun 0x10080013008 (natLe 8 leaf))

def walk1 : WalkReq := ⟨3, .chan 4, 772, 5, 0, 0x1000, 1, true, false, 1, .walking, false, true, false⟩
def sWalking (leaf : Nat) : State := { sTable leaf with walks := [walk1] }

/-- The walk finds the leaf, or faults: not present at level 1. -/
def walkMeets : Bool :=
  (match (sWalking (0x10080200000 + 3)).walk 5 0x1000 with
    | (u, .leaf l) => u.walks == [walk1] && l.w && (sWalking (0x10080200000 + 3)).inService
    | _ => false) &&
  (match (sWalking 0).walk 5 0x1000 with
    | (u, .fault k l) => u.walks == [walk1] && k == 1 && l == 1 && u.frecs.isEmpty
    | _ => false)

theorem test_walks : walkMeets = true := by decide +kernel

/-- An open record on which the walk stalls; its replies; the ring that takes it. -/
def frec1 : FRec := ⟨7, 0x1000, 1, 1, 5, true, false, false, false, 2, 4, 0, 1, 0, 9, true, false⟩
def sStall : State := fwUp { sXlt with walks := [{ walk1 with st := .stalled 7, faulted := true }], frecs := [frec1], fseq := 8 }

theorem test_replies_meet : (∀ p, p ∈ [(Reg.XLT_FAULT_RESP, 1 * 2 ^ 62 + 7), (Reg.XLT_FAULT_RESP, 2 * 2 ^ 62 + 7), (Reg.XLT_FAULT_RESP, 1 * 2 ^ 62 + 8),
      (Reg.XLT_FAULT_RESP, 3 * 2 ^ 62 + 5 * 2 ^ 32), (Reg.XLT_FAULT_RESP, 3 * 2 ^ 62 + 6 * 2 ^ 32), (Reg.XLT_RING_CTL, 2 ^ 31 + 12 * 2 ^ 16 + 2047),
      (Reg.XLT_RING_CONS, 0), (Reg.XLT_RING_CONS, 1)] → ∃ r, WriteOk .firmware sStall r p.1 p.2) ∧
    sStall.inService = true ∧ sStall.fldB Fld.XLT_RING_CTL_EN = false ∧ distance 32 0 (sStall.fld Fld.XLT_RING_PROD_PROD) ≤ 2 ^ sStall.fld Fld.XLT_RING_CTL_SIZE ∧
    2 ^ sStall.fld Fld.XLT_RING_CTL_SIZE < distance 32 1 (sStall.fld Fld.XLT_RING_PROD_PROD) :=
  ⟨writesOk_of (by decide +kernel), by decide +kernel, by decide +kernel, by decide +kernel, by decide +kernel⟩

def sRing : State := ((sStall.setFldB Fld.XLT_RING_CTL_EN true).setFld Fld.XLT_RING_CTL_SIZE 8).setFld Fld.XLT_RING_BASE_BASE 0x10080100000 |>.setFld Fld.XLT_RING_PROD_PROD 7 |>.setFld
  Fld.XLT_RING_CONS_CONS 7 |> fun s => { s with walks := [] }

def ringMeets : Bool :=
  let s := sRing
  s.inService && s.fldB Fld.XLT_RING_CTL_EN && s.frecs.filter (fun g => !g.written) == [frec1] && s.ep.hold.isEmpty && s.unitOk 0x10080100000 (32 * 2 ^ 8) &&
    decide (distance 32 7 (s.fld Fld.XLT_RING_PROD_PROD) < 2 ^ 8) &&
    (match s.unitWrite 0 (.ring 8) (0x10080100000 + 32 * 7) (frecBytes 8 frec1) with | (u, ok) => ok && u.walks.isEmpty && u.frecs == s.frecs)

theorem test_ring_meets : ringMeets = true := by decide +kernel

/-! ### Windows (O40) -/

/-- Window 3 of chip 0 allows chip 1 to read and write 4 KiB at 0x10080000000. -/
def win3 (lo : Nat) : WinEnt := ⟨3, lo, 0x10080000000⟩
def loAll : Nat := 1 + 2 + 12 * 2 ^ 16 + 1 * 2 ^ 32
def msgW (opc aux off : Nat) : Msg := { mkMsg opc 0 1 9 (2 ^ 45 + 3 * 2 ^ 32 + off) aux (List.replicate 64 1) with mask := 0xFF }
def sWin (lo opc aux off : Nat) : State := { withMsg sXlt (msgW opc aux off) with wins := [win3 lo] }
def tookW (lo opc aux off : Nat) : State := took (sWin lo opc aux off) (msgW opc aux off)

theorem test_windows_arrive : ∀ p, p ∈ [(loAll, 0x40, 7, 4088), (loAll, 0x41, 0, 4032), (loAll, 0x42, 16, 8), (loAll - 1, 0x40, 7, 0), (loAll, 0x40, 8, 4088),
      (loAll - 2, 0x41, 0, 0), (loAll - 2, 0x42, 16, 8)] →
    Arrives (sWin p.1 p.2.1 p.2.2.1 p.2.2.2) (msgW p.2.1 p.2.2.1 p.2.2.2) p.2.1 (tookW p.1 p.2.1 p.2.2.1 p.2.2.2) := by
  intro p hp
  have h : [(loAll, 0x40, 7, 4088), (loAll, 0x41, 0, 4032), (loAll, 0x42, 16, 8), (loAll - 1, 0x40, 7, 0), (loAll, 0x40, 8, 4088),
      (loAll - 2, 0x41, 0, 0), (loAll - 2, 0x42, 16, 8)].all (fun p => arrivesB (sWin p.1 p.2.1 p.2.2.1 p.2.2.2) (msgW p.2.1 p.2.2.1 p.2.2.2) p.2.1
        (tookW p.1 p.2.1 p.2.2.1 p.2.2.2)) = true := by decide +kernel
  exact arrives_of (List.all_eq_true.mp h p hp)

/-- The entry allows a read of the last 8 bytes and refuses one of 9, refuses what is not valid and writes that it does not allow. -/
theorem test_windows_checked : (tookW loAll 0x40 7 4088).winRefuse (win3 loAll) 1 4088 8 false = none ∧
    (tookW loAll 0x40 8 4088).winRefuse (win3 loAll) 1 4088 9 false = some 2 ∧ (tookW (loAll - 1) 0x40 7 0).winRefuse (win3 (loAll - 1)) 1 0 8 false = some 1 ∧
    (tookW (loAll - 2) 0x41 0 0).winRefuse (win3 (loAll - 2)) 1 0 8 true = some 3 ∧ (tookW loAll 0x41 0 4032).winRefuse (win3 loAll) 1 4032 8 true = none ∧
    (tookW loAll 0x42 16 8).winRefuse (win3 loAll) 1 8 8 true = none := by decide +kernel

def winPerforms : Bool :=
  (match (tookW loAll 0x40 7 4088).winRead1 (0x10080000000 + 4088) 0 8 .wb with | (_, some (some _)) => true | _ => false) &&
  (match (tookW loAll 0x41 0 4032).writeSec 0 ((tookW loAll 0x41 0 4032).unitPa (0x10080000000 + 4032)) MType.wb.pol
      (maskBytes (msgW 0x41 0 4032).mask (msgW 0x41 0 4032).data) none (.win 1 9 (msgW 0x41 0 4032).addr.toNat) with | (_, .done) => true | _ => false) &&
  (match (tookW loAll 0x42 16 8).ownSec 0 ((tookW loAll 0x42 16 8).unitPa 0x10080000008) with
    | (v, some (d, false)) => (match v.writeSec 0 ((tookW loAll 0x42 16 8).unitPa 0x10080000008) (.alloc 1)
        ((natLe 8 (aopFn (aopOf 0) 64 (at' d 8 8) 0x0101010101010101 0)).zipIdx.map (fun b => (8 + b.2, b.1))) none .nobody with | (_, .done) => true | _ => false)
    | _ => false)

theorem test_windows_perform : winPerforms = true := by decide +kernel

/-- A read and a write of this chip at a window of chip 1 are outstanding. -/
def winQ (wr : Bool) : WinAcc := ⟨9, 1, 2 ^ 45 + 3 * 2 ^ 32, 8, wr, .unit, .nobody, none⟩

def msgA (opc : Nat) : Msg := mkMsg opc 0 1 9 (2 ^ 45 + 3 * 2 ^ 32) 0 (List.replicate 64 1)
def sAns (wr : Bool) (opc : Nat) : State := { withMsg sXlt (msgA opc) with winOut := [winQ wr] }
def answers : List (Bool × Nat) := [(false, 0x50), (false, 0x52), (false, 0x53), (true, 0x51), (true, 0x53)]

theorem test_window_answers : ∀ p, p ∈ answers → Arrives (sAns p.1 p.2) (msgA p.2) p.2 (took (sAns p.1 p.2) (msgA p.2)) := by
  intro p hp
  have h : answers.all (fun p => arrivesB (sAns p.1 p.2) (msgA p.2) p.2 (took (sAns p.1 p.2) (msgA p.2))) = true := by decide +kernel
  exact arrives_of (List.all_eq_true.mp h p hp)

theorem test_window_asked : answers.all (fun p => let u := took (sAns p.1 p.2) (msgA p.2)
    u.winOut.find? (fun y => y.txn == 9 && y.chip == 1 && y.ans.isNone) == some (winQ p.1) && u.ioAlive .unit) = true := by decide +kernel

/-- A refresh in progress, with nothing left of the old copies and with a write that used one. -/
def sRefresh (l : List HcReq) : State :=
  { (sXlt.setFldB Fld.XLT_WIN_CMD_GO true) with winOld := [.win 1 2 0x3000], hcReqs := l }

theorem test_refresh_meets : (sRefresh []).inService = true ∧ (sRefresh []).fldB Fld.XLT_WIN_CMD_GO = true ∧ Who.win 1 2 0x3000 ∉ (sRefresh []).winPends ∧
    Who.win 1 2 0x3000 ∈ (sRefresh [⟨0x100000003000, .woWrInv, none, 0, zero64, 1, .win 1 2 0x3000, false⟩]).winPends := by decide +kernel

theorem test_register_refresh : (∀ p, p ∈ [(Reg.XLT_WIN_CMD, 2 ^ 31 + 2 ^ 30), (Reg.XLT_WIN_CMD, 2 ^ 31 + 4095)] → ∃ r, WriteOk .firmware (fwUp sXlt) r p.1 p.2) :=
  writesOk_of (by decide +kernel)

/-! ### The endpoint (O41, O42) -/

def sUp : State := hostUp sXlt

theorem test_host_quiet : HostQuiet sUp :=
  ⟨by decide +kernel, by decide +kernel, by decide +kernel, (fun _ h => nomatch h), (fun _ h => nomatch h), by decide +kernel, by decide +kernel, by decide +kernel⟩

/-- The endpoint is frozen, and one write is held; nothing stands against a release once its causes are clear. -/
def sFroz : State := ({ sUp with ep := { sUp.ep with cont := .frozen, hold := [⟨.memWr 0x1000 [1], .nobody, false⟩] } } : State)

theorem test_release_meets : (∀ p, p ∈ [(Reg.EP_CONT_RELEASE, 0xA5000000), (Reg.EP_CONT_RELEASE, 0xA5000001)] → ∃ r, WriteOk .host sFroz r p.1 p.2) ∧
    bits (sFroz.reg Reg.EP_CONT_STATUS) 3 0 = 0 ∧ sFroz.purges = [] ∧ sFroz.ideBad = false ∧ sFroz.ep.linkUp = true ∧ sFroz.ep.retrain = false ∧ sFroz.inWait = [] ∧ sFroz.ioBarred = false ∧ (sFroz.setCfg 4 0).ioBarred = true ∧
    bits ((sFroz.setFldB Fld.EP_CONT_STATUS_VIRAL true).reg Reg.EP_CONT_STATUS) 3 0 ≠ 0 :=
  ⟨writesOk_of (by decide +kernel), by decide +kernel, by decide +kernel, by decide +kernel, by decide +kernel, by decide +kernel, by decide +kernel, by decide +kernel, by decide +kernel, by decide +kernel⟩

/-- In a retrain what the host sends waits, and is taken up in order when the retrain ends (R318). -/
theorem test_retrain_waits : (let s := ({ sUp with ep := { sUp.ep with retrain := true } } : State)
    s.linkBusy 1 && match execDoorbell 0 1 s with
      | .next t => t.inWait == [.doorbell 0 1] && (match execRetrainDone t with | .next u => u.inWait == [] && u.fld Fld.SQ_DB_BAD_CNT_COUNT == 1 | _ => false)
      | _ => false) = true := by decide +kernel

theorem test_host_served : HostServed sUp := ⟨by decide +kernel, by decide +kernel, by decide +kernel, by decide +kernel, by decide +kernel⟩

/-- Queue 4095 with 16 entries, of which HEAD is at 2^32 − 1: the doorbells at the ends of every range. -/
def sDb : State := { sUp with sqs := [(4095, { Sq.empty with st := .enabled, log2 := 4, head := 0xFFFFFFFF, tail := 0xFFFFFFFF })] }

theorem test_doorbells : distance 32 (sDb.sq 4095).tail.toNat 0xFFFFFFFF = 0 ∧ distance 32 (sDb.sq 4095).tail.toNat 15 = 16 ∧ distance 32 (sDb.sq 4095).tail.toNat 16 = 17 ∧
    distance 32 (sDb.sq 4095).tail.toNat 0x7FFFFFFE = 2 ^ 31 - 1 ∧ distance 32 (sDb.sq 4095).tail.toNat 0x7FFFFFFF = 2 ^ 31 ∧ 2 ^ (sDb.sq 4095).log2 = 16 := by decide +kernel

/-- The aperture ends at the end of tier 0; the last byte is served. -/
theorem test_aperture : sUp.tier0W * 256 = 0x80000000 ∧ (bar4Bytes 0x7FFFFFFC 4).all (fun x => !sUp.hostDenied x) = true ∧ sUp.conflict = [] ∧
    sUp.blocked (canon (galleryBase + 0x7FFFFFFF) / 64 * 64) = false ∧ (sUp.dirGet (canon (galleryBase + 0x7FFFFFFF) / 64 * 64)).st = .free ∧
    sUp.compat (canon (galleryBase + 0x7FFFFFFF) / 64 * 64) = false := by decide +kernel

/-- MSI-X on, vector 2047 pending and not masked; a read of the chip is outstanding under tag 5. -/
def sVec : State := (sUp.setFldBit (Fld.EP_INT_PEND_PEND 63) 31 true)
def ioT : IoTag := ⟨5, 0x1000, 16, .unit, none⟩
def sIo : State := { sUp with ep := { sUp.ep with tags := [ioT] } }

theorem test_vector_and_tag : (sVec.fld (Fld.EP_INT_PEND_PEND 63)).testBit 31 = true ∧ sVec.ep.cont = .normal ∧ sIo.ioSent 5 = some ioT ∧ sIo.pulls = [] ∧
    sIo.staging = false ∧ sIo.ioHere = true := by decide +kernel

end Sys2Proof.Tests
end

