-- ==== Sys2Proof/Tests/Settings.lean ====
section
/-! SUPPORT. Witnesses of the hypotheses of the statements about Clasp transactions and partitions (O50). -/
namespace Sys2Proof.Tests
open Sys2Proof.Machine
set_option Elab.async false

/-- An open transaction, with identity 3, of an agent. -/
def claspAs (st : ClaspSt) (id : Nat) (a : Agent) : Clasp := { Clasp.empty with st := st, id := id, owner := a }

/-- Partition 0 has core 0, the Gallery and all ways of the L2. -/
def partRecs : List SRec :=
  [srec 0x0301 0 (1 :: List.replicate 31 0), srec 0x0302 0 ((natLe 8 0x10080000000 ++ natLe 8 0x80000000).map (·.toNat)), srec 0x0304 0 [255, 255]]

/-- Firmware executes, the host link is up, and a transaction is in a state. -/
def sClasp (c : Clasp) : State := { hostUp (fwUp (waysOn (withSet base (loadRecs ++ partRecs)))) with clasp := c }

def claspWord (op part lidx id : Nat) : Nat := 2 ^ 31 + op * 2 ^ 28 + part * 2 ^ 24 + lidx * 2 ^ 16 + id

/-- Both agents may start a load, give every command of a transaction, and run and stop partitions. -/
def claspWrites : List (Nat × Nat) :=
  [(Reg.SET_LOAD_CMD, 2 ^ 31), (Reg.SET_LOAD_CMD, 2 ^ 31 + 0x7FFFFF), (Reg.SET_LOAD_CMD, 2 ^ 31 + 2 ^ 30), (Reg.SET_CLASP_CMD, claspWord 0 0 0 0),
   (Reg.SET_CLASP_CMD, claspWord 0 0 0 0xFFFF), (Reg.SET_CLASP_CMD, claspWord 1 0 0 3), (Reg.SET_CLASP_CMD, claspWord 2 0 0 3),
   (Reg.SET_CLASP_CMD, claspWord 3 15 255 3), (Reg.SET_CLASP_CMD, claspWord 3 3 4 3), (Reg.SET_CLASP_CMD, claspWord 4 0 0 3),
   (Reg.SET_PART_RUN, setBitTo 0 0 true), (Reg.SET_PART_RUN, setBitTo 0 15 false)]

theorem test_clasp_writes : ∀ a, a ∈ [Agent.host, .firmware] → ∀ c, c ∈ [claspAs .idle 2 .host, claspAs .opn 3 .host, claspAs .opn 3 .firmware, claspAs .pending 3 .firmware] →
    ∀ p, p ∈ claspWrites → ∃ r, WriteOk a (sClasp c) r p.1 p.2 := by
  intro a ha c hc
  have h : [Agent.host, .firmware].all (fun a => [claspAs .idle 2 .host, claspAs .opn 3 .host, claspAs .opn 3 .firmware, claspAs .pending 3 .firmware].all
      (fun c => claspWrites.all (fun p => writeOkB a (sClasp c) p.1 p.2))) = true := by decide +kernel
  exact writesOk_of (List.all_eq_true.mp (List.all_eq_true.mp h a ha) c hc)

/-- A load is accepted in Vestibule, and where all partitions are stopped; in Service with one that runs it is not. -/
theorem test_load_accepted : (sClasp (claspAs .idle 0 .host)).allStopped = true ∧ ((sClasp (claspAs .idle 0 .host)).setFld Fld.SET_PART_RUN_RUN 1).allStopped = false ∧
    (sClasp Clasp.empty).aon.dev = .service ∧ (sLoad []).aon.dev = .vestibule ∧ (sClasp Clasp.empty).ep.tags = [] := by decide +kernel

/-- A transaction of identity 3 begins after one of identity 2, and not after one of 4, nor while a load goes on. -/
theorem test_begin_meets : (sClasp Clasp.empty).fld Fld.SET_LOAD_CMD_GO = 0 ∧ (fwUp (sLoad [])).fld Fld.SET_LOAD_CMD_GO = 1 ∧
    precedes 16 (((sClasp Clasp.empty).setFld Fld.SET_CLASP_STATE_LAST_ID 2).fld Fld.SET_CLASP_STATE_LAST_ID) 3 = true ∧
    precedes 16 (((sClasp Clasp.empty).setFld Fld.SET_CLASP_STATE_LAST_ID 4).fld Fld.SET_CLASP_STATE_LAST_ID) 3 = false := by decide +kernel

/-- Lengths and addresses of a delta that are wrong, and that are right. -/
def at_ (s : State) (a n : Nat) : State := (s.setFld Fld.SET_CLASP_ADDR_ADDR a).setFld Fld.SET_CLASP_LEN_LEN n
theorem test_stage_lengths : [(4, 8), (0, 0), (0, 1048577)].all (fun p => let s := at_ (sClasp (claspAs .opn 3 .host)) p.1 p.2
      decide (s.fld Fld.SET_CLASP_ADDR_ADDR % 8 ≠ 0 ∨ 1048576 < s.fld Fld.SET_CLASP_LEN_LEN ∨ s.fld Fld.SET_CLASP_LEN_LEN = 0)) = true ∧
    (let s := at_ (sClasp (claspAs .opn 3 .host)) 0x1000 0x100000
     s.fld Fld.SET_CLASP_ADDR_ADDR = 0x1000 ∧ s.fld Fld.SET_CLASP_LEN_LEN = 0x100000) := by decide +kernel

/-! ### Deltas that firmware stages -/

/-- A delta of its records, which are of one section, on the base of zeros. -/
def deltaOf (l : List SRec) : List Byte := image 2 1 zeros48 (section_ ((l.headD keyRec).key / 256) l)

def hostA : Nat := 0x100000004000

/-- Firmware has an open transaction, and the bytes of its delta have come from the host; the chip has an owner. -/
def sStage (c : Clasp) (b : List Byte) : State :=
  let s := at_ (sClasp c) hostA b.length
  { s with ep := { s.ep with tags := ioPieces 512 hostA b }, aon := { s.aon with owners := [sha384 ownerKey] }, effDig := zeros48 }

theorem written_ep (s : State) (a : Agent) (r : RRow) (o w : Nat) : (s.written a r o w).ep = s.ep := by
  simp only [State.written, State.storeReg, State.touchReg, State.setHold]
  cases a <;> (simp only []; split <;> rfl)

theorem written_clasp {s : State} {a : Agent} {r : RRow} {o w : Nat} (h : r.mask (fun f => f.ty == .rwt) = 0) : (s.written a r o w).clasp = s.clasp := by
  simp only [State.written, State.storeReg, State.touchReg, State.setHold, h, Nat.and_zero]
  cases a <;> rfl

/-- A read of host memory past the L2, of which every part has been answered. -/
theorem unitRead_host {u : State} {a : Nat} {b : List Byte} (h : isHostRange a = true) (hc : u.cacheEnable = false) (hm : u.maxRead = 512)
    (ha : a % 512 = 0) (hl : 0 < b.length) (ht : u.ep.tags = ioPieces 512 a b) :
    u.unitRead 0 a b.length = ({ u with ep := { u.ep with tags := [] } }, some (some (b, false))) := by
  rw [← ioRead_answered (by rw [hm]; decide) (by rw [hm]; exact ha) hl (by rw [hm]; exact ht)]
  simp [State.unitRead, h, hc]

/-- What the clause on firmware's STAGE asks of the read of a delta. -/
theorem test_stage_reads (c : Clasp) (b : List Byte) (hl : 0 < b.length) : ∃ r v, findReg Reg.SET_CLASP_CMD = some (r, Reg.SET_CLASP_CMD) ∧
    let s := sStage c b
    let u := s.written .firmware r Reg.SET_CLASP_CMD (claspWord 1 0 0 3)
    u.unitRead 0 hostA b.length = (v, some (some (b, false))) ∧ CountsOnly u v ∧ v.clasp = c ∧ v.setting = s.setting ∧ v.aon = s.aon ∧ v.effDig = s.effDig := by
  obtain ⟨r, hr, hm⟩ : ∃ r, findReg Reg.SET_CLASP_CMD = some (r, Reg.SET_CLASP_CMD) ∧ r.mask (fun f => f.ty == .rwt) = 0 :=
    ⟨_, rfl, by decide +kernel⟩
  let s := sStage c b
  let u := s.written .firmware r Reg.SET_CLASP_CMD (claspWord 1 0 0 3)
  have hu : u.ep = s.ep := written_ep _ _ _ _ _
  have hk : u.clasp = c := written_clasp hm
  have hx : u.setting = s.setting ∧ u.aon = s.aon ∧ u.effDig = s.effDig := by
    simp only [u, State.written, State.storeReg, State.touchReg, State.setHold, hm, Nat.and_zero]
    exact ⟨rfl, rfl, rfl⟩
  have hc : u.cacheEnable = false := by
    have h0 : (SMap.get zeroCfg (hostUp (fwUp base)).ep.cfg 0x164).getLsbD 0 = false := by decide +kernel
    rw [State.cacheEnable, hu]; exact h0
  have hq : u.maxRead = 512 := by
    have h0 : (hostUp (fwUp base)).maxRead = 512 := by decide +kernel
    rw [State.maxRead, State.cfgW, hu]; exact h0
  refine ⟨r, { u with ep := { u.ep with tags := [] } }, hr, unitRead_host (by decide +kernel) hc hq (by decide +kernel) hl (by rw [hu]; rfl), fun _ _ _ _ => rfl, hk, hx.1, hx.2.1, hx.2.2⟩

/-- A delta reads as its records. -/
def readsB (b : List Byte) (l : List SRec) : Bool := match readImage 2 b with | .ok r => r.map (·.2) == l | _ => false
def rangeB (b : List Byte) : Bool := match readImage 2 b with | .ok r => (firstRange (sClasp Clasp.empty).hbmCap r).isNone | _ => false

def rTune : SRec := srec 0x0602 0 [0xF4, 1]
def rWild : SRec := srec 0x0602 0 [0xF3, 1]
def rStruct : SRec := srec 0x0104 0 [0]

/-- A delta that can be staged, one with a value out of range, one that is Structural, and one that is malformed. -/
theorem test_stage_tune : readsB (deltaOf [rTune]) [rTune] = true ∧ rangeB (deltaOf [rTune]) = true ∧ rTune.cls ≠ .structural := by decide +kernel
theorem test_stage_wild : readsB (deltaOf [rWild]) [rWild] = true ∧ rangeB (deltaOf [rWild]) = false := by decide +kernel
theorem test_stage_struct : readsB (deltaOf [rStruct]) [rStruct] = true ∧ rangeB (deltaOf [rStruct]) = true ∧ rStruct.cls = .structural := by decide +kernel
theorem test_stage_short : (match readImage 2 [1, 2, 3, 4, 5, 6, 7, 8] with | .error _ => true | _ => false) = true := by decide +kernel

/-- The delta's BASE is the effective digest, or it is not; and the staging set has room for its record, or it has none. -/
theorem test_stage_base : ((deltaOf [rTune]).drop 0x18).take 48 = (sStage Clasp.empty (deltaOf [rTune])).effDig ∧
    ((deltaOf [rTune]).drop 0x18).take 48 ≠ List.replicate 48 1 ∧ (mergeRecs [] [rTune]).length ≤ 4096 ∧ 4096 < (mergeRecs (List.replicate 4096 rStruct) [rTune]).length := by
  refine ⟨by decide +kernel, by decide +kernel, by decide +kernel, ?_⟩
  have h : ∀ n, (mergeRecs (List.replicate n rStruct) [rTune]).length = n + 1 := by
    intro n
    have h1 : ([rTune].any fun x => x.key == rStruct.key && x.idx == rStruct.idx) = false := by decide
    simp only [mergeRecs, List.length_append, List.length_singleton, List.filter_replicate, h1, Bool.not_false, if_true, List.length_replicate]
  rw [h]
  omega

/-- Without an owner no delta is authentic; with one, where its keys are the Setting's and both signatures verify, it is. -/
theorem test_stage_unsigned (b : List Byte) : (sClasp Clasp.empty).authentic (sClasp Clasp.empty).setting b = false := rfl
theorem test_stage_signed (c : Clasp) (b : List Byte)
    (h1 : Config.ecdsaOk (ownerKey.take 97) (b.take (at' b 0x48 4)) ((b.drop (at' b 0x48 4)).take 96) = true)
    (h2 : Config.mldsaOk (ownerKey.drop 97) (b.take (at' b 0x48 4)) ((b.drop (at' b 0x48 4 + 96)).take 4627) = true) :
    (sStage c b).authentic (sStage c b).setting b = true := by
  have hk : recVal (sStage c b).setting 0x0901 0 = ownerKey := by
    have h0 : recVal (loadRecs ++ partRecs) 0x0901 0 = ownerKey := by decide +kernel
    exact h0
  have hn : ownerKey.length = 2689 := List.length_replicate ..
  have ho : (sStage c b).aon.owners.getLast? = some (sha384 ownerKey) := rfl
  simp only [State.authentic, ho, hk, h1, h2, hn, Bool.and_true, beq_self_eq_true]

/-! ### Commits -/

/-- A transaction with one record staged: one that breaks no rule, a Quiescent one of partition 0, and one that breaks rule 2. -/
def sCommit (r : SRec) : State := sClasp { claspAs .opn 3 .firmware with staged := [r] }

theorem test_commit_checks : (sCommit rTune).claspBad = none ∧ ((sCommit (srec 0x0306 0 [0])).setFld Fld.SET_PART_RUN_RUN 1).claspBad = some (8, 0) ∧
    (match (sCommit (srec 0x0301 1 [1])).claspBad with | some (5, _) => true | _ => false) = true := by decide +kernel

/-- COMMIT_AT at an entry of a Flight that is armed more than 1 ms ahead, armed too near, and fired. -/
def atLand (s : State) (l : Landing) : State := s.setFlight 3 4 l
theorem test_commit_at : (let s := atLand (sCommit rTune) { land0 .armed with time := 1000000 }
     s.claspBad = none ∧ (s.flight 3 4).st = .armed ∧ s.aon.newel.toNat + 1000000 ≤ (s.flight 3 4).time.toNat) ∧
    (let s := atLand (sCommit rTune) { land0 .armed with time := 999999 }
     s.claspBad = none ∧ (s.flight 3 4).time.toNat < s.aon.newel.toNat + 1000000) ∧
    (let s := atLand (sCommit rTune) (land0 .fired)
     s.claspBad = none ∧ (s.flight 3 4).st ≠ .armed) := by decide +kernel

/-- Transactions that are open, with and without a limit; a commit whose consequences go on; partitions that are stopped or run. -/
theorem test_clasp_ends : (let s := sClasp (claspAs .opn 3 .host)
     s.runs = true ∧ s.clasp.st = .opn ∧ (s.setFld Fld.SET_CLASP_TIMEOUT_LIMIT 5).fld Fld.SET_CLASP_TIMEOUT_LIMIT = 5 ∧
        (s.setFld Fld.SET_CLASP_TIMEOUT_LIMIT 0).fld Fld.SET_CLASP_TIMEOUT_LIMIT = 0 ∧ s.fld Fld.SET_CLASP_CMD_GO = 0) ∧
    [2, 3].all (fun op => let s := (sClasp { Clasp.empty with busy := true }).setFld Fld.SET_CLASP_CMD_OP op
      s.runs && s.clasp.busy && s.fld Fld.SET_CLASP_CMD_OP == op) = true ∧
    (sClasp Clasp.empty).stopped 0 = true ∧ ((sClasp Clasp.empty).setFld Fld.SET_PART_RUN_RUN 1).stopped 0 = false := by decide +kernel

end Sys2Proof.Tests
end

