-- ==== Sys2Proof/Tests/Outside.lean ====
section
/-! SUPPORT. Witnesses of the hypotheses of the statements about security, evidence, power, resets, read-out and registers (O51 to
O60). -/
namespace Sys2Proof.Tests
open Sys2Proof.Machine
set_option Elab.async false

/-! ### The security channels (O51) -/

def secWord (op p k : Nat) : Nat := 2 ^ 31 + op * 2 ^ 27 + p * 2 ^ 10 + k
/-- Both agents are up, and partition 0 is defined. -/
def sBoth : State := sClasp Clasp.empty

/-- Each agent may give its commands: the host's channel is 1, the firmware's 0. -/
theorem test_sec_writes : (∀ p, p ∈ [0, 1, 2, 3, 4, 5, 6, 7].flatMap (fun op => [(Reg.SEC_CMD 1, secWord op 0 0), (Reg.SEC_CMD 1, secWord op 15 63)]) →
      ∃ r, WriteOk .host sBoth r p.1 p.2) ∧
    (∀ p, p ∈ [0, 1, 2, 3, 4, 5, 6, 7].flatMap (fun op => [(Reg.SEC_CMD 0, secWord op 0 0), (Reg.SEC_CMD 0, secWord op 15 63)]) → ∃ r, WriteOk .firmware sBoth r p.1 p.2) :=
  ⟨writesOk_of (by decide +kernel), writesOk_of (by decide +kernel)⟩

/-- A command of an operation is in progress on a channel, with partition 0 and slot 0. -/
def sSec (ch op len : Nat) : State :=
  (((((fwUp (withSet base (loadRecs ++ partRecs))).setFld (Fld.SEC_CMD_GO ch) 1).setFld (Fld.SEC_CMD_OP ch) op).setFld (Fld.SEC_CMD_LEN_LEN ch) len))

/-- An install waits for a rekey of its partition on the other channel. -/
theorem test_sec_waits : (let s := ((sSec 1 2 1760).setFld (Fld.SEC_CMD_GO 0) 1).setFld (Fld.SEC_CMD_OP 0) 4
    s.runs = true ∧ s.fld (Fld.SEC_CMD_GO 1) = 1 ∧ s.secOp 1 = 2 ∧ s.fld (Fld.SEC_CMD_GO 0) = 1 ∧ s.secOp 0 = 4 ∧ s.secPart 0 = s.secPart 1) := by decide +kernel

/-- Lengths at which a command fails, and those it takes. -/
theorem test_sec_lengths : [(0, 0), (0, 4194305), (2, 1759), (6, 7461), (7, 0)].all (fun p => let s := sSec 1 p.1 p.2
      s.runs && s.fld (Fld.SEC_CMD_GO 1) == 1 && s.fld (Fld.SEC_CMD_GO 0) == 0 && s.secOp 1 == p.1 && !s.secLenOk 1) = true ∧
    [(0, 1), (0, 4194304), (1, 0), (2, 1760), (4, 0), (5, 0), (6, 7460), (7, 7412)].all (fun p => (sSec 1 p.1 p.2).secLenOk 1 && (sSec 0 p.1 p.2).secLenOk 0) = true := by
  decide +kernel

/-- The bytes of the host's command: they have come, they do not come, they have not come yet. -/
def sPulled (s : State) (f : Pull) : State := s.setPull 3 (some f)
theorem test_sec_source (s : State) (n : Nat) (b : List Byte) (hn : s.secLen 1 = n) (h0 : n ≠ 0) (hb : n ≤ b.length) :
    (sPulled s ⟨0, n, b, false⟩).secSource 1 = (sPulled s ⟨0, n, b, false⟩, some (some b)) ∧ (sPulled s ⟨0, n, b, true⟩).secSource 1 = (sPulled s ⟨0, n, b, true⟩, some none) := by
  have h2 : ∀ f, (sPulled s f).pull 3 = some f := fun f => by
    simp only [sPulled, State.setPull, State.pull]
    exact SMap.get_set_self _ _ _ _
  have h1 : ∀ f, (sPulled s f).secLen 1 = n := fun f => hn
  simp [State.secSource, h1, h0, State.pulled, h2, hb]
theorem test_sec_pending : (let s := sPulled (sSec 1 5 0) ⟨0, 48, [], false⟩
    s.secLenOk 1 = true ∧ (s.secSource 1).2 = none) ∧ (sSec 1 1 0).secSource 1 = (sSec 1 1 0, some (some [])) := by decide +kernel

/-- A firmware image of either SVN. -/
theorem test_fw_svn (b : List Byte) : Config.fwSvn b < Config.fwSvn b + 1 ∧ (sSec 1 0 1).aon.fuseSvn ≤ Config.fwSvn b :=
  ⟨by omega, Nat.zero_le _⟩
theorem test_fw_there : (sSec 1 1 0).rot.fw = some ([], 1) ∧ ({ sSec 1 1 0 with rot := { (sSec 1 1 0).rot with fw := none } } : State).runs = true := by decide +kernel

/-- A blob for partition 0, slot 0 and EPOCH 0 of this chip. -/
def blob : List Byte :=
  natLe 4 0x574B4C50 ++ natLe 2 1 ++ natLe 1 3 ++ natLe 1 0 ++ natLe 8 Config.serial.toNat ++ natLe 4 0 ++ natLe 1 0 ++ List.replicate 1739 0
/-- Partition 0 has its key pairs; its slot 0 is empty or not. -/
def sKey (slots : SMap (List Byte)) : State := (sSec 1 2 1760).setKeys 0 ⟨true, 0, 1, 0, slots⟩

theorem leNat_eight (n : Nat) (h : n < 2 ^ 64) : leNat (natLe 8 n) = n := by
  simp only [natLe, leNat, BitVec.toNat_ofNat]
  omega

theorem test_blob_form : blobBad blob = false ∧ blobBad (List.replicate 1760 0) = true := by decide +kernel
theorem test_blob_serial : at' blob 8 8 = Config.serial.toNat := by
  have h : (blob.drop 8).take 8 = natLe 8 Config.serial.toNat := rfl
  rw [at', h]
  exact leNat_eight _ Config.serial.isLt
theorem test_blob_meets : (let s := sKey []
      at' blob 0x14 1 = s.secPart 1 ∧ at' blob 7 1 = s.fld (Fld.SEC_CMD_SLOT 1) ∧ s.definedPart 0 = true ∧ (s.keys 0).defd = true ∧ at' blob 0x10 4 = (s.keys 0).epoch ∧
        SMap.get noSlot (s.keys 0).slots 0 = []) ∧ SMap.get noSlot ((sKey [(0, [1])]).keys 0).slots 0 ≠ [] := by decide +kernel

/-- Partitions that are defined and are not; a claim in Vestibule and in Service. -/
theorem test_sec_parts : (sSec 1 4 0).definedPart ((sSec 1 4 0).secPart 1) = true ∧ (let s := (sSec 1 4 0).setFld (Fld.SEC_CMD_PARTITION 1) 1; s.definedPart (s.secPart 1) = false) ∧
    (sSec 1 5 0).aon.dev ≠ .vestibule ∧ (sSec 1 5 0).aon.owners = [] ∧ ({ sSec 1 5 0 with aon := { aonUp with dev := .vestibule } } : State).runs = true := by decide +kernel

/-- Signatures that do not verify, and, where both primitives say so, ones that do. -/
theorem test_signed (keys msg sigs : List Byte) : signedBy [] keys msg sigs = false ∧
    (Config.ecdsaOk (keys.take 97) msg (sigs.take 96) = true → Config.mldsaOk (keys.drop 97) msg ((sigs.drop 96).take 4627) = true →
      signedBy (sha384 keys) keys msg sigs = true) := by
  refine ⟨rfl, fun h1 h2 => ?_⟩
  simp [signedBy, h1, h2]

/-- Owner slots: one that is used, and four; a debug unlock that is open, and one that is closed. -/
theorem test_sec_owners : (let s := { sSec 1 6 7460 with aon := { aonUp with owners := [[]] } }
     s.runs = true ∧ s.aon.owners.getLast? = some [] ∧ s.aon.owners.length < 4) ∧
    4 ≤ ({ sSec 1 6 7460 with aon := { aonUp with owners := [[], [], [], []] } } : State).aon.owners.length ∧
    (let s := ({ sSec 1 7 7412 with aon := { aonUp with owners := [[]] } } : State).setFld Fld.SEC_STATUS_DEBUG 1
     s.fld Fld.SEC_STATUS_DEBUG = 1 ∧ s.allStopped = true ∧ (s.setFld Fld.SET_PART_RUN_RUN 1).allStopped = false) ∧
    (sSec 1 7 7412).aon.owners = [] := by decide +kernel

/-! ### Evidence and the sideband (O52) -/

/-- Transports that are up, with the algorithms negotiated; all sessions in use, and one of them. -/
def sSpdm (ss : List Session) : State :=
  let s := hostUp (withSet base partRecs)
  { s with rot := { s.rot with neg := [(0, true), (1, true), (2, true), (3, true)], sess := ss } }

theorem test_spdm_up : [Transport.mctpSmbus, .doe, .mctpCxl].all (fun tr => (sSpdm []).answers tr && (sSpdm []).negotiated tr && (hostUp base).answers tr &&
    !(hostUp base).negotiated tr && !State.reset.answers tr) = true := by decide +kernel

/-- Sessions: none, one that names the message, and four. -/
def sess1 (tr : Transport) : Session := ⟨9, tr, 0, 3⟩
theorem test_spdm_sessions : (sSpdm []).rot.sess.length < 4 ∧ 4 ≤ (sSpdm (List.replicate 4 (sess1 .doe))).rot.sess.length ∧
    (∃ x, x ∈ (sSpdm [sess1 .doe]).rot.sess ∧ x.id = 9 ∧ x.transport = .doe) := ⟨by decide, by decide, sess1 .doe, by simp [sSpdm], rfl, rfl⟩

/-- A quote of a partition that is defined and has its keys, and one that is not defined. -/
theorem test_quote_meets : (let s := (sSpdm []).setKeys 0 ⟨true, 0, 1, 0, []⟩
    s.definedPart 0 = true ∧ (s.keys 0).defd = true) ∧ (sSpdm []).definedPart 1 = false := by decide +kernel

/-- The mailbox in Service and in Vestibule, or not here; the alert is raised, or it is not. -/
theorem test_box_meets : (sSpdm []).ioHere = true ∧ (sSpdm []).aon.dev = .service ∧ (let s := { sSpdm [] with aon := { aonUp with dev := .vestibule } }
      s.ioHere = true ∧ s.aon.dev ≠ .service) ∧ base.ioHere = false ∧ base.aon.alert = false ∧ base.freeze.aon.alert = true ∧ base.freeze.aon.vdd = true ∧
    base.freeze.aon.cold = false ∧ ({ sSpdm [] with inWait := [.doorbell 0 0] } : State).linkBusy 1 = true ∧ base.linkBusy 1 = false := by decide +kernel

/-! ### Power and sleep (O53) -/

/-- The governor's levers stand as `w`, with partition 0's floor on tile 0, the default priorities and a cap of 1,000 W. -/
def sGov (w : Power) : State :=
  { (withSet base (srec 0x0401 0 (1 :: List.replicate 31 0 ++ [1, 0, 0, 100, 0, 0]) :: partRecs)).setFld Fld.PWR_CAP_CAP 1000 with pwr := w }
def pw0 : Power := State.reset.pwr
/-- The category in the n-th place from the end, as the registers give it. -/
def catOf (s : State) (n : Nat) : Nat := match n with | 0 => s.fld Fld.PWR_PRIO_THIRD | 1 => s.fld Fld.PWR_PRIO_SECOND | _ => s.fld Fld.PWR_PRIO_FIRST

/-- Categories that are at their lowest, and that are not, each as its levers stand. -/
def lowB (s : State) (w : Power) (k : Nat) : Bool :=
  if k = 0 then w.linkPct ≤ 25 else if k = 1 then w.hbmPct ≤ 25 && w.galGov ≤ 600 && w.fabGov ≤ 800 else s.openTiles.all (fun c => SMap.get maxCore w.gov c ≤ 500)
def highB (w : Power) (k : Nat) : Bool :=
  if k = 0 then 100 ≤ w.linkPct else if k = 1 then 100 ≤ w.hbmPct && 1000 ≤ w.galGov && 1600 ≤ w.fabGov else w.gov.isEmpty
def lowAll (w : Power) : Power := { w with gov := (List.range 256).map (fun c => (c, 500)) }
def lowMem (w : Power) : Power := { w with hbmPct := 25, galGov := 600, fabGov := 800 }
def lowLink (w : Power) : Power := { w with linkPct := 25 }

theorem test_governor_cats : (let s := sGov pw0
    s.inService = true ∧ (List.range 3).all (fun k => decide (catOf s k < 3)) = true ∧ (catOf s 0 == catOf s 1 || catOf s 1 == catOf s 2 || catOf s 0 == catOf s 2) = false) := by
  decide +kernel

/-- For each place of the order, levers of which only those before it are at their lowest; and the same of those that are highest. -/
def lowTo (n : Nat) : Power :=
  (List.range n).foldl (fun w j => match catOf (sGov pw0) j with | 0 => lowLink w | 1 => lowMem w | _ => lowAll w) pw0
theorem test_governor_lower : (List.range 3).all (fun k => let s := sGov (lowTo k)
    (List.range 3).all (fun j => lowB s s.pwr (catOf s j) == decide (j < k))) = true ∧ (let s := sGov (lowTo 3)
      (List.range 3).all (fun j => lowB s s.pwr (catOf s j)) && s.granted == 1) = true := by decide +kernel
theorem test_governor_raise : (List.range 3).all (fun k => let w := match catOf (sGov pw0) k with | 0 => lowLink pw0 | 1 => lowMem pw0 | _ => lowAll pw0
    (List.range 3).all (fun j => highB w (catOf (sGov pw0) j) == (j != k))) = true := by decide +kernel
/-- Each lever of the memory category is the next one to be lowered, or to be raised. -/
theorem test_governor_memory : 25 < pw0.hbmPct ∧ (let w := { pw0 with hbmPct := 25 }; w.hbmPct ≤ 25 ∧ 600 < w.galGov) ∧
    (let w := { pw0 with hbmPct := 25, galGov := 600 }; w.galGov ≤ 600 ∧ 800 < w.fabGov) ∧ (lowMem pw0).fabGov < 1600 ∧
    (let w := { lowMem pw0 with fabGov := 1600 }; 1600 ≤ w.fabGov ∧ w.galGov < 1000) ∧
    (let w := { lowMem pw0 with fabGov := 1600, galGov := 1000 }; 1000 ≤ w.galGov ∧ w.hbmPct < 100) := by decide +kernel
/-- Floors: one that can be withdrawn, and one that is granted again. -/
theorem test_floors : (let s := sGov { lowTo 3 with sinceWd := 99 }
      s.granted.testBit 0 = true ∧ (List.range 16).all (fun r => r == 0 || s.granted.testBit r == false) = true ∧ 99 ≤ s.pwr.sinceWd) ∧
    (let w := { pw0 with okFor := 999, noFloor := 4 }
     999 ≤ w.okFor ∧ w.noFloor.getLsbD 2 = true ∧ (List.range 2).all (fun r => w.noFloor.getLsbD r == false) = true) := by decide +kernel

/-- Samples of a sensor at the edges of its steps; a stack that is present, hot and not; and the states of a core's sleep. -/
theorem test_thermal_meets : ([(⟨0, by omega⟩, (102 : Int)), (⟨407, by omega⟩, 111), (⟨5, by omega⟩, 115)] : List (Fin 408 × Int)).map (·.1) |>.Nodup := by decide
theorem test_stacks : (base.setFld Fld.L2C_CFG_HBM_MASK 1).runs = true ∧ ((base.setFld Fld.L2C_CFG_HBM_MASK 1).fld Fld.L2C_CFG_HBM_MASK).testBit 0 = true ∧
    (base.fld Fld.L2C_CFG_HBM_MASK).testBit 7 = false ∧ base.pwr.hbmHot.getLsbD 0 = false := by decide +kernel

def sSleep (st : Sleep) (waking : Bool) : State := { base with cores := [(3, { Core.empty with sleep := st, waking := waking })] }
theorem test_sleep_meets : [Sleep.active, .idle, .nap, .off].all (fun st => let k := (sSleep st false).core 3
      (sSleep st false).runs && k.sleep == st && !k.canIssue && !k.waking && k.sq.isEmpty && k.mb.isEmpty && k.teamList.isEmpty && (sSleep st false).deepest 3 == 2) = true ∧
    (withGroup tm0 gr0).runs = true ∧ ((withGroup tm0 gr0).core 0).canIssue = true ∧ ((withGroup tm0 gr0).core 0).sleep = .active ∧
    [Sleep.nap, .off].all (fun st => ((sSleep st true).core 3).waking) = true := by decide +kernel

/-! ### Resets and stops (O54) -/

def withAon (f : Aon → Aon) : State := { base with aon := f base.aon }
def sDev (d : DevSt) (fast : Bool) : State := withAon (fun a => { a with dev := d, fast := fast })

/-- The supply is down or up, cold reset holds or not, the clocks stand or run, and the device is in each of its states. -/
theorem test_aon_states : State.reset.aon.vdd = true ∧ State.reset.aon.cold = true ∧ (nx (exec .vddAonLoss base)).aon.vdd = false ∧
    [DevSt.vestibule, .service, .stopped, .frozen].all (fun d => let a := (sDev d false).aon; a.vdd && !a.cold && !a.fast && a.dev == d && !a.osc) = true ∧
    (withAon (fun a => { a with warm := true })).aon.warm = true ∧ base.aon.warm = false ∧ (withAon (fun a => { a with osc := true })).aon.osc = true ∧
    base.ioHere = false ∧ (hostUp base).ioHere = true ∧ ({ hostUp base with aon := { aonUp with warm := true } } : State).ep.linkUp = true ∧ base.ep.linkUp = false := by decide +kernel
theorem test_latch_meets : (withAon (fun a => { a with cold := true, fatalLatch := some (0x33, 8, 0) })).aon.fatalLatch = some (0x33, 8, 0) ∧ 0x33 < 2 ^ 8 := by decide +kernel
theorem test_warm_meets : base.txns = [] ∧ base.fence 0x21 2 = 0 ∧ (sLoad []).fld Fld.SET_LOAD_CMD_GO = 1 ∧ (sLoad []).aon.dev = .vestibule ∧ (sLoad []).txns = [] ∧
    (sLoad []).fence 0x21 2 = 0 := by decide +kernel

theorem get_table {α : Type} (d f : Nat → α) (n b k : Nat) (h : b ≤ k) (hk : k < b + n) :
    SMap.get d ((List.range' b n).map (fun i => (i, f i))) k = f k := by
  induction n generalizing b with
  | zero => omega
  | succ n ih =>
    rw [List.range'_succ, List.map_cons, SMap.get]
    by_cases e : k = b
    · simp [e]
    · rw [if_neg e, ih (b + 1) (by omega) (by omega)]
/-- A log of which every place was written, in order; entry 3 is open. -/
def fullLog : State :=
  { base with errSeq := 1024, errs := (List.range' 0 512).map (fun i => (i, some ⟨0, 0, 4, if i = 3 then 1 else 0, false, false, i == 3, false, false, none, 2, 0, 0, 512 + i⟩)) }
theorem test_log_full : fullLog.logFree := by
  have h (i : Nat) (hi : i < 512) : fullLog.errAt i =
      some ⟨0, 0, 4, if i = 3 then 1 else 0, false, false, i == 3, false, false, none, 2, 0, 0, 512 + i⟩ := by
    have e : (fullLog.errSeq.toNat + i) % 512 = i := by
      show (1024 + i) % 512 = i
      omega
    unfold State.errAt
    rw [e]
    exact get_table _ _ 512 0 i (by omega) (by omega)
  refine .inr ⟨_, h 0 (by omega), rfl, rfl, fun i hi => ⟨_, h i hi, fun _ _ => ?_⟩⟩
  show (1024 + (2 ^ 32 - (512 + i) % 2 ^ 32)) % 2 ^ 32 ≤ (1024 + (2 ^ 32 - (512 + 0) % 2 ^ 32)) % 2 ^ 32
  omega

theorem logFree_of {s : State} (h : s.errs = []) : s.logFree := .inl (by unfold State.errAt; rw [h]; rfl)

/-- Firmware runs; watchdog 2 may be fenced. -/
theorem test_watchdog_meets : (fwUp base).runs = true ∧ (fwUp base).rot.fw ≠ none ∧ base.rot.fw = none ∧ ((fwUp base).fence 0x20 1).testBit 2 = false ∧
    ((withSet (fwUp base) [srec 0x0A01 0 (List.replicate 32 0 ++ [4] ++ List.replicate 15 0)]).fence 0x20 1).testBit 2 = true ∧ (fwUp base).sameUnitOpen 7 2 = false ∧
    (fwUp (sDev .vestibule true)).aon.dev = .vestibule := by decide +kernel
theorem test_log_free : (fwUp base).logFree ∧ (withGroup { tm0 with st := .stopping } gr0).logFree ∧ (sDev .stopped false).logFree :=
  ⟨logFree_of rfl, logFree_of rfl, logFree_of rfl⟩
/-- A team that is stopping, on a core of partition 0 and on a core of none. -/
theorem test_stop_timeout : (let s := withSet (withGroup { tm0 with st := .stopping } gr0) partRecs
      s.runs = true ∧ ((s.core 0).teamList.any (fun e => e.2.st == .stopping)) = true ∧ s.corePart 0 = some 0 ∧ s.sameUnitOpen 0 0 = false) ∧
    (withGroup { tm0 with st := .saving } gr0).corePart 0 = none ∧ (withGroup tm0 gr0).runs = true := by decide +kernel

/-! ### Read-out (O55) -/

/-- Chains that are public, that are not, and that there are none of; a freeze is in force, and the chip is unlocked. -/
theorem test_chains : chainPublic 0 = some true ∧ chainPublic 2 = some true ∧ chainPublic 3 = none ∧ chainPublic 0x10 = some false ∧ chainPublic 0x5BF = some true ∧ chainPublic 0x5C0 = none ∧
    base.freeze.aon.dev = .frozen ∧ base.freeze.aon.vdd = true ∧ base.freeze.aon.cold = false ∧ (base.setFldB Fld.SEC_STATUS_UNLOCKED true).fld Fld.SEC_STATUS_UNLOCKED = 1 := by
  decide +kernel

/-! ### Registers (O56, O57) -/

/-- Accesses that reach registers of both agents, and accesses that reach none. -/
theorem test_reaches : [Agent.host, .firmware].all (fun a => (hostUp (fwUp base)).reaches a Reg.ERR_CTL && (hostUp (fwUp base)).reaches a Reg.CNT_CTL &&
    (hostUp (fwUp base)).reaches a Reg.ERR_LOUPE && (hostUp (fwUp base)).reaches a 0x24010 && !base.reaches a Reg.ERR_CTL) = true ∧
    ({ hostUp base with ep := { (hostUp base).ep with cont := .frozen } } : State).reaches .host Reg.CNT_CTL = false := by decide +kernel

/-- A write of 32 bits that breaks no rule, and one that does: a register that only the other agent may write. -/
def plainOff (o : Nat) : Bool :=
  o % 4 == 0 && !inMirror o && !inErrLog o && !inViolLog o && !inMsix o && !inPba o && !inComp o && base.assigned o 4 && o != Reg.XLT_RING_CONS
def violB (a : Agent) (o w be : Nat) : Option Nat :=
  match findReg o with | some (r, o') => if o' = o then ((hostUp (fwUp base)).touchReg a o).violates a r o w be else none | none => none
theorem test_write_meets : plainOff Reg.ERR_CTL = true ∧ (match findReg Reg.ERR_CTL with | some (r, _) => !r.wide | none => false) = true ∧
    violB .firmware Reg.ERR_CTL 0 (2 ^ 32 - 1) = none ∧
    plainOff (Reg.SEC_CMD 0) = true ∧ violB .host (Reg.SEC_CMD 0) (secWord 1 0 0) (2 ^ 32 - 1) ≠ none ∧
    base.fldB Fld.ERR_TRACE_CTL_EN = false ∧ base.fldB Fld.ERR_CTL_EN_VIOL = false := by decide +kernel
/-- The same of a register of 64 bits. -/
theorem test_wide_meets : (match findReg Reg.SET_CLASP_ADDR with | some (r, o) => r.wide && o == Reg.SET_CLASP_ADDR | none => false) = true ∧ Reg.SET_CLASP_ADDR % 8 = 0 ∧
    base.assigned Reg.SET_CLASP_ADDR 8 = true ∧ violB .host Reg.SET_CLASP_ADDR 0x1000 (2 ^ 64 - 1) = none ∧ violB .firmware Reg.ERR_LAST_FATAL 0 (2 ^ 64 - 1) ≠ none ∧
    base.assigned (Reg.SET_CLASP_ADDR + 4) 8 = true ∧ (Reg.SET_CLASP_ADDR + 4) % 8 ≠ 0 ∧ base.assigned 0x1FFFFFC 4 = false := by decide +kernel
/-- The rows of the catalogue have fields that do not meet, and that fit. -/
def fieldsOk (r : RRow) : Bool := r.fs.all (fun g => decide (g.lo ≤ g.hi) && decide (g.hi < 32)) && decide (r.fs.Pairwise (fun g h => g.hi < h.lo ∨ h.hi < g.lo))
theorem test_fields_meet : [Reg.ERR_CTL, Reg.CNT_CTL, Reg.SET_CLASP_CMD, Reg.SEC_CMD 0, Reg.ERR_LOUPE].all (fun o => match findReg o with | some (r, _) => fieldsOk r | none => false) = true := by
  decide +kernel

/-- Reads: in D3 or without memory space, in a freeze of the containment, of a register, and of no register. -/
theorem test_read_meets : (let s := ({ base with ep := { base.ep with linkUp := true, modules := 15 } } : State)
      s.ioHere = true ∧ s.memEnable = false) ∧ (hostUp base).memEnable = true ∧ (hostUp base).inD3 = false ∧
    ({ hostUp base with ep := { (hostUp base).ep with cont := .frozen } } : State).ioHere = true ∧ servedFrozen Reg.CNT_CTL = false ∧
    (match (hostUp base).word Reg.ERR_CTL with | some w => decide (w < 2 ^ 32) | none => false) = true ∧ (fwUp base).fwRuns = true ∧ base.fwRuns = false ∧
    (hostUp base).reaches .host 0x1FFFFFC = true ∧ (hostUp base).assigned 0x1FFFFFC 4 = false ∧
    (hostUp base).reaches .host 0x1FFFFF1 = true ∧ (List.range 8).all (fun k => ((hostUp base).word ((0x1FFFFF1 + k) / 4 * 4)).isNone) = true := by decide +kernel

/-- CNT_CTL may be written with either value of RUN by both agents; the log holds an entry, or none. -/
theorem test_cnt_writes : ∀ p, p ∈ [(Reg.CNT_CTL, 2 ^ 30), (Reg.CNT_CTL, 2 ^ 30 + 2 ^ 31)] →
    (∃ r, WriteOk .host (hostUp (fwUp base)) r p.1 p.2) ∧ ∃ r, WriteOk .firmware (hostUp (fwUp base)) r p.1 p.2 :=
  fun p hp => ⟨writesOk_of (by decide +kernel) p hp, writesOk_of (by decide +kernel) p hp⟩
theorem test_log_entries : SMap.get noErr base.errs 511 = none ∧ SMap.get noErr (nx (exec .refclkHostLoss base)).errs 0 ≠ none := by decide +kernel

/-! ### The whole machine (O58 to O60) -/

theorem test_stopped_machine : State.reset.runs = false ∧ base.freeze.halted ∧ (sDev .stopped false).halted ∧ alwaysOn .fastLimiter = false :=
  ⟨by decide +kernel, ⟨.inr rfl, rfl, rfl, rfl⟩, ⟨.inl rfl, rfl, rfl, rfl⟩, rfl⟩
theorem test_reset_legal : Legal State.reset ∧ Legal base := ⟨⟨by decide, by decide, by decide⟩, ⟨by decide, by decide, by decide⟩⟩
theorem test_reset_memory : Memory.wf State.reset.mem = true := rfl

end Sys2Proof.Tests
end

