-- ==== Sys2Proof/Tests/Queues.lean ====
section
/-! SUPPORT. Witnesses of the hypotheses of the statements about queues, commands, completion and the tier manager (O43 to O46). -/
namespace Sys2Proof.Tests
open Sys2Proof.Machine
set_option Elab.async false

/-! ### Submission (O43) -/

/-- A descriptor: sequence number, type, flags, inline length, Landing index, OPA, OPB, body. -/
def descOf (seq ty fl inl li opa opb : Nat) (body : List Byte) : List Byte :=
  natLe 4 seq ++ natLe 1 ty ++ natLe 1 fl ++ natLe 1 inl ++ natLe 1 li ++ natLe 8 0x7A31 ++ natLe 8 opa ++ natLe 8 opb ++ body ++
    List.replicate (96 - body.length) 0

/-- A ring in host memory. -/
def hostRing : Nat := 0x100000008000

/-- Queue 3 of partition 0, with its ring in the Gallery and completion queue 4. -/
def sq3 : Sq := { Sq.empty with st := .enabled, cls := 1, cq := 4, base := 0x10080004000, log2 := 2, tail := 1, dbs := [(1, 0)] }
def cq4 : Cq := { Cq.empty with en := true, base := 0x10080008000, log2 := 2, vec := 37 }

def withQ (s : State) (v : Sq) (c : Cq) : State := { s with sqs := [(3, v)], cqs := [(4, c)] }
def sQ0 : State := (waysOn (withSet base galSet)).setFld Fld.SET_PART_RUN_RUN 1
def sRing1 (d : List Byte) : State := (withQ sQ0 sq3 cq4).storeRun 0x10080004000 d

/-- The reads of the two parts of the next descriptor return them, unpoisoned. -/
def fetchB (s : State) (seq : Nat) : Bool :=
  let v := s.sq 3
  match s.unitRead v.part v.slot 64 with
  | (u, some (some (d, false))) =>
    u.sqs == s.sqs && at' d 0 4 == seq &&
      (match u.unitRead v.part (v.slot + 64) 64 with | (w, some (some (_, false))) => w.sqs == s.sqs | _ => false)
  | _ => false

theorem test_fetch_meets :
    (sRing1 (descOf 0 4 0 0 0 0 0 [])).inService = true ∧ fetchB (sRing1 (descOf 0 4 0 0 0 0 0 [])) 0 = true ∧ fetchB (sRing1 (descOf 9 4 0 0 0 0 0 [])) 9 = true ∧
      (let v := (sRing1 []).sq 3; v.st = .enabled ∧ v.drain = false ∧ v.head ≠ v.tail ∧ v.half = none ∧ v.miss = none ∧ v.waiting.length ≤ 16) := by decide +kernel

/-- The first half has come; its second half lies in host memory and is asked for. -/
theorem test_half_meets : fetchB (withQ sQ0 { sq3 with half := some (List.replicate 64 0) } cq4) 0 = true ∧
    (let s := hostUp (withQ sQ0 { sq3 with base := hostRing } cq4)
     s.cacheEnable = false ∧ isHostRange hostRing = true ∧ ((s.unitRead 0 (hostRing + 64) 64).2 == none) = true ∧
       ((s.unitRead 0 (hostRing + 64) 64).1.sqs == s.sqs) = true) := by decide +kernel

/-- A re-fetch at its first and at its last time. -/
def sMiss (n : Nat) (seq : Nat) : State := (withQ sQ0 { sq3 with miss := some n, ret := n } cq4).storeRun 0x10080004000 (descOf seq 4 0 0 0 0 0 [])

theorem test_refetch_meets : [(0, 0), (7, 0), (0, 9), (7, 9)].all (fun p =>
    fetchB (((sMiss p.1 p.2).bump Fld.SQ_REFETCH_CNT_COUNT 1).setSq 3 { (sMiss p.1 p.2).sq 3 with miss := some (p.1 + 1) }) p.2 && ((sMiss p.1 p.2).sq 3).miss == some p.1) = true := by decide +kernel

def cmdOf (d : List Byte) : Cmd := newCmd 0 d 0 0
def sNext (v : Sq) (d : List Byte) : State := withQ sQ0 { v with head := 1, cmds := [cmdOf d] } cq4

def nextUpB (s : State) (c : Cmd) : Bool :=
  s.inService && quietB s && (s.sq 3).waiting.head? == some c && c.st == .fetched && s.mayStart 3 && !descFlag c.desc 2

theorem nextUp_of {s : State} {c : Cmd} (h : nextUpB s c = true) : NextUp s 3 c := by
  simp only [nextUpB, Bool.and_eq_true, beq_iff_eq, Bool.not_eq_true'] at h
  exact ⟨h.1.1.1.1.1, quiet_of h.1.1.1.1.2, h.1.1.1.2, h.1.1.2, h.1.2, h.2⟩

/-- Descriptors that are good, that break a field, and that wait for a Landing. -/
def dNop : List Byte := descOf 0 4 0 0 0 0 0 []
def dLand : List Byte := descOf 0 4 8 0 2 0 0 []
def descs : List (List Byte) := [dNop, descOf 0 9 0 0 0 0 0 [], descOf 0 2 0 0 0 0x10000 0 [], dLand, descOf 0 1 0 0 0 0x20 0 []]

theorem test_next_up : ∀ d, d ∈ descs → NextUp (sNext sq3 d) 3 (cmdOf d) := by
  intro d hd
  have h : descs.all (fun d => nextUpB (sNext sq3 d) (cmdOf d)) = true := by decide +kernel
  exact nextUp_of (List.all_eq_true.mp h d hd)

def landAt (st : LSt) : Landing := { noLanding 0 with st := st }
def sLand (st : LSt) : State := ((sNext sq3 dLand).setFld (Fld.NWL_FLIGHT_N 0) 256).setFlight 0 2 (landAt st)

/-- What each clause of the start asks: a good command, a field that is wrong, a stream that is not open, the states of a Landing,
and a Class 0 queue with and without a condition in force. -/
theorem test_starts_meet : (sNext sq3 dNop).fieldBad 3 dNop = none ∧ (sNext sq3 dNop).fieldBad 3 (descOf 0 9 0 0 0 0 0 []) = some 4 ∧
    (sNext sq3 dNop).fieldBad 3 (descOf 0 2 0 0 0 0x10000 0 []) = none ∧ (sNext sq3 dNop).modelBad 3 (descOf 0 2 0 0 0 0x10000 0 []) = some 0x14 ∧
    [LSt.armed, .cancelled, .empty, .fired].all (fun l => let s := sLand l
      s.fieldBad 3 dLand == none && (s.flight 0 2).st == l && nextUpB s (cmdOf dLand)) = true ∧
    (let s := { sNext { sq3 with cls := 0 } dNop with setting := galSet ++ [srec 0x0401 0 (1 :: List.replicate 37 0)] }
     nextUpB s (cmdOf dNop) = true ∧ (match s.admission 3 dNop with | .ok (0, 0) => true | _ => false) = true ∧ s.heldCores = []) ∧
    (let s := sNext { sq3 with cls := 0 } dNop
     nextUpB s (cmdOf dNop) = true ∧ (match s.admission 3 dNop with | .error _ => true | _ => false) = true) := by decide +kernel

/-- A command of queue 3 that has started. -/
def runCmd (d : List Byte) : Cmd := { newCmd 5 d 0 0 with st := .running }
def sStarted (d : List Byte) : State := withQ sQ0 { sq3 with head := 6, tail := 6, cmds := [runCmd d] } cq4

/-- A kernel with its launch block at 0x10080006000: a good one, and one with no group. -/
def dKern : List Byte := descOf 5 1 0 0 0 0x10080006000 0 []
def blkOf (g : Nat) : List Byte := natLe 8 0x400000 ++ natLe 4 4 ++ natLe 2 1 ++ natLe 2 1 ++ natLe 1 g ++ natLe 1 8 ++ List.replicate 14 0
def sKern (g : Nat) : State := (sNext sq3 dKern).storeRun 0x10080006000 (blkOf g)

/-- The launch block of the command that is next to start comes, good and bad; that of another lies in host memory and is asked for. -/
theorem test_launch_block_meets : [(1, none), (0, some 16)].all (fun p => let s := sKern p.1
    nextUpB s (cmdOf dKern) && s.fieldBad 3 dKern == none && !descFlag dKern 3 && (match s.virtRead 0 0 (at' dKern 0x10 8) 32 with
      | (u, some (some b)) => u.sqs == s.sqs && blkBad b == p.2
      | _ => false)) = true ∧
    (let s := (sNext { sq3 with cls := 0 } dKern).storeRun 0x10080006000 (blkOf 1)
     nextUpB s (cmdOf dKern) && (match s.virtRead 0 0 (at' dKern 0x10 8) 32 with
       | (u, some (some b)) => blkBad b == none && (match (u.modCmd 3 0 (fun d => { d with blk := b })).admission 3 dKern with | .error _ => true | _ => false)
       | _ => false)) = true ∧
    (let s := hostUp (sNext sq3 dKern)
     (match s.virtRead 0 0 hostRing 32 with | (u, r) => r == none && u.sqs == s.sqs) = true) ∧
    (match (sNext sq3 dKern).virtRead 0 0 0x30000000000 32 with | (_, r) => r == some none) = true := by decide +kernel

/-- A kernel that has started with its launch block, and one whose block could not be read; a command whose Landing has fired. -/
theorem test_kernel_meets : [blkOf 1, []].all (fun b => let s := withQ sQ0 { sq3 with head := 6, tail := 6, cmds := [{ runCmd dKern with blk := b }] } cq4
    s.inService && s.startedCmd 3 5 1 == some { runCmd dKern with blk := b }) = true ∧
    (let c := { cmdOf dLand with landed := true }
     nextUpB (withQ sQ0 { sq3 with head := 1, cmds := [c] } cq4) c = true) := by decide +kernel

/-- A model command of image 7 and stream 2, whose input area stands in the Gallery. -/
def img7 : Image :=
  { part := 0, home := 1, res := .gallery, was := .gallery, lost := false, layers := 2, wfmt := 16, kvb := 1, outb := 64, window := 0, maxctx := 64, ilen := 4096, table := 0,
    inb := 64, digest := [], va := 0x200000000000, segs := [] }
def strm2 : TStream := ⟨7, 0, 64, 0, false, 0x200000100000⟩
def inPage : Page :=
  { owner := .input 2, idx := 0, part := 0, tier := 0, pool := false, age := 0, c0 := false, pinned := false, phys := 0x10080040000, lost := false, nonce := [], tag := [] }
def dModel : List Byte := descOf 5 2 0 8 0 (7 + 0x10000 + 2 * 2 ^ 32) 0x10080050000 (natLe 8 0x1122334455667788)
def sModel : State := (({ sStarted dModel with pages := [inPage] } : State).setImg 7 (some img7)).setStrm 2 (some strm2)

def modelMeets (s : State) : Bool :=
  s.inService && s.startedCmd 3 5 2 == some (runCmd dModel) && !(runCmd dModel).taken && !s.streamBusy (mStream dModel) 3 5 &&
    s.img (mImage dModel) == some img7 && s.brokenAt (mStream dModel) == none && s.lostFor (runCmd dModel) == none && inPage.tier == 0 && s.moves.isEmpty && s.page (.input (mStream dModel)) 0 == some inPage && !descFlag dModel 4 &&
    (s.unitWrite 0 .nobody inPage.phys ((dModel.drop 0x20).take (at' dModel 6 1))).2

theorem test_model_meets : modelMeets sModel = true ∧ (dModel.drop 0x20).take (at' dModel 6 1) ≠ [] := by decide +kernel

/-- A transfer of inline bytes, with channel 5 for the partition and without. -/
def dXfer : List Byte := descOf 5 3 0 16 0 0x10080060000 0 (List.replicate 16 7)
def sXf3 (m : Nat) : State := { sStarted dXfer with setting := srec 0x030A 0 [m, 0, 0, 0] :: galSet }

theorem test_transfer_meets : (sXf3 0x20).inService = true ∧ (sXf3 0x20).startedCmd 3 5 3 = some (runCmd dXfer) ∧ (sXf3 0x20).freeChans 0 = [5] ∧ (sXf3 0x20).xferNext 3 (runCmd dXfer) = true ∧
    (sXf3 0).startedCmd 3 5 3 = some (runCmd dXfer) ∧ (sXf3 0).freeChans 0 = [] ∧ at' dXfer 6 1 ≠ 0 := by decide +kernel

def aloneB (s : State) (v : Sq) (c : Cmd) (ty : Nat) : Bool :=
  s.inService && quietB s && s.sqs == [(3, v)] && v.cmds == [c] && s.startedCmd 3 c.seq ty == some c && !s.hasTeams 3 c.seq && s.storesDrained 3 c.seq &&
    s.chanXf.isEmpty && (s.beganAt 3 c.seq).isNone

theorem alone_of {s : State} {v : Sq} {c : Cmd} {ty : Nat} (h : aloneB s v c ty = true) : Alone s 3 v c ty := by
  simp only [aloneB, Bool.and_eq_true, beq_iff_eq, Bool.not_eq_true', List.isEmpty_iff] at h
  obtain ⟨h, h9⟩ := h
  exact ⟨h.1.1.1.1.1.1.1, quiet_of h.1.1.1.1.1.1.2, h.1.1.1.1.1.2, h.1.1.1.1.2, h.1.1.1.2, h.1.1.2, h.1.2, h.2, Option.isNone_iff_eq_none.mp h9⟩

def dQual : List Byte := descOf 5 5 0 0 0 (7 + 2 * 2 ^ 32) 0 (natLe 4 128 ++ natLe 4 1024 ++ List.replicate 24 0 ++ natLe 2 64)

theorem test_nop_alone : Alone (sStarted dNop) 3 ((sStarted dNop).sq 3) (runCmd dNop) 4 := alone_of (by decide +kernel)
theorem test_qualify_alone : Alone (sModel.modSq 3 (fun v => { v with cmds := [runCmd dQual] })) 3 { sq3 with head := 6, tail := 6, cmds := [runCmd dQual] } (runCmd dQual) 5 :=
  alone_of (by decide +kernel)
/-- The same as Class 0 commands that publish, admitted on core 0. -/
def c0Cmd (d : List Byte) : Cmd := { runCmd d with class0 := true, cores := [0] }
def sqC0 (d : List Byte) : Sq := { sq3 with cls := 0, head := 6, tail := 6, cmds := [c0Cmd d] }
theorem test_class0_alone : aloneB (withQ sQ0 (sqC0 (descOf 0 4 1 0 0 0 0 [])) cq4) (sqC0 (descOf 0 4 1 0 0 0 0 [])) (c0Cmd (descOf 0 4 1 0 0 0 0 [])) 4 = true ∧
    aloneB (sModel.modSq 3 (fun v => { v with cls := 0, cmds := [c0Cmd dQual] })) (sqC0 dQual) (c0Cmd dQual) 5 = true := by decide +kernel

theorem test_qualify_holds : (let s := sModel.setReg (Reg.TIER_QUOTA 0) (16 + 2 ^ 16)
    s.qualHolds 0 img7 128 = true ∧ s.qualHolds 0 img7 16777216 = false) := by decide +kernel
theorem test_qualify_meets : descFlag dQual 0 = false ∧ at' dQual 0x10 2 % 4096 = 7 ∧ img7.resident = true ∧ (qLens dQual).length = 2 ∧
    sModel.img 7 = some img7 := by decide +kernel

/-- A Class 2 command with teams still to place ages. -/
def bgCmd : Cmd := { runCmd dKern with placed := 0, total := 4, begun := true }
theorem test_age_meets : let s := withQ sQ0 { sq3 with cls := 2, cmds := [bgCmd] } cq4
    s.inService = true ∧ (s.sq 3).cls = 2 ∧ (s.sq 3).cmds.find? (fun d => d.unplaced && !d.aged) = some bgCmd := by decide +kernel

/-! ### Completion queues and SQ_ commands (O44) -/

def rec1 (intr : Bool) : CqRec := ⟨3, 5, 0x7A31, 0, 0, 0, 0, 0, 9, intr, 0⟩

/-- A record that can be written: both parts of it go, and the queue has a place for it. -/
def recMeets (s : State) : Bool :=
  let c := s.cq 4
  match c.recs with
  | r :: _ =>
    let x := c.base + 32 * (c.seq.toNat % 2 ^ c.log2)
    s.inService && quietB s && s.cores.isEmpty && [0, 1, 2, 3].all (fun k => !s.fldB (Fld.SQ_CMD_GO k)) && c.en &&
      decide (distance 32 c.cons.toNat c.seq.toNat < 2 ^ c.log2) && r.flags % 2 == 0 && decide (c.vec < 2048) && !isHostRange x &&
      (match s.unitWrite c.part .nobody x (recHead r) with
        | (u, true) => (match u.unitWrite c.part (.record 4 r.intr) (x + 0x18) (recTail r c.log2 c.seq.toNat) with
          | (w, true) => w.cqs == s.cqs && [0, 1, 2, 3].all (fun k => !w.fldB (Fld.SQ_CMD_GO k))
          | _ => false)
        | _ => false)
  | [] => false

theorem test_record_meets : recMeets (withQ sQ0 sq3 { cq4 with recs := [rec1 true] }) = true ∧ recMeets (withQ sQ0 sq3 { cq4 with recs := [rec1 false] }) = true ∧
    recMeets (withQ sQ0 sq3 { cq4 with recs := [rec1 false], coalN := 2, unsig := 1 }) = true := by decide +kernel
theorem test_record_waits : (let c := { cq4 with recs := [rec1 true], seq := 4 }; c.recs ≠ [] ∧ 2 ^ c.log2 ≤ distance 32 c.cons.toNat c.seq.toNat) := by decide

/-- Firmware may give every SQ_ command on every channel; a ring of 16 that lies in the partition, and one that does not. -/
def sCmd : State := fwUp (withQ sQ0 sq3 cq4)
def sqArg (s : State) (base cq : Nat) : State := ((s.setReg (Reg.SQ_CMD_BASE 0) base).setFld (Fld.SQ_CMD_ARG_CQ 0) cq)

theorem test_sq_writes : ∀ p, p ∈ (List.range 9).flatMap (fun op => [0, 3].map (fun ch => (Reg.SQ_CMD ch, 2 ^ 31 + op * 2 ^ 27 + 4 * 2 ^ 16 + 3))) ++
      [(Reg.SQ_CMD 0, 2 ^ 31 + 2 * 2 ^ 25 + 4 * 2 ^ 16 + 5), (Reg.SQ_CMD 0, 2 ^ 31 + 0 * 2 ^ 27 + 4095)] → ∃ r, WriteOk .firmware sCmd r p.1 p.2 :=
  writesOk_of (by decide +kernel)

theorem test_sq_rings : sCmd.ringBad 0 0x10080010000 4 (128 * 2 ^ 4) = false ∧ sCmd.ringBad 0 0x10080010800 4 (128 * 2 ^ 4) = true ∧
    (sqArg sCmd 0x10080010000 4).fld (Fld.SQ_CMD_BASE_BASE 0) = 0x10080010000 ∧ (sqArg sCmd 0x10080010000 4).fld (Fld.SQ_CMD_ARG_CQ 0) = 4 ∧
    (sCmd.cq 4).en = true ∧ (sCmd.cq 4).part = 0 ∧ (sCmd.cq 9).en = false ∧ sCmd.hasRes 0 = false ∧ (sCmd.sq 5).st = .disabled ∧ (sCmd.sq 3).st ≠ .disabled := by
  decide +kernel

/-- The states of a queue that the clauses of destroy, drain and cancel ask for. -/
theorem test_sq_states : (sCmd.sq 3).cmds = [] ∧ (sCmd.cq 4).recs = [] ∧ (sCmd.sq 3).waiting = [] ∧ [0, 1, 2, 3].all (fun k => !sCmd.fldB (Fld.SQ_CMD_GO k)) = true ∧
    (((sStarted dNop).sq 3).cmds.any (fun x => x.st == .running)) = true ∧
    (((sNext { sq3 with cls := 0 } dNop).sq 3).cmds.map (·.st)) = [.fetched] ∧ (sCmd.sqs.all (fun e => e.2.cq != 9)) = true := by decide +kernel

/-! ### The tier manager (O45) -/

def sTier : State := fwUp ((({ sQ0 with pages := [] } : State).setImg 7 (some img7)).setStrm 2 (some strm2))

theorem test_tier_writes : ∀ p, p ∈ (List.range 8).flatMap (fun op => [(Reg.TIER_CMD 0, 2 ^ 31 + op * 2 ^ 27 + 7), (Reg.TIER_CMD 3, 2 ^ 31 + op * 2 ^ 27 + 2)]) ++
      [(Reg.TIER_CMD 0, 2 ^ 31 + 2 ^ 25 + 9), (Reg.TIER_CMD 0, 2 ^ 31 + 2 * 2 ^ 27 + 2 ^ 25 + 7), (Reg.TIER_CMD 0, 2 ^ 31 + 6 * 2 ^ 27 + 3 * 2 ^ 21 + 7)] →
    ∃ r, WriteOk .firmware sTier r p.1 p.2 := writesOk_of (by decide +kernel)

/-- The same from the host, on channel 2, with permission for partition 0 and without; a source in the catalogue; handles above 4,095. -/
def sTierHost (grant : Nat) : State := let s := hostUp sTier
  { s with setting := srec 0x0309 0 [grant] :: s.setting }
theorem test_tier_host : (sTierHost 4).hostMay 0 2 = true ∧ (sTierHost 0).hostMay 0 2 = false ∧ (sTierHost 4).definedPart 0 = true ∧
    (sTierHost 4).definedPart 3 = false ∧ [0, 4].all (fun g => [2 ^ 31 + 2 ^ 25 + 2 ^ 20 + 9, 2 ^ 31 + 2 ^ 27 + 7, 2 ^ 31 + 2 * 2 ^ 27 + 2 ^ 26 + 7,
      2 ^ 31 + 3 * 2 ^ 27 + 3, 2 ^ 31 + 4 * 2 ^ 27 + 2, 2 ^ 31 + 5 * 2 ^ 27 + 2, 2 ^ 31 + 6 * 2 ^ 27 + 4096, 2 ^ 31 + 7 * 2 ^ 27 + 3 * 2 ^ 21 + 2].all
      (fun w => writeOkB .host (sTierHost g) (Reg.TIER_CMD 2) w)) = true := by decide +kernel

/-- A partition with a Class 0 reservation: its image may go to the Gallery or be locked, for which there is room or not. -/
def sTierRes (room : Nat) (i : Image) : State := let s := sTier.setImg 7 (some i)
  ({ s with setting := srec 0x0401 0 ([1] ++ List.replicate 39 0) :: s.setting } : State).setReg (Reg.TIER_QUOTA 0) room
theorem test_tier_room : (sTierRes 0 { img7 with res := .home }).hasRes 0 = true ∧ (sTierRes 0 { img7 with res := .home }).imgBusy 7 = false ∧
    img7.segPages.length = 0 ∧ ({ img7 with segs := [⟨[], 0, 4096⟩] } : Image).segPages.length = 1 ∧ (sTierRes 0 img7).galRes 0 = 0 ∧
    (sTierRes 0 img7).fld (Fld.SQ_PART_RES_WAYS 0) * 0x800000 = 0 ∧
    writeOkB .firmware (sTierRes 0 img7) (Reg.TIER_CMD 0) (2 ^ 31 + 2 * 2 ^ 27 + 2 ^ 26 + 7) = true := by decide +kernel

/-- The states of image 7 and stream 2 that the clauses ask for, and a partition that is not defined. -/
theorem test_tier_states : sTier.img 7 = some img7 ∧ sTier.img 9 = none ∧ sTier.strm 2 = some strm2 ∧ sTier.strm 3 = none ∧ sTier.definedPart 0 = true ∧
    sTier.definedPart 3 = false ∧ sTier.hasRes 0 = false ∧ sTier.imgBusy 7 = false ∧ sTier.strmBusy 2 = false ∧ sModel.strmBusy 2 = true ∧ sModel.imgBusy 7 = true ∧
    img7.part = 0 ∧ img7.maxctx = 64 ∧ strm2.pos < 64 ∧ img7.home < 4 ∧ img7.res = .gallery := by decide +kernel

/-- The last step of a tier command: RESIDE to HOME, EXTEND within pages that are there and beyond them, REGISTER of a source that cannot
be read or whose header is wrong. -/
def sTierGo (op id : Nat) : State := (((sTier.setFld (Fld.TIER_CMD_OP 1) op).setFld (Fld.TIER_CMD_ID 1) id).setFldB (Fld.TIER_CMD_GO 1) true).setFld (Fld.TIER_CMD_LEN_LEN 1) 4096
def sTierSrc : State := (sTierGo 0 9).setReg (Reg.TIER_CMD_ADDR 1) 0x10080050000

theorem test_tier_ends : (sTierGo 2 7).inService = true ∧ (sTierGo 2 7).fldB (Fld.TIER_CMD_GO 1) = true ∧ (sTierGo 2 7).img 7 = some img7 ∧
    (sTierGo 2 7).fld (Fld.TIER_CMD_ARG 1) = 0 ∧ (sTierGo 5 2).strm 2 = some strm2 ∧ img7.newPages 0 5 = [(0, 0), (1, 0)] ∧
    (let s : State := { sTierGo 5 2 with pages := [0, 1].map (fun l => { inPage with owner := .stream 2 l }) }
     s.takePages 2 0 [(0, 0), (1, 0)] = (s, .got 0 false) ∧ s.strm 2 = some strm2) ∧
    ((sTierGo 5 2).takePages 2 0 [(0, 0), (1, 0)]).2 = .noSpace ∧
    (match (sTierGo 0 9).regSource 1 with | (_, some none) => true | _ => false) = true ∧
    (match sTierSrc.regSource 1 with | (_, some (some b)) => (readHead (b.take 128) 4096).isNone | _ => false) = true := by decide +kernel

/-- The last step of RESIDE to GALLERY, of an image without segments and of one whose home page is not there, and to LOCKED. -/
theorem test_reside_ends : (sTierGo 2 7).toGallery 7 img7 = (sTierGo 2 7, .go) ∧
    (sTierGo 2 7).toGallery 7 { img7 with segs := [⟨[], 0, 4096⟩] } = (sTierGo 2 7, .fail 6) ∧
    (sTierGo 2 7).placeRun 7 img7 = (sTierGo 2 7, .go) ∧ ((sTierGo 2 7).lockSegs 7 img7).2 = .go ∧
    ((sTierGo 2 7).setFld (Fld.TIER_CMD_ARG 1) 2).fld (Fld.TIER_CMD_ARG 1) = 2 ∧ (sTierGo 2 7).pages = [] ∧
    (sTierGo 2 7).nextVa 0 (2 * ceilDiv 64 img7.perPage + 1) ≠ none ∧ (sTierGo 2 7).nextVa 0 (2 ^ 33) = none := by decide +kernel

/-! ### Moves, layers and fetches (O46) -/

def pg (o : POwner) (k tier phys : Nat) : Page :=
  { owner := o, idx := k, part := 0, tier := tier, pool := false, age := 0, c0 := false, pinned := false, phys := phys, lost := false, nonce := [], tag := [] }
def mv (o : POwner) (toT phys : Nat) : Move := ⟨o, 0, toT, 0, phys, false, false, none⟩
/-- A page of stream 2, layer 0, moves from one tier to another: promotion and demotion. -/
def sMove (from_ to_ : Nat) : State :=
  { sQ0 with pages := [pg (.stream 2 0) 0 from_ 0x10080040000], moves := [mv (.stream 2 0) to_ 0x10080050000] }

/-- Nothing of a queue, a BIConflict, a bias flip or the tier manager goes on, and writes to the host go out past the L2. -/
structure Idle (s : State) : Prop where
  calm  : s.still
  past  : s.cacheEnable = false
  flows : s.ep.cont = .normal ∧ s.ep.retrain = false
  d0    : s.ioBarred = false

theorem hostSecWrite_idle {s : State} {who : Who} {a : Nat} {bs : List (Nat × Byte)} (h : Idle s) : Idle (s.hostSecWrite who a bs) := by
  obtain ⟨h1, h2, h3, h4⟩ := h
  have e : s.hostSecWrite who a bs = s.hostSend (.memWr (s.hostName (a + (bs.headD (0, 0)).1)) (bs.map (·.2))) := by
    simp [State.hostSecWrite, h2, State.hostOut, h3, h4]
  rw [e]
  exact ⟨h1, h2, h3, h4⟩

theorem foldl_idle {f : State → Nat → State} (hf : ∀ t a, Idle t → Idle (f t a)) : ∀ (l : List Nat) (s : State), Idle s → Idle (l.foldl f s) := by
  intro l
  induction l with
  | nil => exact fun _ h => h
  | cons a l ih => exact fun s h => ih _ (hf s a h)

/-- A read of host memory past the L2 is a read over CXL.io. -/
theorem unitRead_past {s : State} {p a n : Nat} (h : isHostRange a = true) (hc : s.cacheEnable = false) :
    s.unitRead p a n = s.ioRead .unit a n := by
  simp [State.unitRead, h, hc]

/-- The page's bytes have come from the host, and go to it: what the clause on a move that succeeds asks. -/
def hostPage : Nat := 0x100000040000
def sMoved (from_ to_ : Nat) (b : List Byte) : State :=
  { hostUp sQ0 with
    pages := [pg (.stream 2 0) 0 from_ hostPage], moves := [mv (.stream 2 0) to_ 0x100000050000],
    ep := { (hostUp sQ0).ep with tags := ioPieces 512 hostPage b } }

theorem test_move_meets (from_ to_ : Nat) (b : List Byte) (hb : b.length = 0x10000) : ∃ u w, let s := sMoved from_ to_ b
    s.inService = true ∧ s.pageBusy hostPage = false ∧ s.still ∧ s.moves[0]? = some (mv (.stream 2 0) to_ 0x100000050000) ∧
      s.page (.stream 2 0) 0 = some (pg (.stream 2 0) 0 from_ hostPage) ∧
      s.unitRead 0 hostPage 0x10000 = (u, some (some (b, false))) ∧ u.unitWrite 0 .nobody 0x100000050000 b = (w, true) ∧ w.still := by
  have hc : (SMap.get zeroCfg (hostUp sQ0).ep.cfg 0x164).getLsbD 0 = false := by decide +kernel
  have h1 : isHostRange hostPage = true := by decide +kernel
  have h2 : isHostRange 0x100000050000 = true := by decide +kernel
  have z : (hostUp sQ0).cores = [] ∧ (hostUp sQ0).still ∧ (hostUp sQ0).inService = true ∧
      (hostUp sQ0).ep.cont = .normal ∧ (hostUp sQ0).ep.retrain = false ∧ (hostUp sQ0).ioBarred = false ∧
      (hostUp sQ0).maxRead = 512 := by unfold State.still; decide +kernel
  unfold sMoved
  generalize hostUp sQ0 = v at hc z
  obtain ⟨z1, z2, z5, z6, z7, z8, z9⟩ := z
  let u : State := { v with
    pages := [pg (.stream 2 0) 0 from_ hostPage], moves := [mv (.stream 2 0) to_ 0x100000050000], ep := { v.ep with tags := [] } }
  have hu : Idle u := ⟨z2, hc, ⟨z6, z7⟩, z8⟩
  have hd : u.ioBarred = false := z8
  have hw := foldl_idle (f := fun t a => t.hostSecWrite (if a + 64 ≥ 0x100000050000 + b.length then .nobody else .nobody) a (secBytes 0x100000050000 b a))
    (fun t a h => hostSecWrite_idle h) (secsOf 0x100000050000 b.length) u hu
  refine ⟨u, _, z5, ?_, z2, rfl, ?_, ?_, ?_, hw.calm⟩
  · simp [State.pageBusy, z1]
  · simp [State.page, pg]
  · refine Eq.trans (unitRead_past h1 ?_) ?_
    · exact hc
    · rw [← hb]
      refine ioRead_answered (u := { u with ep := { u.ep with tags := ioPieces 512 hostPage b } }) ?_ ?_ (by omega) ?_
      · exact Nat.lt_of_lt_of_eq (by decide) z9.symm
      · exact (congrArg (hostPage % ·) z9).trans (by decide +kernel)
      · exact congrArg (ioPieces · hostPage b) z9.symm
  · simp only [State.unitWrite, h2, if_true, hd, Bool.and_false, Bool.false_eq_true, if_false]

/-- A store of core 0 to a page keeps it busy. -/
theorem test_move_busy : (let s := { sMove 1 0 with cores := (base.setCore 0 { coreOf tm0 gr0 with sq := [⟨7, 0, 0, 0, 0, .wb, .coh 0 0x10080040000, [(0, 0xAB)], [], false, 0, 0, pc0, 0, 1⟩] }).cores }
  s.pageBusy 0x10080040000) = true := by decide +kernel

/-- A MODEL command that has been taken up, at a layer. -/
def img8 : Image := { img7 with segs := [⟨[], 0, 4096⟩, ⟨[], 4096, 4096⟩] }
def takenCmd (l : Nat) : Cmd := { runCmd dModel with inlen := some 8, layer := l }
def sLayer (l : Nat) (v : TStream) : State :=
  (((withQ sQ0 { sq3 with head := 6, tail := 6, cmds := [takenCmd l] } cq4).setImg 7 (some img8)).setStrm 2 (some v))

def layerMeets (s : State) (c : Cmd) (v : TStream) : Bool :=
  quietB s && s.startedCmd 3 5 2 == some c && s.img (mImage c.desc) == some img8 && s.strm (mStream c.desc) == some v && c.taken

theorem test_layer_meets : layerMeets (sLayer 1 strm2) (takenCmd 1) strm2 = true ∧ (sLayer 1 strm2).lostFor (takenCmd 1) = none ∧
    (sLayer 1 strm2).needs (takenCmd 1) 1 = [] ∧ { sLayer 1 strm2 with brings := [⟨3, 5, 1, 7, 0⟩] }.bringing 3 5 1 = true ∧ (img8.segs[(takenCmd 1).layer]?).isSome = true ∧ strm2.pos < strm2.maxpos ∧
    layerMeets (sLayer 0 strm2) (takenCmd 0) strm2 = true ∧ (sLayer 0 strm2).needs (takenCmd 0) 0 ≠ [] ∧
    layerMeets (sLayer 0 { strm2 with pos := 64 }) (takenCmd 0) { strm2 with pos := 64 } = true ∧
    layerMeets (sLayer 0 { strm2 with broken := true }) (takenCmd 0) { strm2 with broken := true } = true ∧
    (sLayer 0 { strm2 with broken := true }).brokenAt 2 = some (0, true, 0) ∧
    { sLayer 0 strm2 with pages := [{ inPage with lost := true }] }.lostFor (takenCmd 0) = some (0, true, 0) ∧
    layerMeets (sLayer 0 strm2) { takenCmd 0 with inlen := none } strm2 = false := by decide +kernel
theorem test_layer_not_taken : let s := sModel
    quietB s = true ∧ s.startedCmd 3 5 2 = some (runCmd dModel) ∧ (runCmd dModel).taken = false := by decide +kernel

/-- A fetch of 100 bytes over each transport, with nothing and with everything there. -/
def fetch0 (roce : Bool) : Fetch :=
  ⟨1, roce, descOf 0 0 0 0 0 0 0 [], 100, [], 1, [], 1, 0, 0⟩
def fetchAll (roce : Bool) : Fetch := { fetch0 roce with got := (List.range 100).map (fun i => (i, some 5)) }
def sFetch (f : Fetch) : State := { sQ0 with fetches := [f] }

theorem test_fetch_states : [false, true].all (fun x => (sFetch (fetch0 x)).inService &&
      (sFetch (fetch0 x)).fetches.find? (fun f => f.ch == 1 && f.roce == x) == some (fetch0 x) && !(fetch0 x).missing.isEmpty && (fetchAll x).missing.isEmpty) = true ∧
    (fetch0 false).spent 8 = false ∧ { fetch0 false with tries := [(0, 8)] }.spent 8 = true ∧ { fetch0 true with tries := [(0, 7)] }.spent 7 = true ∧
    (fetch0 true).psn = 0 ∧ distance 24 (at' (fetch0 true).entry 0xC 4 % 2 ^ 24) 0 * 4096 < 0x10000 * (fetch0 true).asked ∧
    ceilDiv (fetch0 false).total 0x10000 ≤ (fetch0 false).asked := by decide +kernel

end Sys2Proof.Tests
end

