-- ==== Sys2Proof/Tests/Slice0.lean ====
section
/-! SUPPORT. A smoke test with an ill-formed term for each check of `Instr.wf`, and single steps with results that the manual
states or that follow by hand from its rules. -/
namespace Sys2Proof.Tests
open Sys2Proof.Machine
set_option Elab.async false

/-! ### Well-formedness -/

/-- A routed message of opcode `o` with `n` bytes of data. -/
def msgOf (o n : Nat) : Msg := ⟨BitVec.ofNat 8 o, false, false, 0, 0, 0, 0, 0, 0, 0, 0, List.replicate n 0⟩

/-- A check accepts `good` and refuses every term of `bad`. -/
def refuses (good : List Instr) (bad : List Instr) : Bool := good.all Instr.wf && bad.all (fun i => !i.wf)

theorem test_wf_register_size : refuses [.registerWrite .host 0 .b1 0xFF] [.registerWrite .host 0 .b1 0x100, .registerWrite .host 0 .b4 0x100000000] = true := by decide
theorem test_wf_sensor_twice : refuses [.thermalSample [(3, 40), (4, 40)]] [.thermalSample [(3, 40), (3, 41)]] = true := by decide
theorem test_wf_message_requests : refuses
    [.rds (msgOf 0x10 64), .rdm (msgOf 0x11 64), .upg (msgOf 0x12 64), .wbm (msgOf 0x13 64), .evs (msgOf 0x14 64), .wrf (msgOf 0x15 64), .wrp (msgOf 0x16 64),
     .fwds (msgOf 0x20 64), .fwdm (msgOf 0x21 64), .rcls (msgOf 0x22 64), .rcli (msgOf 0x23 64), .inv (msgOf 0x24 64)]
    [.rds (msgOf 0x11 64), .rdm (msgOf 0x11 63), .upg (msgOf 0x10 64), .wbm (msgOf 0x13 0), .evs (msgOf 0x15 64), .wrf (msgOf 0x14 64), .wrp (msgOf 0x15 64),
     .fwds (msgOf 0x21 64), .fwdm (msgOf 0x20 64), .rcls (msgOf 0x23 64), .rcli (msgOf 0x22 64), .inv (msgOf 0x24 65)] = true := by decide
theorem test_wf_message_answers : refuses
    [.datas (msgOf 0x30 64), .datam (msgOf 0x31 64), .grantm (msgOf 0x32 64), .wbs (msgOf 0x33 64), .rcldata (msgOf 0x34 64), .invack (msgOf 0x35 64),
     .fwdack (msgOf 0x36 64), .wback (msgOf 0x37 64), .wrack (msgOf 0x38 64), .retry (msgOf 0x39 64), .done (msgOf 0x3A 64)]
    [.datas (msgOf 0x31 64), .datam (msgOf 0x30 64), .grantm (msgOf 0x33 64), .wbs (msgOf 0x32 64), .rcldata (msgOf 0x35 64), .invack (msgOf 0x34 64),
     .fwdack (msgOf 0x37 64), .wback (msgOf 0x36 64), .wrack (msgOf 0x39 64), .retry (msgOf 0x38 64), .done (msgOf 0x3B 64)] = true := by decide
theorem test_wf_message_windows : refuses
    [.wrd (msgOf 0x40 64), .wwr (msgOf 0x41 64), .watom (msgOf 0x42 64), .wrdrsp (msgOf 0x50 64), .wwrack (msgOf 0x51 64), .watomrsp (msgOf 0x52 64), .werr (msgOf 0x53 64)]
    [.wrd (msgOf 0x41 64), .wwr (msgOf 0x40 64), .watom (msgOf 0x50 64), .wrdrsp (msgOf 0x40 64), .wwrack (msgOf 0x52 64), .watomrsp (msgOf 0x51 64), .werr (msgOf 0x52 64)]
    = true := by decide
theorem test_wf_message_notices : refuses
    [.slip (msgOf 0x62 64), .jobCancel (msgOf 0x63 64), .lastGasp 0 (msgOf 0x64 64), .leave 0 (msgOf 0x65 64), .join (msgOf 0x66 64), .mail (msgOf 0x67 64)]
    [.slip (msgOf 0x63 64), .jobCancel (msgOf 0x62 64), .lastGasp 0 (msgOf 0x65 64), .leave 0 (msgOf 0x64 64), .join (msgOf 0x67 64), .mail (msgOf 0x66 64)] = true := by decide
theorem test_wf_lines : refuses [.retryResend 0x40, .memRd 0x40 .i, .biRspI 0x80, .snpInv 0xC0, .memRdFwd 0 .s]
    [.retryResend 0x41, .holdEnd 0x20, .homeTxnTimeout 1, .memRd 0x48 .i, .memRdData 8, .memInv 4 .s, .memInvNT 2 .a, .memClnEvct 1 .i, .memSpecRd 0x3F, .biConflict 0x10,
     .biRspI 0x81, .biRspS 0x82, .biRspE 0x84, .memRdFwd 0x88 .s, .memWrFwd 0x90, .snpInv 0xA0, .snpData 0xC1, .snpCur 0xC2] = true := by decide
theorem test_wf_host_writes : refuses [.memWr 0 .i (List.replicate 64 1) false, .memWrPtl 0 .i (List.replicate 64 1) 3]
    [.memWr 1 .i (List.replicate 64 1) false, .memWr 0 .i (List.replicate 63 1) false, .memWrPtl 8 .i (List.replicate 64 1) 3, .memWrPtl 0 .i [] 3] = true := by decide
theorem test_wf_config : refuses [.configRequest true 4 .b2 6, .configRequest false 0x70 .b4 0] [.configRequest true 4 .b1 0x100, .configRequest true 4 .b8 6, .configRequest true 5 .b2 6]
    = true := by decide
theorem test_wf_bar4 : refuses [.bar4Read 8 .b8, .bar4Write 8 .b4 7] [.bar4Read 4 .b8, .bar4Write 2 .b4 7, .bar4Write 8 .b1 0x1FF] = true := by decide
theorem test_wf_flit : refuses [.normalFlit 0 1 .good [msgOf 0x10 64]] [.normalFlit 0 1 .good [msgOf 0x10 64, msgOf 0x10 32]] = true := by decide
theorem test_wf_cache_response : refuses [.cxlCacheResponse 0x40 (.data .s (List.replicate 64 0) false), .cxlCacheResponse 0x40 .completion, .cxlCacheResponse 0 .error]
    [.cxlCacheResponse 0x44 .completion, .cxlCacheResponse 0x40 (.data .s [] false)] = true := by decide
theorem test_wf_data : refuses [.data 0 1 0 (List.replicate 4096 0)] [.data 0 1 0 (List.replicate 4097 0)] = true := by decide +kernel
theorem test_wf_rdma : refuses [.rdmaReadResponse 0 1 (List.replicate 4096 0) false] [.rdmaReadResponse 0 1 (List.replicate 4097 0) false] = true := by decide +kernel

/-! ### Words -/

/-- The MMA.WC of the example of chapter 05, and its branch `unless p1: BR`. -/
def wordMma : Issue := ⟨0, 0, 0xD000080C00084080, 0x00000000FFFF1310⟩
def wordBr : Issue := ⟨0, 0, 0xF0FFFFFFFF900000, 0x00000010FFFFFFC0⟩

theorem test_word_mma : opOf wordMma.opc = some .mma ∧ wordMma.w = ⟨true, 0, 8, 12, 0, false, 0, 0x84080, 0xFFFF1310⟩ ∧ legal .mma wordMma.w = true := by
  decide +kernel
theorem test_word_br : opOf wordBr.opc = some .br ∧ wordBr.w = ⟨true, 255, 255, 255, 255, true, 1, 0, 0x10FFFFFFC0⟩ ∧ legal .br wordBr.w = true ∧
    brTgt wordBr.w = -0x40 ∧ brRcv wordBr.w = 0x10 := by decide +kernel
/-- A word of zeros is never an instruction: Illegal Instruction, for all its threads (R152, R165). -/
theorem test_word_zero : opOf (Issue.opc ⟨0, 0, 0, 0⟩) = none ∧
    (((nx (execNop ⟨0, 0, 0, 0⟩ (withGroup tm0 gr0))).core 0).fault.map (fun f => (f.code, f.mask))) = some (1, 0xFFFFFFFF) := by decide +kernel

/-! ### Values of chapter 02 -/

/-- A NaN of an escalated block is stored as +448 (R50, R80). -/
theorem test_escalated_nan : (encodeEsc .near (fun _ => 0) 0 [.nan true]).map (fun r => (r.code, r.nanIn)) = [(0x7E, true)] := by decide +kernel
/-- A group whose block scale is zero is +0.0, whatever its sign before (R46, R142). -/
theorem test_zero_scale_group : groupVal [.fin true (-3)] (some 0) (some 1) = 0 := by decide +kernel

/-! ### Results of core instructions -/

/-- Register `r` of the group of core 0, in the given lanes. -/
def lanesOut (s : State) (r : Nat) (l : List Nat) : List Nat := l.map (fun n => ((((s.core 0).group 0).getD gr0).xr r n).toNat)

/-- x1 holds 0xFFFFFFFF, x2 the lane number, x3 a float, x4 0x80000000. -/
def sOps : State := withGroup tm0 (Group.withX gr0 [(1, fun _ => 0xFFFFFFFF), (2, fun n => n), (3, fun _ => 0x3FC00000), (4, fun _ => 0x80000000)])

/-- ADD and SUB wrap (R152). -/
theorem test_add_wraps : lanesOut (nx (execAdd (at0 .add (e3 9 1 2 255 0)) sOps)) 9 [0, 1, 31] = [0xFFFFFFFF, 0, 30] := by decide +kernel
theorem test_sub_wraps : lanesOut (nx (execSub (at0 .sub (e3 9 2 1 255 0)) sOps)) 9 [0, 31] = [1, 32] := by decide +kernel
/-- MULH is unsigned where S is 0 and signed where S is 1 (R152). -/
theorem test_mulh : lanesOut (nx (execMulh (at0 .mulh (e3 9 1 2 255 0)) sOps)) 9 [0, 1, 2] = [0, 0, 1] ∧
    lanesOut (nx (execMulh (at0 .mulh (e3 9 1 2 255 0x80)) sOps)) 9 [0, 1, 2] = [0, 0xFFFFFFFF, 0xFFFFFFFF] := by decide +kernel
theorem test_muladd : lanesOut (nx (execMuladd (at0 .muladd (e3 9 1 2 2 0)) sOps)) 9 [0, 5] = [0, 0] := by decide +kernel
/-- SHIFT uses B[4:0]: left, right, arithmetic right (R155). -/
theorem test_shift : lanesOut (nx (execShift (at0 .shift (e3 9 4 1 255 0x1000)) sOps)) 9 [0] = [1] ∧
    lanesOut (nx (execShift (at0 .shift (e3 9 4 2 255 0x2000)) sOps)) 9 [4] = [0xF8000000] := by decide +kernel
/-- SETI extends its sign from 20 bits; the destination x255 discards. -/
theorem test_seti : lanesOut (nx (execSeti (at0 .seti (e3 9 255 255 255 0x80000)) sOps)) 9 [3] = [0xFFF80000] ∧
    lanesOut (nx (execSeti (at0 .seti (e3 255 255 255 255 5)) sOps)) 255 [3] = [0] := by decide +kernel
/-- 1.5 + 1.5 = 3, 1.5 × 1.5 = 2.25. -/
theorem test_addf : lanesOut (nx (execAddf (at0 .addf (e3 9 3 3 255 0)) sOps)) 9 [7] = [0x40400000] := by decide +kernel
theorem test_mulf : lanesOut (nx (execMulf (at0 .mulf (e3 9 3 3 255 0)) sOps)) 9 [7] = [0x40100000] := by decide +kernel

/-- The tile of Tables 04.9 to 04.11: lane 0 of x0 holds 32.0. -/
def two (a b : Nat) (n : Nat) : Nat := if n = 0 then a else if n = 1 then b else 0

def sTile : State := withSet (withGroup tm0 (Group.withX gr0 [(0, two 0x3E800000 0),
    (8, two 0x22222222 0), (9, two 0x22222222 0), (10, two 0x11111111 0xAAAAAAAA), (11, two 0x11111111 0xAAAAAAAA),
    (12, two 0x44444444 0x33333333), (13, two 0x44444444 0x33333333), (14, two 0x22222222 0x22222220), (15, two 0x22222222 0x22222222),
    (16, two 0x7870 0x6868), (17, two 0xA55C 0), (18, two 0 0), (19, two 0x8070 0x7878), (20, two 0xB0D2 0), (21, two 0 0)])) [allFmts]

/-- Row 0 of A against column 0 of B. -/
def tileGroups : List W32 :=
  let g := (x0 sTile bare).g
  let w := ex 0 8 12 0 0x84080 0xFFFF1310
  groupVals 0x10 (fragRow g (runsA w) 0 0) (fragRow g (runsB w) 0 0)

/-- The exact groups of Table 04.11, and their sum with the accumulator. -/
theorem test_mma_groups : tileGroups = [0x41000000, 0x41800000, 0x41100000, 0xBFA00000] ∧ tileGroups.foldl accAdd 0x3E800000 = 0x42000000 := by decide +kernel

/-- The span of Table 02.13: block 0 escalates into slot 5 and NEXT becomes 6. -/
def block0 : List Nat := [0x3E9EB852, 0xBF1EB852, 0x3F8CCCCD, 0x3D4CCCCD, 0xBF666666, 0x3EF0A3D7, 0x403CCCCD, 0xBE3851EC, 0x3F428F5C, 0xC019999A,
  0x3DF5C28F, 0x3FCA3D71, 0xBEB33333, 0x41C00000, 0x3F23D70A, 0xBF9AE148]

def sSpanIn : State := waysOn (withSet (withGroup tm0 (Group.withX (Group.withU gr0 [(10, 0x0A0A), (11, 0x41000000), (12, 0x3F800000), (13, 0x80003000), (14, 0x100)])
    ((List.range 4).map (fun i => (4 + i, fun n => block0.getD (4 * n + i) 0))))) [allFmts]) |>.storeRun 0x10080003000 (natLe 4 64 ++ natLe 4 5)

def spanOut : State := nx (execQnt (at0 .qnt (e3 2 4 10 255 0x80000)) sSpanIn)

theorem test_qnt_registers : lanesOut spanOut 3 [0, 12, 8] = [0x0F7B, 5, 0] ∧ lanesOut spanOut 2 [0, 1, 2, 3] = [0x3559D24A, 0xC4644FD6, 0x5D3FE254, 0xDA527CCB] := by
  decide +kernel
theorem test_qnt_next : (spanOut.loadNow (x0 spanOut bare) 0x10080003000 8).2 = .bytes (natLe 4 64 ++ natLe 4 6) := by decide +kernel

/-- The lock idiom of chapter 03: of 32 compare-and-swaps of one word lane 0 comes first. -/
def sLock : State := waysOn (withGroup tm0 (Group.withX gr0 [(4, fun _ => 0x80002000), (5, fun _ => 0x100), (6, fun _ => 1), (7, fun _ => 0)]))

def lockOut : State :=
  let s := nx (execRmw (at0 .rmw (e3 8 4 6 7 0xA3000)) sLock)
  match (s.core 0).reqs with
  | r :: _ => nx (execLoadResponse 0 r.id false s)
  | [] => s

theorem test_lock_first : lanesOut lockOut 8 [0, 1, 2, 31] = [0, 1, 1, 1] := by decide +kernel

end Sys2Proof.Tests
end

/-! PROOFS. Register accesses at offsets of BAR0 that no chapter assigns (R15). -/
namespace Sys2Proof.Machine

theorem accSize_bytes_pos (size : AccSize) : 0 < size.bytes := by cases size <;> decide

/-- Each word of an access holds one of the access's own bytes. -/
theorem exists_byte_of_mem_wordsOf {off n p : Nat} (hn : 0 < n) (hp : p ∈ wordsOf off n) :
    ∃ k, off ≤ k ∧ k < off + n ∧ k / 4 * 4 = p := by
  obtain ⟨i, hi, rfl⟩ := List.mem_map.mp hp
  rw [List.mem_range] at hi
  exact ⟨max off ((off / 4 + i) * 4), by omega, by omega, by omega⟩

/-- An access is unassigned as a whole where no byte of it lies in an assigned word. -/
theorem assigned_eq_false {s : State} {off n : Nat} (hn : 0 < n)
    (h : ∀ k, off ≤ k → k < off + n → s.word (k / 4 * 4) = none) : s.assigned off n = false := by
  refine List.any_eq_false.mpr fun p hp => ?_
  obtain ⟨k, hlo, hhi, rfl⟩ := exists_byte_of_mem_wordsOf hn hp
  simp [h k hlo hhi]

theorem regWrite_unassigned {s : State} {off n : Nat} (a : Agent) (v : Nat) (h : s.assigned off n = false) :
    s.regWrite a off n v = (s, true) := by
  simp [State.regWrite, h]

theorem regRead_unassigned {s : State} {off n : Nat} (a : Agent) (h : s.assigned off n = false) :
    s.regRead a off n = (s, some 0) := by
  simp [State.regRead, h]

theorem accRead_firmware {s : State} {o : Nat} (n : Nat) (h : s.reaches .firmware o = true) :
    s.accRead .firmware o n = (s.regRead .firmware o n).1 := by
  simp only [State.reaches] at h
  simp [State.accRead, h]

/-- The completion that the host gets for what its read found (R15, R16). -/
def State.hostReply (s : State) : Option Nat → State
  | some v => s.hostSend (.regRsp (BitVec.ofNat 64 v))
  | none => s.hostSend .regErr

theorem accRead_host {s : State} {o : Nat} (n : Nat) (h : s.reaches .host o = true) :
    s.accRead .host o n = (s.regRead .host o n).1.hostReply (s.regRead .host o n).2 := by
  simp only [State.reaches, Bool.and_eq_true, Bool.not_eq_true'] at h
  obtain ⟨⟨⟨⟨hio, hd3⟩, hmem⟩, hfrozen⟩, hserved⟩ := h
  simp only [State.accRead, hio, hd3, hmem, hfrozen, hserved]
  obtain ⟨t, _ | v⟩ := s.regRead .host o n <;> rfl

theorem exec_registerWrite (a : Agent) (off : BitVec 25) (size : AccSize) (v : W64) (s : State) :
    exec (.registerWrite a off size v) s = .next (s.accWrite a off.toNat size.bytes (v.toNat % 2 ^ (8 * size.bytes))) := rfl

theorem exec_registerRead (a : Agent) (off : BitVec 25) (size : AccSize) (s : State) :
    exec (.registerRead a off size) s = .next (s.accRead a off.toNat size.bytes) := rfl

/-- A write of an unassigned offset that reaches BAR0 changes nothing. -/
theorem accWrite_unassigned {s : State} {a : Agent} {o n : Nat} (v : Nat) (hr : s.reaches a o = true)
    (h : s.assigned o n = false) : s.accWrite a o n v = s := by
  rw [accWrite_reach n v hr, regWrite_unassigned a v h]

theorem accRead_firmware_unassigned {s : State} {o n : Nat} (hr : s.reaches .firmware o = true)
    (h : s.assigned o n = false) : s.accRead .firmware o n = s := by
  rw [accRead_firmware n hr, regRead_unassigned .firmware h]

/-- A host read of an unassigned offset changes nothing but that a completion of value zero goes out. -/
theorem accRead_host_unassigned {s : State} {o n : Nat} (hr : s.reaches .host o = true)
    (h : s.assigned o n = false) : s.accRead .host o n = s.hostSend (.regRsp 0) := by
  rw [accRead_host n hr, regRead_unassigned .host h]
  rfl

/-- Settles O57: none of the words of the access is assigned, so that it ends before width, alignment and register are looked at. -/
theorem unassignedOffsets : Obligations.UnassignedOffsets := by
  unfold Obligations.UnassignedOffsets
  intro a s off size v hreach hnone
  have hun : s.assigned off.toNat size.bytes = false := assigned_eq_false (accSize_bytes_pos size) hnone
  refine ⟨?_, ?_, ?_⟩
  · rw [exec_registerWrite, accWrite_unassigned _ hreach hun]
  · rintro rfl
    rw [exec_registerRead, accRead_firmware_unassigned hreach hun]
  · rintro rfl
    exact ⟨s.hostSend (.regRsp 0), by rw [exec_registerRead, accRead_host_unassigned hreach hun], rfl, rfl⟩

end Sys2Proof.Machine

/-! PROOFS. What waits for BIConflictAck at the home, and the BIConflict that arrives (R253). -/
namespace Sys2Proof.Machine

/-- A write of a bit field is what the field reads as, cut to its width. -/
theorem bits_setBits (v hi lo f : Nat) : bits (setBits v hi lo f) hi lo = f % 2 ^ (hi + 1 - lo) := by
  generalize hk : hi + 1 - lo = k
  simp only [bits, setBits, hk, Nat.shiftRight_eq_div_pow, Nat.shiftLeft_eq]
  have hv : v - v / 2 ^ lo % 2 ^ k * 2 ^ lo = v % 2 ^ lo + 2 ^ lo * (2 ^ k * (v / 2 ^ lo / 2 ^ k)) := by
    have hlow := Nat.mod_add_div v (2 ^ lo)
    have hhigh := Nat.mod_add_div (v / 2 ^ lo) (2 ^ k)
    rw [← hhigh, Nat.mul_add] at hlow
    rw [Nat.mul_comm _ (2 ^ lo)]
    omega
  have hsum : v % 2 ^ lo + 2 ^ lo * (2 ^ k * (v / 2 ^ lo / 2 ^ k)) + f % 2 ^ k * 2 ^ lo =
      v % 2 ^ lo + 2 ^ lo * (f % 2 ^ k + 2 ^ k * (v / 2 ^ lo / 2 ^ k)) := by ring
  have hdiv : v % 2 ^ lo / 2 ^ lo = 0 := Nat.div_eq_of_lt (Nat.mod_lt _ (by positivity))
  rw [hv, hsum, Nat.add_mul_div_left _ _ (by positivity), hdiv, Nat.zero_add, Nat.add_mul_mod_self_left, Nat.mod_mod]

/-- A field below bit 64 is not touched by the cut of its register to 64 bits. -/
theorem bits_mod_word (v : Nat) {hi : Nat} (lo : Nat) (h : hi < 64) : bits (v % 2 ^ 64) hi lo = bits v hi lo := by
  refine Nat.eq_of_testBit_eq fun i => ?_
  simp only [bits, Nat.testBit_mod_two_pow, Nat.testBit_shiftRight]
  by_cases hi' : i < hi + 1 - lo
  · have : lo + i < 64 := by omega
    simp [this]
  · simp [hi']

/-- A field of a register reads as what was written to it, cut to its width. -/
theorem fld_setFld_same (s : State) (f : FRef) (v : Nat) (h : f.hi < 64) : (s.setFld f v).fld f = v % 2 ^ (f.hi + 1 - f.lo) := by
  simp only [State.fld, State.setFld, reg_setReg_self, bits_mod_word _ _ h, bits_setBits]

/-- An event counter of 48 bits after its event (R504). -/
theorem fld_bump_same (s : State) (f : FRef) (n : Nat) (hhi : f.hi = 47) (hlo : f.lo = 0) :
    (s.bump f n).fld f = (s.fld f + n) % 2 ^ 48 := by
  rw [State.bump, fld_setFld_same s f _ (by omega), hhi, hlo]
  omega

theorem foldl_hostSend {α : Type} (f : α → HostMsg) (l : List α) (s : State) :
    l.foldl (fun t x => t.hostSend (f x)) s = { s with ep := { s.ep with tx := s.ep.tx ++ l.map f } } := by
  induction l generalizing s with
  | nil => simp
  | cons x l ih =>
    rw [List.foldl_cons, ih]
    simp [State.hostSend]

/-- Is it a request of the host? -/
def HReq.isHost (r : HReq) : Bool := match r.rq with | .host _ => true | _ => false

theorem isHost_iff (r : HReq) : r.isHost = true ↔ ∃ mv, r.rq = .host mv := by
  cases h : r.rq <;> simp [HReq.isHost, h]

/-- Has the home a request of the host for line `g`, in a transaction or in the conflict queue? -/
def State.hostEarlier (s : State) (g : Nat) : Prop :=
  (∃ x, x ∈ s.txns ∧ x.req.gran = g ∧ ∃ mv, x.req.rq = .host mv) ∨ ∃ r, r ∈ s.conflict ∧ r.gran = g ∧ ∃ mv, r.rq = .host mv

/-- The test by which the home finds that a BIConflict of line `g` has to wait. -/
def State.conflictWaits (s : State) (g : Nat) : Bool :=
  s.txns.any (fun t => t.req.gran == g && t.req.isHost) || s.conflict.any (fun r => r.gran == g && r.isHost)

theorem conflictWaits_iff (s : State) (g : Nat) : s.conflictWaits g = true ↔ s.hostEarlier g := by
  simp only [State.conflictWaits, State.hostEarlier, Bool.or_eq_true, List.any_eq_true, Bool.and_eq_true, beq_iff_eq, isHost_iff]

/-- Of the conflicts that wait, those without an earlier request of the host are acknowledged, in their order; the others stay (R253). -/
theorem ackConflicts_eq (s : State) : s.ackConflicts =
    { s with
      biConf := s.biConf.filter s.conflictWaits
      ep := { s.ep with tx := s.ep.tx ++ (s.biConf.filter (fun g => !s.conflictWaits g)).map (fun g => .ndr g 3) } } :=
  foldl_hostSend (fun g => .ndr g 3) (s.biConf.filter (fun g => !s.conflictWaits g)) { s with biConf := s.biConf.filter s.conflictWaits }

/-- Conflicts whose lines all have an earlier request of the host stay, and nothing goes out. -/
theorem ackConflicts_of_hostEarlier {s : State} (h : ∀ g ∈ s.biConf, s.hostEarlier g) : s.ackConflicts = s := by
  have hwaits : ∀ g ∈ s.biConf, s.conflictWaits g = true := fun g hg => (conflictWaits_iff s g).mpr (h g hg)
  have hstay : s.biConf.filter s.conflictWaits = s.biConf := List.filter_eq_self.mpr hwaits
  have hgo : s.biConf.filter (fun g => !s.conflictWaits g) = [] := List.filter_eq_nil_iff.mpr (by simpa using hwaits)
  simp [ackConflicts_eq, hstay, hgo]

/-- Conflicts of which no line has an earlier request of the host are all answered with BIConflictAck. -/
theorem ackConflicts_of_not_hostEarlier {s : State} (h : ∀ g ∈ s.biConf, ¬ s.hostEarlier g) :
    s.ackConflicts = { s with biConf := [], ep := { s.ep with tx := s.ep.tx ++ s.biConf.map (fun g => .ndr g 3) } } := by
  have hfree : ∀ g ∈ s.biConf, ¬ s.conflictWaits g = true := fun g hg => mt (conflictWaits_iff s g).mp (h g hg)
  have hstay : s.biConf.filter s.conflictWaits = [] := List.filter_eq_nil_iff.mpr hfree
  have hgo : s.biConf.filter (fun g => !s.conflictWaits g) = s.biConf := List.filter_eq_self.mpr (by simpa using hfree)
  simp [ackConflicts_eq, hstay, hgo]

theorem flipStart_of_none {s : State} (h : s.flip = none) : s.flipStart = s := by
  simp [State.flipStart, h]

/-- Without a bias flip only the acknowledgements follow an event at the home. -/
theorem settle_of_no_flip {s : State} (h : s.flip = none) : s.settle = s.ackConflicts :=
  flipStart_of_none (by simp [ackConflicts_eq, h])

theorem linkBusy_mem_requests {s : State} (hhost : s.hostHere = true) (hwait : s.inWait = []) : s.linkBusy 2 = false := by
  simp only [State.hostHere, Bool.and_eq_true, Bool.not_eq_true'] at hhost
  obtain ⟨_, hretrain⟩ := hhost
  simp [State.linkBusy, hretrain, hwait]

/-- The home with the BIConflict of line `g` counted and among those that wait. -/
def State.withConflict (s : State) (g : Nat) : State :=
  ({ s with biConf := s.biConf ++ [g] } : State).bump Fld.HOME_BICONFLICT_CNT_COUNT 1

theorem exec_biConflict {s : State} (addr : BitVec 46) (hhost : s.hostHere = true) (hwait : s.inWait = []) :
    exec (.biConflict addr) s = .next (s.withConflict (canon addr.toNat / 64 * 64)).settle := by
  change execBiConflict addr s = _
  simp [execBiConflict, hhost, linkBusy_mem_requests hhost hwait, State.withConflict]

@[simp] theorem withConflict_biConf (s : State) (g : Nat) : (s.withConflict g).biConf = s.biConf ++ [g] := rfl
@[simp] theorem withConflict_flip (s : State) (g : Nat) : (s.withConflict g).flip = s.flip := rfl
theorem hostEarlier_withConflict (s : State) (g h : Nat) : (s.withConflict g).hostEarlier h ↔ s.hostEarlier h := Iff.rfl

theorem fld_withConflict (s : State) (g : Nat) :
    (s.withConflict g).fld Fld.HOME_BICONFLICT_CNT_COUNT = (s.fld Fld.HOME_BICONFLICT_CNT_COUNT + 1) % 2 ^ 48 :=
  fld_bump_same _ _ 1 rfl rfl

/-- Settles O35: the only conflict that waits is the one that has arrived, so that `ackConflicts` keeps it or answers it by whether the
home has an earlier request of the host for its line. -/
theorem conflictsOfTheHost : Obligations.ConflictsOfTheHost := by
  unfold Obligations.ConflictsOfTheHost
  intro s addr hhost hflip hconf g host earlier hwait
  have hexec := exec_biConflict addr hhost hwait
  have honly : (s.withConflict g).biConf = [g] := by simp [hconf]
  rw [settle_of_no_flip (by simpa using hflip)] at hexec
  refine ⟨_, hexec, ?_, ?_, fun hearlier => ?_, fun hnone => ?_⟩
  · rw [ackConflicts_eq]; rfl
  · rw [ackConflicts_eq]; exact fld_withConflict s g
  · have hall : ∀ l ∈ (s.withConflict g).biConf, (s.withConflict g).hostEarlier l := by
      rw [honly]; exact List.forall_mem_singleton.mpr ((hostEarlier_withConflict s g g).mpr hearlier)
    rw [ackConflicts_of_hostEarlier hall]
    exact ⟨honly, rfl⟩
  · have hall : ∀ l ∈ (s.withConflict g).biConf, ¬ (s.withConflict g).hostEarlier l := by
      rw [honly]; exact List.forall_mem_singleton.mpr (mt (hostEarlier_withConflict s g g).mp hnone)
    rw [ackConflicts_of_not_hostEarlier hall, honly]
    exact ⟨rfl, rfl⟩

end Sys2Proof.Machine
